-- ==== Sys2Proof/Word.lean ====
section
/-! DEFINITION. The words of the module and the numbers by which it names its parts (R11, R12). -/

namespace Sys2Proof

/-- One byte (R3). -/
abbrev Byte := BitVec 8

/-- A 128-byte descriptor, byte 0 in bits [7:0] (R3, R143). -/
abbrev Desc := BitVec 1024

/-- Array dies AD0 to AD3 (R11). -/
abbrev Die := Fin 4

/-- Job slots (R135). -/
abbrev Slot := Fin 16

/-- Array engines AE0 to AE7 (R12). -/
abbrev Eng := Fin 8

/-- Tier-1 stacks 0 to 7 (R12). -/
abbrev Stack := Fin 8

/-- Homes: 0 to 7 the stacks, 8 to 11 the bridges BD0 to BD3 (R12, R224). -/
abbrev Home := Fin 12

/-- Fabric ports P0 to P31 (R12). -/
abbrev PortId := Fin 32

/-- Collective channels (R270). -/
abbrev ChanId := Fin 64

/-- Contexts of a Ringmaster (R169). -/
abbrev CtxId := Fin 8

/-- Tickets, die in bits [9:8] (R139). -/
abbrev TicketId := Fin 1024

end Sys2Proof
end

