-- ==== Sys2Proof/Syntax.lean ====
section
/-! DEFINITION. The commands of the block: one constructor of `Instr` for each row of spec/opcode_table.json, with
the operands its rule names (the table itself gives none). -/

namespace Sys2Proof

/-- The two CAN XL buses (R368). -/
inductive Bus where
  | fbA | fbB
  deriving DecidableEq, Repr

/-- What a CAN XL frame carries beside its priority ID, its acceptance field and its data: the bus, VCID, SDT and SEC (R368). -/
structure Carrier where
  bus : Bus
  vcid : BitVec 8 := 0
  sdt : BitVec 8 := 1
  sec : Bool := false
  deriving DecidableEq, Repr

/-- The three ports of the object dictionary agent (R366): REQUEST and TOOL_REQUEST frames on CAN XL, each with the NODE it is
addressed to (R369), and the UCIe sideband mailbox of the module's own head die. -/
inductive Port where
  | request (frame : Carrier) (node : BitVec 6)
  | tool (frame : Carrier) (node : BitVec 6)
  | ucie
  deriving DecidableEq, Repr

/-- Who stands behind a port, on whichever bus it sends (R372, R379). -/
inductive Requester where
  | manager | tool | headDie
  deriving DecidableEq, Repr

def Port.requester : Port → Requester
  | .request _ _ => .manager
  | .tool _ _ => .tool
  | .ucie => .headDie

/-- A HEARTBEAT as it is received, or an ALARM, which R377 takes alike (log entry 89). -/
structure BeatFrame where
  carrier : Carrier
  alarm : Bool := false
  deriving DecidableEq, Repr

/-- A RESPONSE as it is received, or a TOOL_RESPONSE, which R377 takes alike (log entry 89). -/
structure AnswerFrame where
  carrier : Carrier
  tool : Bool := false
  deriving DecidableEq, Repr

/-- What a controller meets on its bus: no frame for three heartbeat intervals, a change of its error state (R375), or an error
frame (R391). -/
inductive BusTrouble where
  | silent | errorPassive | busOff | errorFrame
  deriving DecidableEq, Repr

/-- One reading of the strap pins (R376, R422). -/
structure StrapRead where
  /-- NODE_ID[5:0]. -/
  node : BitVec 6
  /-- MGR_SEL_N, true for high. -/
  mgrSelN : Bool
  /-- SITE_ID[1:0]. -/
  site : BitVec 2
  deriving DecidableEq, Repr

/-- A descriptor ring (R135). -/
inductive RingKind where
  | h | x | u
  deriving DecidableEq, Repr

/-- The units that a profile change or a control fault names (R294, R382). -/
inductive ModUnit where
  | dispatch (d : Die)
  | engine (e : Eng)
  | accum (e : Eng)
  | vector (e : Eng)
  | stream (d : Die) (n : Fin 8)
  | ringmaster (d : Die)
  | collective
  | mirror
  | power
  | linkDie (n : Fin 8)
  deriving DecidableEq, Repr

/-- What the code of a stored word or burst finds when it is read (R43, R215). -/
inductive Ecc where
  | clean | corrected | uncorrectable
  deriving DecidableEq, Repr

/-- The worse of two findings. -/
def Ecc.worse : Ecc → Ecc → Ecc
  | .uncorrectable, _ => .uncorrectable
  | _, .uncorrectable => .uncorrectable
  | .corrected, _ => .corrected
  | .clean, c => c

/-- The tables whose words carry the code of R43 (R296): queue ends, flags, the routing copies of the link dies, and the variant
contexts. -/
inductive CodedTable where
  | queueEnd (d : Die)
  | flag (d : Die)
  | routing (linkDie : Fin 8)
  | variant
  deriving DecidableEq, Repr

/-- Errors that have arisen in what the module stores and that no read has met yet (log entry 56). -/
inductive Upset where
  /-- Wrong symbols in a sector of a burst (R215). -/
  | sector (burst : Nat) (sector : Fin 4) (symbols : Nat)
  /-- One wrong bit, or two, in an 8-byte word of an engine's queue storage (R43, R56). -/
  | queueWord (eng : Eng) (word : Fin 8388608) (double : Bool)
  /-- The same in an 8-byte word of a Ringmaster's private memory (R168). -/
  | privWord (die : Die) (word : Fin 32768) (double : Bool)
  /-- Two wrong bits in a table entry (R296); single ones are corrected in silence. -/
  | tableEntry (table : CodedTable) (entry : Nat)
  /-- A control field that the unit uses next no longer agrees with its residue modulo 3 (R294). -/
  | control (unit : ModUnit)
  deriving DecidableEq, Repr

/-- What the code of the accumulator bank finds at a row and a column of the bank when a drain or a promotion reads it (R110). -/
structure BankFault where
  code : Ecc
  row : Fin 4096
  col : Fin 512
  deriving DecidableEq, Repr

/-- A promotion whose residue does not match (R292): the entry, the chunk, and the total that the hardware keeps there. -/
structure PromoFault where
  row : Fin 4096
  col : Fin 512
  chunk : Fin 32
  total : BitVec 42
  deriving DecidableEq, Repr

/-- What is found as a row of totals passes from one set to another (R110, R292): by the code at the sender's bank and at the taking
set's, and promotions of the taking set that fail their residue. -/
structure RowFaults where
  bank : List BankFault
  taken : List BankFault
  promo : List PromoFault
  deriving DecidableEq, Repr

/-- What the physical array and its accumulation unit add to a wavefront: differences of chunk sums from the exact ones, each
for a logical column and a chunk in units of 2⁻³² (R38, R292), what a scrubber finds in the active set (R44, R45), what the
bank's code finds (R110), and promotions that fail their residue (R292). -/
structure ArrayFault where
  /-- (logical column, chunk, difference in units of 2⁻³²) -/
  tree : List (Nat × Nat × Int)
  /-- Finding of the active scrubber and the logical row it names: in the row's data cells, its checksum-column cell or its
  segment exponents, and with row 512 in the checksum row or the column-foot exponents (R43; log entry 66). -/
  scrub : Ecc
  scrubRow : Fin 513
  bank : List BankFault
  promo : List PromoFault
  deriving DecidableEq, Repr

/-- A wavefront in which the hardware does what it should. -/
def ArrayFault.none : ArrayFault := { tree := [], scrub := .clean, scrubRow := 0, bank := [], promo := [] }

/-- A flit as it is received or sent (R262). The LCRC stands for one link, and is recomputed when the flit leaves; `garbled` is the
decoder's verdict that its codewords could not be corrected (R259). -/
structure Flit where
  typ : BitVec 8
  vc : BitVec 3
  ttl : BitVec 5
  dest : BitVec 13
  src : BitVec 13
  arg : BitVec 64
  payload : List Byte
  lcrc : BitVec 16 := 0
  garbled : Bool := false
  deriving DecidableEq, Repr

namespace Machine

/-- Status codes of R8 and R430. -/
inductive Status where
  | ok | late | timeout | cancelled | deadlock | longsum | nonfinite | checksum | residue | eccUncorr
  | conflict | busy | streamSkew | peakRefused | absent | aborted | invalid | hot | checkval | digest
  deriving DecidableEq, Repr

/-- The failures of R8: every status but OK, LATE and those of a success with a report. -/
def Status.failure (x : Status) : Bool :=
  x != .ok && x != .late && x != .longsum && x != .peakRefused && x != .absent && x != .hot

end Machine

/-- What the shelf, the flash and the stacks' sensors add to a boot (R219, R403, R404, R422). -/
structure BootInput where
  /-- The three readings of the straps, 10 µs apart. -/
  straps : StrapRead × StrapRead × StrapRead
  /-- The step of R403 behind step 2 that fails, less 3, and its status, if one fails (R404); a status that is no failure fails no step. -/
  laterFailure : Option (Fin 7 × Machine.Status)
  /-- The stacks' hottest sensors at the first refresh interval after step 4, in thousandths of a degree (R219). -/
  sensors : Vector Int 8
  deriving DecidableEq, Repr

/-- Energy events of an interval, as the activity estimate counts them (R357). -/
structure EnergyCounts where
  wavefronts : Nat := 0
  loadSteps : Nat := 0
  queueAccesses : Nat := 0
  memoryBursts : Nat := 0
  flits : Nat := 0
  laneOps : Nat := 0
  deriving DecidableEq, Repr

/-- What a job slot's descriptors, and the collective and mirror engines and check-value units that serve it, used in an interval: energy
events and admission tokens (R361). -/
structure SlotUse where
  events : EnergyCounts := {}
  tokens : Nat := 0
  deriving DecidableEq, Repr

/-- The commands: the rows of spec/opcode_table.json, in the table's order. -/
inductive Instr where
  -- power and reset (R411 to R422)
  | powerOn
  | lockout
  | overvoltageShutdown
  | railOutOfRegulation
  | resetNAssert (micros : Nat) (taken : Bool)
  | resetNRelease (boot : BootInput)
  | pwrOkFall
  | pwrOkRise
  -- object dictionary (R366 to R373)
  | objectRead (port : Port) (index : BitVec 16) (sub : BitVec 8) (seg : BitVec 5)
  | writeMore (port : Port) (index : BitVec 16) (sub : BitVec 8) (seg : BitVec 5) (data : List Byte)
  | writeLast (port : Port) (index : BitVec 16) (sub : BitVec 8) (seg : BitVec 5) (data : List Byte)
  | objectWrite (port : Port) (index : BitVec 16) (sub : BitVec 8) (data : List Byte)
  | segmentTimeout
  -- field network (R374 to R380)
  | heartbeat
  | alarm
  | heartbeatReceived (frame : BeatFrame) (node : BitVec 6)
  | managerLost
  | busSilent (bus : Bus) (what : BusTrouble)
  | reset (port : Port)
  | stop (port : Port)
  | fieldReset (port : Port)
  -- profile changes (R381 to R384, R346)
  | prepare (port : Port) (word : BitVec 32)
  | prepareAcknowledge (unit : ModUnit)
  | prepareTimeout
  | preparedFieldsWrite (port : Port) (slot : Slot) (value : BitVec 8)
  | commit (port : Port) (word : BitVec 32)
  | abort (port : Port) (word : BitVec 32)
  | profileSwitch (slot : Slot) (unit : ModUnit)
  | railStep
  -- ownership (R385 to R387)
  | claim (port : Port) (request : BitVec 128)
  | release (port : Port) (request : BitVec 128)
  | softwareAlert (port : Port) (value : Bool)
  -- field relay (R400)
  | fieldRelay (cmd : BitVec 64) (data : List Byte)
  | response (frame : AnswerFrame) (node : BitVec 6) (accept : BitVec 32) (data : List Byte)
  | relayTimeout
  -- head die (R393 to R399)
  | mainbandWrite (tag : BitVec 10) (addr : BitVec 56) (data : List Byte)
  | mainbandWriteMasked (tag : BitVec 10) (addr : BitVec 56) (data : List Byte) (mask : List Bool)
  | mainbandRead (tag : BitVec 10) (addr : BitVec 56) (bursts : BitVec 8)
  | doorbellH (tag : BitVec 10) (die : Die) (slot : Slot) (value : BitVec 16)
  | doorbellC (tag : BitVec 10) (die : Die) (slot : Slot) (value : BitVec 16)
  | doorbellU (tag : BitVec 10) (die : Die) (value : BitVec 16)
  | evHeadWrite (value : BitVec 64)
  | evRingConfigWrite (size : Bool) (value : BitVec 64)
  -- firmware, measurements, quotes (R405 to R408)
  | updateWrite (port : Port)
  | updateSelect (port : Port)
  | commitSvn (port : Port)
  | extend (port : Port) (value : List Byte)
  | quoteNonce (port : Port) (nonce : List Byte)
  | quoteReady
  -- library (R183, R184)
  | loadBankA (port : Port) (die : Die)
  | loadBankB (port : Port) (die : Die)
  | libraryLoadComplete (die : Die)
  | librarySwitch (port : Port) (die : Die)
  -- configuration writes
  | mixerTestInput (port : Port) (x : BitVec 64)
  | ringConfigWrite (port : Port) (die : Die) (slot : Option Slot) (which : BitVec 8) (value : BitVec 64)
  | queueEndTableWrite (port : Port) (die : Die) (data : List Byte)
  | flagTableWrite (port : Port) (die : Die) (data : List Byte)
  | variantTableWrite (port : Port) (data : List Byte)
  | bufferTableWrite (port : Port) (slot : Slot) (data : List Byte)
  | netHostTableWrite (port : Port) (data : List Byte)
  | routingTableWrite (port : Port) (data : List Byte)
  | portEnableWrite (port : Port) (value : BitVec 32)
  | channelConfigWrite (port : Port) (chan : ChanId) (sub : BitVec 8) (data : List Byte)
  | powerCapWrite (port : Port) (watts : BitVec 16)
  | initialPaceWrite (port : Port) (slot : Slot) (pace : BitVec 16)
  | energyClear (port : Port) (value : BitVec 32)
  | retireRequest (port : Port) (eng : Eng) (word : BitVec 16)
  | retireEngine (port : Port) (eng : Eng) (value : Bool)
  -- repair and diagnosis (R48, R312); the findings come with the logical row they name
  | engineRepair (eng : Eng) (activeScrub shadowScrub : Ecc × Fin 513)
  | rowDiagnostic (eng : Eng) (differing : Option (Fin 520))
  -- restore (R336 to R338)
  | restoreCommand (port : Port) (slot : Slot) (peerHeader : List Byte)
  | restoreComplete (slot : Slot) (peerPayload : List (Nat × Byte)) (peerPoisoned : Bool)
  | restoreReadTimeout (slot : Slot)
  | slotAbort (port : Port) (slot : Slot)
  -- dispatch (R135 to R163)
  -- `fault`: a control field's residue does not match at its use (R294)
  | descriptorFetch (die : Die) (ring : RingKind) (slot : Slot) (fault : Bool)
  | descriptorIssue (ticket : TicketId) (fault : Bool)
  | descriptorCompletion (ticket : TicketId)
  | completionRecord (ticket : TicketId)
  | waitCycleSearch (ticket : TicketId)
  | cancel (ticket : TicketId)
  | cancelComplete (ticket : TicketId)
  -- accumulation (R108 to R131)
  -- `residue`: the element of a conversion, or the column of a transfer, whose residue does not match, and the code that the
  -- hardware delivers there (R292, R293); `bank`: what the bank's code finds as the drain reads it (R110)
  | matmulStart (ticket : TicketId)
  | matmulContinue (ticket : TicketId)
  | matmulSeed (ticket : TicketId)
  | matmulAccept (ticket : TicketId)
  | drainOut (ticket : TicketId) (residue : Option (Nat × Nat)) (bank : List BankFault)
  | drainEngine (ticket : TicketId)
  | drainCollective (ticket : TicketId) (residue : Option (Nat × Nat)) (bank : List BankFault)
  | drainForce (ticket : TicketId)
  | endToken (ticket : TicketId)
  | totalsRow (eng : Eng) (set : Fin 16) (residue : Option (Fin 512 × BitVec 42)) (faults : RowFaults)
  | abandonMarker (eng : Eng) (set : Fin 16)
  | convert (ticket : TicketId) (residue : Option (Nat × Nat))
  -- array and Carousel (R25 to R75)
  | loadstat (ticket : TicketId)
  | loadStep (eng : Eng) (scrub : Ecc)
  | swap (ticket : TicketId)
  | swapExecute (eng : Eng)
  | admissionToken (eng : Eng)
  | wavefront (eng : Eng) (fault : ArrayFault)
  -- `code`: what has arisen in the word of the round that `word` counts (R43, R56)
  | carouselRound (eng : Eng) (input : Fin 5) (word : Fin 1024) (code : Ecc)
  | correctedWriteback (eng : Eng)
  -- vector unit (R156)
  | copy (ticket : TicketId) (residue : Option (Nat × Nat))
  | relu (ticket : TicketId) (residue : Option (Nat × Nat))
  | gelu (ticket : TicketId) (residue : Option (Nat × Nat))
  | silu (ticket : TicketId) (residue : Option (Nat × Nat))
  | tanh (ticket : TicketId) (residue : Option (Nat × Nat))
  | exp (ticket : TicketId) (residue : Option (Nat × Nat))
  | rsqrt (ticket : TicketId) (residue : Option (Nat × Nat))
  | vecScale (ticket : TicketId) (residue : Option (Nat × Nat))
  | add (ticket : TicketId) (residue : Option (Nat × Nat))
  | mul (ticket : TicketId) (residue : Option (Nat × Nat))
  | fma (ticket : TicketId) (residue : Option (Nat × Nat))
  | swiglu (ticket : TicketId) (residue : Option (Nat × Nat))
  | rowmax (ticket : TicketId) (residue : Option (Nat × Nat))
  | softmax (ticket : TicketId) (residue : Option (Nat × Nat))
  | softmaxCausal (ticket : TicketId) (residue : Option (Nat × Nat))
  | rmsnorm (ticket : TicketId) (residue : Option (Nat × Nat))
  | layernorm (ticket : TicketId) (residue : Option (Nat × Nat))
  | sumsq (ticket : TicketId) (residue : Option (Nat × Nat))
  | adamMoments (ticket : TicketId) (residue : Option (Nat × Nat))
  | adamWeight (ticket : TicketId) (residue : Option (Nat × Nat))
  | sgdMomentum (ticket : TicketId) (residue : Option (Nat × Nat))
  | maxcap (ticket : TicketId) (residue : Option (Nat × Nat))
  -- streams and transfers (R189 to R204, R268, R269)
  | streamLinear (ticket : TicketId)
  | streamIndexed (ticket : TicketId)
  | streamEntryStart (ticket : TicketId)
  | stripClaim (ticket : TicketId)
  -- `residue`: the narrowing conversion of the row fails its residue (R293)
  | readDataArrival (ticket : TicketId) (row : Nat) (residue : Bool)
  -- `read`: the STREAM's ticket and the TAG of its read (R203)
  | streamReadTimeout (read : TicketId × Fin 8192)
  | put (ticket : TicketId)
  | get (ticket : TicketId)
  | fabricOpTimeout (ticket : TicketId)
  -- collectives (R270 to R288); `residue`: an addition or a conversion of the collective engine fails its residue (R293)
  | chainReduce (ticket : TicketId) (residue : Bool)
  | reduceScatter (ticket : TicketId) (residue : Bool)
  | allGather (ticket : TicketId)
  | broadcast (ticket : TicketId)
  | backup (ticket : TicketId) (residue : Bool)
  | normCollective (ticket : TicketId) (residue : Bool)
  | collectiveIssue (ticket : TicketId)
  | latenessTimer (chan : ChanId) (shard : BitVec 13)
  | collectiveTimeout (chan : ChanId)
  -- services
  | waitSet (ticket : TicketId)
  | flagWrite (ticket : TicketId)
  | fence (ticket : TicketId)
  | mirror (ticket : TicketId)
  | mirrorTimeout (slot : Slot)
  | checkarm (ticket : TicketId)
  -- Ringmaster (R166 to R180)
  | layerFwd (ticket : TicketId)
  | layerBwd (ticket : TicketId)
  | normClipUpdate (ticket : TicketId)
  | variantUpdate (ticket : TicketId)
  | mirrorStep (ticket : TicketId)
  | externalRoutine (ticket : TicketId)
  | publicationRelease (die : Die) (ctx : CtxId)
  | rxTail (die : Die) (ctx : CtxId) (tail : BitVec 16)
  | flagWait (die : Die) (ctx : CtxId) (word : BitVec 64)
  | flagWaitResume (die : Die) (ctx : CtxId)
  | flagRead (die : Die) (ctx : CtxId) (flag : BitVec 12)
  | event (die : Die) (ctx : CtxId) (word : BitVec 64)
  | routineReturn (die : Die) (ctx : CtxId) (a0 : BitVec 64)
  | riscvFence (die : Die) (ctx : CtxId)
  | loadReserved (die : Die) (ctx : CtxId) (addr : BitVec 64) (wide : Bool)
  | storeConditional (die : Die) (ctx : CtxId) (addr : BitVec 64) (wide : Bool) (value : BitVec 64)
  -- homes (R211 to R222, R233)
  | homeAccess (pos : Nat) (code : Ecc)
  | maskedWrite (pos : Nat) (code : Ecc)
  | atomicAdd (ctx : Option (Die × CtxId)) (tag : BitVec 10) (addr : BitVec 56) (wide : Bool) (operand : BitVec 64)
  | atomicSwap (ctx : Option (Die × CtxId)) (tag : BitVec 10) (addr : BitVec 56) (wide : Bool) (operand : BitVec 64)
  | atomicAnd (ctx : Option (Die × CtxId)) (tag : BitVec 10) (addr : BitVec 56) (wide : Bool) (operand : BitVec 64)
  | atomicOr (ctx : Option (Die × CtxId)) (tag : BitVec 10) (addr : BitVec 56) (wide : Bool) (operand : BitVec 64)
  | atomicXor (ctx : Option (Die × CtxId)) (tag : BitVec 10) (addr : BitVec 56) (wide : Bool) (operand : BitVec 64)
  | atomicMin (ctx : Option (Die × CtxId)) (tag : BitVec 10) (addr : BitVec 56) (wide : Bool) (operand : BitVec 64)
  | atomicMax (ctx : Option (Die × CtxId)) (tag : BitVec 10) (addr : BitVec 56) (wide : Bool) (operand : BitVec 64)
  | atomicMinu (ctx : Option (Die × CtxId)) (tag : BitVec 10) (addr : BitVec 56) (wide : Bool) (operand : BitVec 64)
  | atomicMaxu (ctx : Option (Die × CtxId)) (tag : BitVec 10) (addr : BitVec 56) (wide : Bool) (operand : BitVec 64)
  | atomicCas (tag : BitVec 10) (addr : BitVec 56) (expected replacement : BitVec 64)
  | burstAdd (chan : ChanId) (burst : Nat)
  | memoryWriteback (burst : Nat)
  -- `found`: the code's finding in the burst, and what has arisen in stored words anywhere on the module since the last scrub
  -- read (log entry 56)
  | patrolScrub (home : Home) (found : Ecc × List Upset)
  | stackClassSample (stack : Stack) (milliCelsius : Int)
  | throttleStep (stack : Stack) (milliCelsius : Int)
  -- fabric (R258 to R288)
  | writeFlit (port : PortId) (f : Flit)
  | readFlit (port : PortId) (f : Flit)
  | dataFlit (port : PortId) (f : Flit)
  | ackFlit (port : PortId) (f : Flit)
  | flagsetFlit (port : PortId) (f : Flit)
  | burstAddFlit (port : PortId) (f : Flit)
  | chainFlit (port : PortId) (f : Flit) (residue : Bool)
  | resultFlit (port : PortId) (f : Flit) (residue : Bool)
  | readyFlit (port : PortId) (f : Flit)
  | rideFlit (port : PortId) (f : Flit) (residue : Bool)
  | digestFlit (port : PortId) (f : Flit)
  | noticeAbsent (port : PortId) (f : Flit)
  | noticeDigestBad (port : PortId) (f : Flit)
  | noticeAbort (port : PortId) (f : Flit)
  | linkFlit (port : PortId) (f : Flit)
  | flitForward (inPort outPort : PortId) (f : Flit)
  | laneFailure (port : PortId) (lane : Fin 9)
  | spareLaneSwitch (port : PortId)
  | portTrainingComplete (port : PortId) (peer : BitVec 13) (half : Option Bool)
  -- integrity and commit (R305 to R308, R321)
  | dieSwap (pair : Fin 2)
  -- `die` and `number`: those of the ticket of the CALL or the update descriptor (R139)
  | replay (slot : Slot) (die : Die) (number : Fin 256)
  | stepCommit (slot : Slot)
  -- pace and power (R343 to R362)
  | paceMonitorSample (eng : Eng) (rate : Nat)
  | capLoopSample (events : EnergyCounts)
  | guardSample (milliamps : Nat)
  | estimatorSlowLoop (events : EnergyCounts) (measured : Nat)
  | measurementLoop (milliwatts : Nat)
  | heatLimitStep (milliCelsius : Int)
  | wearCountTick
  | wearStoreWrite
  | energyAttribution (millijoules : Nat) (use : List (Slot × SlotUse))
  | updateComplete
  | workerPresenceExpiry (node : Fin 64)
  | busOffRecovery (bus : Bus)
  | ucieLinkDown
  | ucieLinkRetrained
  | flitOfOtherType (port : PortId) (f : Flit)
  deriving DecidableEq, Repr

end Sys2Proof
end

