-- ==== Sys2Proof/Decode.lean ====
section
/-! DEFINITION. Commands as table words. The opcode table gives its rows no bits, so no word spells a command; the encodings
that the manual does give (descriptors, flits, doorbells, object frames) are read where the commands carry them. -/

namespace Sys2Proof

/-- The command that a word of `nbits` bits spells by the table's bits: the table gives none. -/
def decodeTableWord (_nbits _w : Nat) : Option Instr := none

end Sys2Proof
end

