-- ==== Sys2Proof/Config.lean ====
section
/-! DEFINITION. What one implementation fixes and the manual does not state: manufacture data, the schemes of outside
standards that the manual names only, and the FREE VALUES, each an opaque constant with no body. -/

namespace Sys2Proof.Config

/-- What a routine reads when it forms descriptors (R174, R175): library code, routine number, argument block, plan,
INLINE, job slot, epoch, and what is formed: 0 the first descriptors, 1 an update,
2 a skip, 3 + 2v and 4 + 2v the same for variant v. -/
structure PlanInput where
  code : List Byte
  routine : BitVec 16
  args : List Byte
  plan : List Byte
  inline : List Byte
  slot : Fin 16
  epoch : BitVec 16
  phase : Nat
  deriving DecidableEq, Repr

/-- Free value: by how many units in the last place, less 2, a function of R103 misses its value, by function and operand. The manual
fixes no algorithm and bounds the error at 2 (log entry 5). -/
opaque laneError : BitVec 8 → BitVec 32 → Fin 5

/-- Free value: the two partial sums that step i of a row sum over n values adds. The order is fixed, depends on the row length
alone and is not stated (R156; log entry 6). -/
opaque sumOrder : Nat → Nat → Nat × Nat

/-- Free value: whether a function of R156 forms x × y + z as one fused operation or as two rounded ones (log entry 7). -/
opaque fuses : BitVec 8 → Bool

/-- Free value: what a 42-bit checksum cell of 2⁻¹⁶ holds after it has added L16s values whose sum it cannot hold (R37, R70; log
entry 67). -/
opaque wideCheck : Int → List (BitVec 8) → Int

/-- Free value: the fraction of a long total that is a NaN, less 1, modulo 2³¹ − 1 (R83 gives only that it is not 0; log entry 8). -/
opaque longNanFraction : Nat

/-- Free value: what a count of the given width holds after its last value (log entry 9). -/
opaque countPastEnd : (w : Nat) → BitVec w

/-- Free value: the slot that takes the remainder of an energy division (R361; log entry 10). -/
opaque remainderSlot : Nat → List (Fin 16 × Nat) → Fin 16

/-- Free value: the maximum of a row that holds both zeros but nothing larger keeps either sign (ROWMAX, R156; log entry 11). -/
opaque zeroOfMax : List (BitVec 32) → Bool

/-- Free value: values the model reads a fresh one of each time (log entry 12): the number counts the reads. -/
opaque freshWord : Nat → BitVec 64

/-- The descriptors an Ndotas or outside routine forms from what it reads (R175). The layouts are Thenor's (R179; log entry 13). -/
opaque plan : PlanInput → List Desc

/-- The TARGET of the wait on the norm collective's flag that a routine takes from its plan (R174, R180; log entry 13). -/
opaque normTarget : PlanInput → BitVec 16

/-- The variant contexts that VARIANT_UPDATE's plan lists (R178, R254; log entry 13). -/
opaque planVariants : PlanInput → List (Fin 512)

/-- Where the plan of VARIANT_UPDATE keeps a variant's step-record pair (R254; log entry 13). -/
opaque variantRecord : PlanInput → Fin 512 → Nat

/-- The micro-batch of a LAYER_BWD, and whether its plan is of the weight pass and not of a backward (R244, R245; log entry 87). -/
opaque microBatch : PlanInput → BitVec 16
opaque weightPass : PlanInput → Bool

/-- A region of MIRROR_STEP's list: the step-record pair that names its buffer of a step, both buffers and their length (R178,
R319, R328; log entry 13). -/
structure MirrorItem where
  record : Nat
  baseA : Nat
  baseB : Nat
  bytes : Nat
  deriving DecidableEq, Repr

opaque mirrorList : PlanInput → List MirrorItem

/-- A snapshot's copy of one shard: both buffers, length, place in the staging region and flag (R255, R256; log entry 13). -/
structure SnapshotItem where
  baseA : Nat
  baseB : Nat
  bytes : Nat
  dst : BitVec 56
  flag : BitVec 12
  deriving DecidableEq, Repr

opaque snapshots : PlanInput → List SnapshotItem

/-- The snapshots that the step before copied, each with the TARGET of the wait on its flag, as the plan of an update names them (R255; log
entry 87). -/
opaque awaitedSnapshots : PlanInput → List (SnapshotItem × BitVec 16)

/-- The staging flag that the first PUT of a snapshot waits on, and its TARGET (R256; log entry 13). -/
opaque stagingFlag : PlanInput → BitVec 12 × BitVec 16

/-- The VEC SCALEs of a plan that form the loss gradient, by their place in its list, each with the step-record pair whose λ it
takes (R250, R254; log entry 13). -/
opaque lossScales : PlanInput → List (Nat × Nat)

/-- SLH-DSA verification (FIPS 205; R182, R402): public key, message, signature (log entry 14). -/
opaque slhVerify : List Byte → List Byte → List Byte → Bool

/-- SLH-DSA signature of the module's attestation key (R408): 17,088 bytes over the message (log entry 14). -/
opaque slhSign : List Byte → List Byte

/-- Digests of the delivered bundle's parts: 0 hub, 1 head, 2 library code (R403, R406; log entry 15). -/
opaque factoryDigest : Fin 3 → Fin 32 → Byte

/-- The firmware public keys in the fuses: four of 64 bytes (R402; log entry 14). -/
opaque firmwareKey : Fin 4 → Fin 64 → Byte

/-- SVN and KEY_SLOT of the delivered bundle (R401, R402; log entry 15). -/
opaque factorySvn : BitVec 16
opaque factoryKeySlot : Fin 4

/-- Free value: how the record that MR2 is extended with at boot lays down the key slot, the fused SVN, the revocation bits and the straps
in its first 8 bytes; zeros follow (R406; log entry 38). -/
opaque bootRecord : BitVec 8 → BitVec 16 → BitVec 4 → BitVec 9 → Fin 8 → Byte

/-- Serial number, 16 characters, fixed at manufacture (R391). -/
opaque serial : Fin 16 → Byte

/-- ISSUER, ATTEST_PK and SIGNATURE of the identity certificate, fixed at manufacture (R407). -/
opaque issuer : Fin 4 → Byte
opaque attestKey : Fin 32 → Byte
opaque certSignature : Fin 29792 → Byte

/-- Free value: the operation that [6:0] of ATOP names, which no rule numbers: the rows of R233 in order, ADD 0 to CAS 9, and 10 for a code
of none (R393; log entry 91). -/
opaque atomicCode : BitVec 7 → Fin 11

/-- Energy of one event in nanojoules at a rail setpoint in millivolts, by kind: admitted wavefront, load step, queue-storage access,
memory burst, fabric flit, lane operation (R357; log entry 90). -/
opaque energyCoefficient : Fin 6 → Nat → Nat

/-- Pace monitor's calibration factor of an engine as numerator and denominator less 1, stored at manufacture (R347). -/
opaque calibration : Fin 8 → Nat × Nat

/-- Maximum pace at manufacture of an engine at a rail setpoint in millivolts (R364). -/
opaque paceAtTest : Fin 8 → Nat → BitVec 16

end Sys2Proof.Config
end

