-- ==== Sys2Proof/Machine/State.lean ====
section
/-! DEFINITION. The state of the block as plain data, its faults and refusals, and the state right after reset. -/

namespace Sys2Proof.Machine

/-- Why the machine stops. The manual answers every request, so there is one reason only. -/
inductive Fault where
  /-- Raised by MAINBAND_WRITE, MAINBAND_WRITE_MASKED and the commands that carry a flit, when the data's length is one
  that no transaction or flit can carry (R262, R393 give none). Safe: such a command does not exist. -/
  | malformedTransfer
  deriving DecidableEq, Repr

/-- Why a command has no meaning. -/
inductive Refusal where
  /-- Raised by an arm of `exec` whose command has no meaning yet. Safe. -/
  | notModelled (mnemonic : String)
  deriving DecidableEq, Repr

/-- A total table kept as the list of the keys whose value differs from the table's default, keys strictly rising. -/
abbrev Sparse (α : Type) := List (Nat × α)

/-- Power modes (R17, R345). -/
inductive PowerMode where
  | frugal | sustain | peak
  deriving DecidableEq, Repr

/-- Integrity levels (R18). -/
inductive Integrity where
  | lean | standard | strict
  deriving DecidableEq, Repr

/-- The four fields of a profile (R18). -/
structure Profile where
  power : PowerMode
  integrity : Integrity
  /-- Reduction order: false Chained, true Arrival. -/
  arrival : Bool
  /-- Mirror policy: false Adaptive, true Fixed. -/
  mirrorFixed : Bool
  deriving DecidableEq, Repr

/-- Profile 00h, in force after reset (R19). -/
def Profile.reset : Profile :=
  { power := .sustain, integrity := .standard, arrival := false, mirrorFixed := false }

/-- Profile phases (R382). -/
inductive Phase where
  | idle | prepared | committing
  deriving DecidableEq, Repr

/-- Where the module stands between power and READY (R403, R412, R415, R416, R380). -/
inductive PowerState where
  /-- No 12 V bus: off, or after a lockout or an overvoltage shutdown (R412). -/
  | off
  /-- Powered and held in reset (R415 step 1, R421). -/
  | held
  /-- A rail left regulation: second-stage rails down until RESET_N pulses (R416). -/
  | railsDown
  /-- In reset after STOP, until power is removed or RESET_N pulses (R380). -/
  | stopped
  /-- A boot fault (R404). `early` for step 2, false for a later step. -/
  | bootFault (early : Bool)
  /-- Booted, READY reached (R403 step 9). -/
  | running
  deriving DecidableEq, Repr

/-- Slot states (R341). -/
inductive SlotState where
  | running | restoring | restoreFailed
  deriving DecidableEq, Repr

/-- A copy to the keep and the safety net in progress (R328). -/
structure Copy where
  step : BitVec 32
  half : Fin 2
  /-- Regions already copied, by table position. -/
  done : List Nat
  /-- V of R297 over the payload so far. -/
  v : BitVec 32
  /-- The MIRROR at work: its ticket, its fetch number and the position of its region; and how many answers are due. -/
  waiting : Option (TicketId × Nat × Nat)
  acks : Nat
  /-- The zeroed header has been acknowledged by the partner. -/
  open_ : Bool
  /-- The final header has been sent. -/
  closing : Bool
  deriving DecidableEq, Repr

/-- A restore in progress (R337): its source and what its header says. -/
structure RestoreRun where
  header : List Byte
  own : Bool
  /-- The module that holds the half. -/
  source : Nat
  base : Nat
  dataStep : BitVec 32
  streamStep : BitVec 32
  seed : BitVec 64
  check : BitVec 32
  /-- What its READs are known by; the model's own. -/
  run : Nat := 0
  /-- Payload bursts that DATA flits have brought, by copy sequence number, each with its poison. -/
  got : Sparse (Option (List Byte × Bool)) := []
  deriving DecidableEq, Repr

/-- A CALL by its ticket, die included, and its slot in ring H (R307, R316). -/
abbrev CallId := TicketId × BitVec 16

/-- A CALL of a step as its replay takes it: the descriptor, the bank it entered, and the flags and MIRROR_DUE as it was issued (R307,
R175). -/
structure CallLog where
  call : CallId
  desc : Desc
  bankB : Bool
  flags : Sparse (BitVec 32)
  due : Option (BitVec 32)
  deriving DecidableEq, Repr

/-- A replay under way (R307, R308). -/
structure ReplayRun where
  /-- The CALLs that it covers, each with the signature folded so far. -/
  calls : List (CallId × BitVec 64)
  /-- Descriptors that the CALLs have expanded to, in order, and how many of them have their tickets. -/
  descs : List (CallId × Desc)
  taken : Nat
  /-- The replay's copy of the flags. -/
  flags : Sparse (BitVec 32)
  deriving DecidableEq, Repr

/-- Registers and state of one job slot: objects 3110h + j, 1F13h:j+1, 1F20h + j, 2010h + j, 2080h:j+1, 3018h + j,
6010h + j, the epoch of 3240h + 16d + j:0E, and what stands behind them. -/
structure SlotR where
  /-- 3110h+j:01 to :06 (R107). -/
  seed : BitVec 64 := 0
  scaleBase : BitVec 64 := 0
  scaleCount : BitVec 32 := 0
  dataStep : BitVec 32 := 0
  streamStep : BitVec 32 := 0
  skew : Bool := false
  /-- The slot's epoch, one per module (R159). -/
  epoch : BitVec 16 := 0
  /-- Profile in force, its ID, the phase, the prepared profile and the last status (R381 to R384, R391). -/
  inForce : Profile := Profile.reset
  inForceId : BitVec 8 := 0
  phase : Phase := .idle
  prepared : Profile := Profile.reset
  /-- The power manager grants the Peak of the change that commits as Sustain (R360). -/
  granted : Bool := false
  preparedId : BitVec 8 := 0
  lastStatus : Status := .ok
  /-- Units whose acknowledgement of the prepared profile is due (R382), and units yet to switch (R384). -/
  unacked : List ModUnit := []
  unswitched : List ModUnit := []
  /-- 2010h+j:01, :02, :03, :05 (R364). -/
  jobPace : BitVec 16 := 1100
  paceEpoch : BitVec 32 := 0xFFFFFFFF
  initialPace : BitVec 16 := 1100
  ceiling : BitVec 16 := 1600
  /-- 2080h:j+1 in millijoules (R365). -/
  energy : BitVec 64 := 0
  /-- 6010h+j:01 to :17 (R341). -/
  slotState : SlotState := .running
  commitFlag : BitVec 12 := 0
  commitInc : BitVec 8 := 4
  committedFlag : BitVec 12 := 0
  recordBase : BitVec 64 := 0
  recordBytes : BitVec 32 := 4096
  imageBase : BitVec 64 := 0
  keepBase : BitVec 64 := 0
  fixedInterval : BitVec 16 := 16
  intervalLimits : BitVec 16 := 0x0600
  mirrorTid : BitVec 32 := 0
  partner : BitVec 13 := 0
  netBase : BitVec 64 := 0
  /-- Data step whose copy is due (R326). -/
  mirrorDue : Option (BitVec 32) := none
  /-- The buffers of the data step whose copy is due, as its records named them when it fell due: position in the buffer table and
  address (R328, R329). -/
  dueBuffers : List (Nat × Nat) := []
  /-- A repeat of the step has ended with a second cause: the step does not commit (R309, R321). -/
  repeatFailed : Bool := false
  lastMirrored : BitVec 32 := 0xFFFFFFFF
  finalStep : BitVec 32 := 0
  restoreSource : BitVec 16 := 0
  restoreBase : BitVec 64 := 0
  restoreStep : BitVec 32 := 0
  restoreStatus : Status := .ok
  /-- VALUE of the commit flag at the last commit or rebase (R321, R323). -/
  commitBase : BitVec 16 := 0
  /-- The commit images that have been written, by parity: the data step each describes (R320). -/
  images : List (Fin 2 × BitVec 32) := []
  /-- Marked for rollback (R322). -/
  rollback : Bool := false
  /-- A copy is due at the next commit for the third case of R326. -/
  copyForced : Bool := false
  /-- Job interval exponent agreed by the last norm collective; none before one (R327). -/
  jobExponent : Option (BitVec 8) := none
  copy : Option Copy := none
  restore : Option RestoreRun := none
  /-- The READ of a restore's header is out: what it is known by, and the state that the slot came from (R337, R338). -/
  headerAsked : Option (Nat × SlotState) := none
  /-- The slot's current step is suspect (R302), and the unit of the first cause that names an array die's unit. -/
  suspect : Bool := false
  suspectPair : Option (Fin 2) := none
  /-- The suspicion of the previous step under Strict, still to be resolved, and the CALLs to replay: of this step and of the one before (R306, R307). -/
  suspectPrev : Bool := false
  /-- The pair that the first cause of the previous step named (R305, R306). -/
  pairPrev : Option (Fin 2) := none
  replayCalls : List CallId := []
  replayPrev : List CallId := []
  /-- CALLs of the step joined by engine chains (R307). -/
  chains : List (CallId × CallId) := []
  chainsPrev : List (CallId × CallId) := []
  /-- A cause of the step lies in no CALL that a replay could run (R307). -/
  noReplay : Bool := false
  resolutionFailed : Bool := false
  /-- CALLs of this step and of the one before, kept under Strict for their replay, and the replay under way (R307). -/
  callLog : List CallLog := []
  callLogPrev : List CallLog := []
  replaying : Option ReplayRun := none
  /-- The member's READY for the norm collective of the step is out (R303). -/
  gated : Bool := false
  /-- 3018h+j:01, :02 (R316). -/
  sigBase : BitVec 64 := 0
  sigEntries : BitVec 32 := 0
  /-- Partial sums of squares and flags of the channels and of the variant contexts, not yet carried (R280). -/
  parts : Sparse (BitVec 32 × Bool) := []
  variantParts : Sparse (BitVec 32 × Bool) := []
  deriving DecidableEq, Repr

/-- A ring (R136): base, size, head and tail. -/
structure Ring where
  base : BitVec 64 := 0
  size : BitVec 32 := 0
  head : BitVec 16 := 0
  tail : BitVec 16 := 0
  deriving DecidableEq, Repr

/-- The rings of one job slot on one die: object 3240h + 16d + j (R165). -/
structure RingsR where
  h : Ring := {}
  x : Ring := {}
  c : Ring := {}
  nextSeq : BitVec 32 := 1
  /-- The CALL kept beside each ring X slot (R171). -/
  xParent : Sparse (Option CallId) := []
  deriving DecidableEq, Repr

/-- States of a library bank (R181). -/
inductive BankState where
  | empty | loading | loaded | active | draining
  deriving DecidableEq, Repr

/-- A library bank of a Ringmaster (R181, R188). -/
structure Bank where
  state : BankState := .empty
  version : BitVec 32 := 0
  code : List Byte := []
  deriving DecidableEq, Repr

/-- Registers of one array die: objects 3200h + d, 3230h + d, 3300h + d, and the Ringmaster's memory (R165, R168, R188, R205). -/
structure DieR where
  /-- The ring that the round robin looks at first: 2 × slot, plus 1 for ring X (R140; log entry 74). -/
  turn : Fin 32 := 0
  stall : BitVec 32 := 2000
  deadlocks : BitVec 32 := 0
  u : Ring := {}
  window : BitVec 16 := 64
  gap : BitVec 8 := 0
  readTimeout : BitVec 32 := 10000
  timedOut : BitVec 32 := 0
  invalidRows : BitVec 32 := 0
  /-- The bank that new CALLs enter: false A, true B. -/
  activeB : Bool := false
  bankA : Bank := { state := .active }
  bankB : Bank := {}
  libEpoch : BitVec 16 := 0
  loadSource : BitVec 64 := 0
  cmdStatus : Status := .ok
  eventsDropped : BitVec 32 := 0
  evSeq : BitVec 16 := 0
  /-- The image being loaded: address and bank (R183). -/
  loading : Option (Nat × Bool) := none
  /-- Private data memory, 256 KiB (R168). -/
  priv : Sparse Byte := []
  deriving DecidableEq, Repr

/-- Engine states (R54). -/
inductive EngState where
  | active | observed | retired
  deriving DecidableEq, Repr

/-- A stationary tile in one of an engine's two sets (R27, R37, R43). -/
structure Tile where
  slot : Slot
  epoch : BitVec 16
  shape : BitVec 4
  param : BitVec 8
  fmt : BitVec 4
  /-- Loaded with COL0 = 1b (R67). -/
  col0 : Bool
  /-- The 512 cell bytes of each logical row that has been written. -/
  rows : Sparse (List Byte)
  /-- Checksum-column values r_k, left and right (R37), in units of 2⁻¹⁶. -/
  rowSums : Sparse (Int × Int)
  /-- Checksum-row values c_n (R37), in units of 2⁻¹⁶; empty until the last data row is written. -/
  colSums : List Int
  /-- Exponent rows of an L4w tile (R71). -/
  exps : Sparse (List Byte)
  /-- Owner map of an RG16 or VSEL tile (R72). -/
  owners : Sparse (Option (BitVec 9))
  ready : Bool
  /-- The entry it was loaded from: die, queue end and number (R45). -/
  source : Nat × Nat × Nat
  deriving DecidableEq, Repr

/-- An operand row in a transpose buffer (R62): its bytes, its sideband (R72), and whether it is poisoned (R60). -/
structure OpRow where
  bytes : List Byte
  side : List (BitVec 16)
  poison : Bool
  deriving DecidableEq, Repr

/-- The rounds of one input of a MATMUL or of the stationary load (R62). -/
structure InRun where
  /-- Rounds already read of the entry at hand, and how many entries are behind. -/
  round : Nat := 0
  entries : Nat := 0
  /-- The first half of a block column of more than 64 block rows, whose second half is still to be read (R62). -/
  half : List OpRow := []
  buf : List OpRow := []
  deriving DecidableEq, Repr

/-- A LOADSTAT under way (R27, R69). -/
structure LoadRun where
  ticket : TicketId
  step : Nat
  total : Nat
  inp : InRun
  /-- The shadow set has been reloaded once after a double-bit error (R45). -/
  reloaded : Bool
  poisoned : Bool
  deriving DecidableEq, Repr

/-- A MATMUL under way on the array (R25, R113). -/
structure ArrayRun where
  ticket : TicketId
  /-- Streamed rows in all and already admitted. -/
  t : Nat
  done : Nat
  /-- The check wavefront is due (R39), the tile is checked (R40). -/
  checkDue : Bool
  checked : Bool
  ins : Vector InRun 4
  /-- Scale exponents of the stationary and streamed operand (R108), and a poisoned scale entry (R436). -/
  sigmaA : Int
  sigmaB : Int
  scalePoison : Bool
  /-- The first failure, and how many have been logged (R295). -/
  failed : Option Nat
  logged : Nat
  wavefronts : Nat
  /-- A cause of R302 that names the engine has come while the tile ran (R313). -/
  cause : Bool
  deriving DecidableEq, Repr

/-- Registers and state of one array engine: objects 3000h + e and 2020h + e (R54, R364). -/
structure EngineR where
  state : EngState := .active
  corrected : BitVec 32 := 0
  uncorrectable : BitVec 32 := 0
  mismatches : BitVec 32 := 0
  /-- Retired physical rows and columns, in order of retirement (R47, R54). -/
  retiredRows : List (Fin 520) := []
  retiredCols : List (Fin 520) := []
  /-- Retirements requested and not yet in force: true for a column (R48). -/
  retireQ : List (Bool × Fin 520) := []
  /-- The engine's own retirement is requested and waits until it is between descriptors (R48, R49). -/
  retireDue : Bool := false
  /-- Unused admission tokens (R344) and the load steps they still allow (R69). -/
  tokens : Fin 9 := 0
  loadTokens : Fin 9 := 0
  active : Option Tile := none
  shadow : Option Tile := none
  load : Option LoadRun := none
  run : Option ArrayRun := none
  /-- Rounds read ahead for the next MATMUL, by its fetch number (R63). -/
  ahead : Option (Nat × Vector InRun 4) := none
  /-- The shadow set's tile, lost to a double-bit error before its swap and not read again: its slot and epoch (R45). -/
  shadowLost : Option (Slot × BitVec 16) := none
  swapTok : Option TicketId := none
  /-- A swap has taken effect and no MATMUL has started on the tile yet (R39). -/
  freshSwap : Bool := false
  /-- The tile's check decision (R40). -/
  tileChecked : Bool := false
  /-- Next row of the active scrubber and next word of the queue-storage scrubber (R44). -/
  scrubRow : Fin 513 := 0
  scrubWord : Fin 8388608 := 0
  /-- Corrected words of queue storage whose write-back is due, oldest first (R60, R61). -/
  writebacks : List (Fin 8388608) := []
  /-- A double-bit error emptied the active set and no MATMUL has met it yet (R45). -/
  emptied : Bool := false
  /-- Detections and clean tiles of an OBSERVED engine (R310, R313). -/
  detections : Nat := 0
  cleanTiles : Nat := 0
  /-- Causes since the last retirement, by physical column and by chunk (R312). -/
  engCauses : Nat := 0
  colHits : Sparse Nat := []
  chunkHits : Sparse Nat := []
  /-- Chunks whose row diagnostic is due (R312). -/
  diagnostics : List Nat := []
  /-- M_e (R347). -/
  maxPace : BitVec 16 := 1600
  deriving DecidableEq, Repr

/-- States of an accumulator set (R111). -/
inductive SetState where
  | empty | opened | invalid
  deriving DecidableEq, Repr

/-- Totals that a set waits for under SEED or ACCEPT (R128, R129): of which MATMUL, by fetch number and ticket, under which
epoch and CALL, as opening values (SEED) or not, and from where. -/
structure Incoming where
  inst : Nat
  ticket : TicketId
  epoch : BitVec 16
  parent : Option CallId
  seed : Bool
  src : Eng
  srcSet : Fin 16
  /-- Rows that have arrived. -/
  arrived : Nat
  deriving DecidableEq, Repr

/-- One accumulator set (R111, R116, R120). -/
structure AccSet where
  state : SetState := .empty
  base8 : BitVec 9 := 0
  rows8 : BitVec 9 := 0
  guard : Nat := 0
  long : Bool := false
  slot : Slot := 0
  epoch : BitVec 16 := 0
  /-- The next sequence that the dispatch unit issues (R116). -/
  nextSeq : Nat := 0
  /-- The set became INVALID and its abandon marker is on its way (R129). -/
  marker : Bool := false
  /-- End tokens sent, in reduction order (R122). -/
  ended : Nat := 0
  incoming : Option Incoming := none
  deriving DecidableEq, Repr

/-- Registers of one accumulation unit: object 3008h + e (R134), and its bank (R110). -/
structure AccR where
  corrected : BitVec 32 := 0
  uncorrectable : BitVec 32 := 0
  longDrains : BitVec 32 := 0
  forcedDrains : BitVec 32 := 0
  sets : Vector AccSet 16 := Vector.replicate 16 {}
  /-- Long totals by row × 512 + column; an unlisted entry is +0. -/
  bank : Sparse (BitVec 42) := []
  /-- Poisoned entries (R110). -/
  poison : Sparse Bool := []
  deriving DecidableEq, Repr

/-- An entry of a queue end with its tag (R57, R58). -/
structure Entry where
  id : Nat
  /-- Fetch number of the descriptor that pushed it. -/
  producer : Nat
  slot : Slot
  epoch : BitVec 16
  firstStrip : Nat
  /-- Strips claimed, the skipped tail of the range included (R149). -/
  strips : Nat
  rows : Nat
  pitch : Nat
  /-- Bytes of a stored row; the rest of the pitch is padding (R57). -/
  width : Nat
  fmt : BitVec 4
  colPacked : Bool
  /-- Block rows whose valid bit is set (R73). -/
  valid : List Nat
  /-- Stored rows marked poisoned (R202). -/
  poison : List Nat
  data : Sparse Byte
  owners : Sparse (Option (BitVec 9))
  side : Sparse (List (BitVec 16))
  freed : Bool
  deriving DecidableEq, Repr

/-- Stages of an entry of a STREAM (R198). -/
inductive StreamStage where
  | waitLead | waitStrips | reading | done
  deriving DecidableEq, Repr

/-- A STREAM under way (R198). -/
structure StreamRun where
  stage : StreamStage
  /-- Entries finished and in all; the entry being filled. -/
  entry : Nat
  entries : Nat
  entryId : Nat
  /-- Index words of the entry being filled; none for a LINEAR STREAM (R193). -/
  index : List (BitVec 64)
  /-- Source rows landed. -/
  landed : List Nat
  /-- Bursts returned: bytes and poison. -/
  got : Sparse (Option (List Byte × Bool))
  /-- TAGs of its reads that have timed out (R203). -/
  expired : List Nat
  bytes : Nat
  /-- Scale exponent of a narrowing STREAM, and whether its scale entry is poisoned (R436). -/
  sigma : Int
  scalePoison : Bool
  /-- Largest magnitude met by a narrowing STREAM as a capture (R95). -/
  capture : BitVec 8
  deriving DecidableEq, Repr

/-- A PUT or GET under way (R268). -/
structure XferRun where
  /-- Entries that a GET fills: first stored row and number (R155). -/
  entries : List (Nat × Nat)
  /-- Bursts of a GET that have landed. -/
  landed : List Nat
  /-- Rows of the entries that a GET has still to claim, in order: each waits for its own strips (R149). -/
  todo : List Nat := []
  deriving DecidableEq, Repr

/-- An entry that a VEC or CONVERT has still to push: queue end, pitch, bytes of a stored row, format, stored rows and their bytes
(R149, R434). -/
structure PushJob where
  queue : Nat
  pitch : Nat
  width : Nat
  fmt : Nat
  rows : Nat
  bytes : List (List Byte)
  deriving DecidableEq, Repr

/-- A VEC or CONVERT that has begun and waits for a further entry of an input or for strips of an output (R149, R434). -/
structure VecRun where
  /-- Entries popped so far, by input. -/
  got : List (List Entry)
  /-- A double-bit error of queue storage poisoned a popped row (R45). -/
  lost : Bool
  /-- Its results are there, and these entries are still to be pushed. -/
  computed : Bool
  jobs : List PushJob
  deriving DecidableEq, Repr

/-- A DRAIN that waits or reads (R122, R128). -/
structure DrainRun where
  /-- The end token it waited for has arrived and the set has been judged. -/
  judged : Bool
  rowsSent : Nat
  deriving DecidableEq, Repr

/-- What a ticket's unit keeps while its descriptor runs. -/
inductive Run where
  | none
  | stream (r : StreamRun)
  | xfer (r : XferRun)
  | drain (r : DrainRun)
  | vec (r : VecRun)
  deriving DecidableEq, Repr

/-- Where a descriptor in flight stands (R139 to R142). -/
inductive TkPhase where
  /-- Fetched, not issued. -/
  | fetched
  /-- Issued to its unit, not begun. -/
  | issued
  /-- Begun on its unit. -/
  | running
  /-- The unit has ended it; its sets are not performed. -/
  | ended
  /-- Its sets are on their way to other modules. -/
  | setting
  /-- Completed: the record is due. -/
  | completed
  deriving DecidableEq, Repr

/-- A ticket in flight (R139). -/
structure Tk where
  desc : Desc
  /-- Fetch number, rising in fetch order; it names the descriptor for good. -/
  inst : Nat
  ticket : TicketId
  ring : RingKind
  ringDie : Die
  ringSlot : Slot
  idx : BitVec 16
  parent : Option CallId
  phase : TkPhase
  /-- Issue number, and the number of its completion (R158). -/
  issueNo : Nat
  doneNo : Nat
  /-- It has begun on its unit (R145). -/
  began : Bool
  /-- Wait words already found satisfied (R151). -/
  waited : BitVec 4
  /-- Statuses that apply so far; the record takes the first of R164's order. -/
  causes : List Status
  detail : BitVec 64
  wrote : Bool
  suspect : Bool
  /-- A cause of a poisoned burst: it names no unit of an array die (R305). -/
  noUnit : Bool
  /-- The address of the first poisoned burst that it met (R314). -/
  badAt : Nat := 0
  /-- Entries that an update descriptor has popped, with their queue ends: its repeat pops them again (R309). -/
  popped : List (Nat × Entry) := []
  /-- Physical columns and chunks that its logged failures name (R310). -/
  hitCols : List Nat
  hitChunks : List Nat
  isReplay : Bool
  /-- It runs again on the other die of its pair, over the same inputs (R309). -/
  isRepeat : Bool
  profileId : BitVec 8
  /-- What it read when it began (R92, R98, R105, R107). -/
  seed : BitVec 64
  streamStep : BitVec 32
  dataStep : BitVec 32
  scaleBase : BitVec 64
  scaleCount : BitVec 32
  /-- Merge window and gap in force when a STREAM issued (R205). -/
  merge : Nat × Nat
  /-- FENCE: fetch numbers of the descriptors it covers (R155, R232). -/
  cover : List Nat
  run : Run
  deriving DecidableEq, Repr

/-- What waits at the homes (R214). -/
inductive HomeReq where
  /-- A whole-burst write of the descriptor with this fetch number. -/
  | write (inst : Nat) (ticket : TicketId) (burst : Nat) (data : List Byte)
  /-- A partial write with its byte mask (R212). -/
  | masked (inst : Nat) (ticket : TicketId) (burst : Nat) (data : List Byte) (mask : List Bool)
  /-- A burst read of a STREAM (R201). -/
  | read (inst : Nat) (ticket : TicketId) (burst : Nat)
  deriving DecidableEq, Repr

/-- The operations of R233. -/
inductive AtomicOp where
  | add | swap | and_ | or_ | xor_ | min | max | minu | maxu
  deriving DecidableEq, Repr

/-- An atomic of the head die: an operation of 4 or 8 bytes with its operand, or a compare and swap of 8 (R233). -/
inductive HeadOp where
  | word (op : AtomicOp) (wide : Bool) (operand : BitVec 64)
  | cas (expected replacement : BitVec 64)
  deriving DecidableEq, Repr

/-- A ring that has a doorbell (R395). -/
inductive BellRing where
  | h | c | u
  deriving DecidableEq, Repr

/-- A head-die request that waits for a copy's hold to end (R329, R394), or a doorbell behind such requests (R396). -/
inductive HeadReq where
  /-- A WRITE or WRITE_MASKED: the bursts still to be written, each with its mask, and whether one of the others was lost or poisoned. -/
  | write (tag : BitVec 10) (bursts : List (Nat × List Byte × Option (List Bool))) (bad : Bool)
  | atomic (tag : BitVec 10) (addr : Nat) (op : HeadOp)
  | bell (tag : BitVec 10) (ring : BellRing) (die : Die) (slot : Slot) (value : BitVec 16)
  deriving DecidableEq, Repr

/-- Registers of one home: objects 4000h + s and 4008h + b (R224), and the throttle of a stack (R219 to R221, R225). -/
structure HomeR where
  corrected : BitVec 32 := 0
  uncorrectable : BitVec 32 := 0
  lastUncorr : BitVec 64 := 0xFFFFFFFFFFFFFFFF
  scrubInterval : BitVec 32 := 64
  scrubPasses : BitVec 32 := 0
  /-- Bursts scrubbed of this pass; the position is the range's first address plus 256 × this. -/
  scrubBurst : Nat := 0
  /-- Throttle level code 00h to 06h (R220). -/
  level : Fin 7 := 0
  /-- Class of the last sample: none before the first, then 0 NORMAL, 1 WARNING, 2 CRITICAL, 3 TRIPPED (R219). -/
  class_ : Option (Fin 4) := none
  deriving DecidableEq, Repr

/-- Registers of one fabric port: object 5040h + p (R289), with its link state (R259, R260). -/
structure PortR where
  /-- 00h DOWN, 01h TRAINING, 02h UP, 03h UP_SPARE, 04h HALF. -/
  state : Fin 5 := 0
  repaired : Option (Fin 8) := none
  replays : BitVec 32 := 0
  failures : BitVec 32 := 0
  peer : BitVec 16 := 0xFFFF
  /-- A failed lane took the port DOWN (R261, R334). -/
  downed : Bool := false
  /-- Lane being moved onto the spare (R260), and the half lost (R261). -/
  moving : Option (Fin 8) := none
  lostHalf : Option Bool := none
  /-- The spare lane has failed. -/
  spareBad : Bool := false
  /-- Flits sent and not yet acknowledged, oldest first, and the number of the next one (R259). -/
  replayBuf : List Flit := []
  nextSeq : BitVec 12 := 0
  /-- Number of the next flit to be received (R259). -/
  rxSeq : BitVec 12 := 0
  /-- Credits for each virtual channel, and the channel served last in the round robin of R264; the model's own. -/
  credits : Vector Nat 8 := Vector.replicate 8 64
  turn : Fin 8 := 7
  deriving DecidableEq, Repr

/-- Roles of a channel (R290). -/
inductive Role where
  | member | backup | disabled
  deriving DecidableEq, Repr

/-- A READY received (R272): the module that sent it, its shard, and whether a backup sent it. -/
structure Ready where
  src : Nat
  shard : Nat
  backup : Bool
  deriving DecidableEq, Repr

/-- A block received and not yet taken in (R273): sender, block, NONFINITE, the flit's ARG and payload. -/
structure Blk where
  src : Nat
  result : Bool
  block : Nat
  nonfinite : Bool
  arg : BitVec 64
  payload : List Byte
  deriving DecidableEq, Repr

/-- A collective in flight on a channel (R271 to R288). -/
structure Coll where
  /-- The descriptor as it began. -/
  k : Tk
  slot : Slot
  cseq : BitVec 32
  /-- Arrival order (R279). -/
  arrival : Bool
  /-- The member index of the place that this module takes, and whether it is a backup's (R283). -/
  member : Nat
  backup : Bool
  /-- Its READYs are out; something has been sent (R288). -/
  opened : Bool
  left : Bool
  /-- The contribution by position: chain format, or stored codes under ALL_GATHER, BROADCAST and Arrival. -/
  contrib : Option (List (BitVec 32))
  /-- Where a drain's contribution lies in its tensor (R275); `cols` 0 for a contribution from memory. -/
  origin : Nat
  rowLen : Nat
  cols : Nat
  readies : List Ready
  blocks : List Blk
  /-- Blocks this member has played its part in, and results sent: member and block. -/
  sent : List Nat
  fanned : List (Nat × Nat)
  /-- Final blocks of the shards it stores, with their NONFINITE flag, and the shards stored. -/
  finals : Sparse (Option (List (BitVec 32) × Bool))
  stored : List Nat
  /-- Its own shard came from a backup (R284). -/
  substituted : Bool
  /-- Adds performed at the home under Arrival, by burst of its shard; bursts sent, as shard × 2²³ + burst; adds not yet answered. -/
  adds : Sparse Nat
  addsSent : List Nat
  addsDue : Nat
  /-- The home's own bursts that are added. -/
  ownAdds : List Nat
  /-- Statuses that its completion has met so far. -/
  causes : List Status
  /-- Hop digests and the blocks they hold, outgoing and incoming, by shard × 8192 + module (R286); digests sent back and
  compared. -/
  digOut : Sparse (BitVec 256 × Nat)
  digIn : Sparse (BitVec 256 × Nat)
  digSent : List Nat
  digCompared : List Nat
  /-- Contribution digests received, by shard, and shards compared (R285). -/
  contribDigs : List (Nat × BitVec 256)
  contribCompared : List Nat
  /-- Members marked ABSENT, and the senders of the notices that name this place. -/
  absent : List Nat
  selfNotices : List Nat
  /-- Lateness timers that have expired and parties taken, by 2 × shard, plus 1 for a decision on the first member (R284). -/
  expired : List Nat
  taken : Sparse (Option Bool)
  timedOut : Bool
  /-- No further BURST_ADD goes out: one has expired (R269, R279). -/
  addsStopped : Bool
  /-- The member's own ride record, the final one on its way to the four stacks, and whether it and the captures are stored (R281,
  R282). -/
  ride : List Byte
  rideIn : Option (List Byte)
  rideDone : Bool
  /-- J, the data step of the last pace epoch and the job exponent as they stood before this norm collective's record was stored: the
  first two stand again where it ends with INVALID (R351), and the copy that its end decides takes the third (R326). -/
  before : Option (BitVec 16 × BitVec 32 × Option (BitVec 8)) := none
  /-- The engine's part is played; the collective is in flight until it has completed (R271, R287). -/
  played : Bool
  deriving DecidableEq, Repr

/-- Registers of one collective channel: object 5100h + c (R290). -/
structure ChanR where
  slot : BitVec 4 := 0
  role : Role := .disabled
  members : BitVec 16 := 0
  own : BitVec 16 := 0
  backed : BitVec 16 := 0
  nextCseq : BitVec 32 := 0
  absentMarks : BitVec 32 := 0
  digestMismatches : BitVec 32 := 0
  timeouts : BitVec 32 := 0
  op : Option Coll := none
  /-- CSEQ, slot, ticket and data step of the last collective that has completed, for a NOTICE DIGEST_BAD that comes behind its
  completion; the model's own (R286, R302; log entry 79). -/
  last : Option (BitVec 32 × Slot × TicketId × BitVec 32) := none
  /-- Flits that wait for their collective to issue, or for its contribution (R272, R279). -/
  held : List Flit := []
  deriving DecidableEq, Repr

/-- A check-value unit: object 4100h + u (R317), with the arming CHECKARM's range (R299). -/
structure CvuR where
  armed : Bool := false
  measure : Bool := false
  tap : BitVec 8 := 0xFF
  counted : BitVec 32 := 0
  last : BitVec 32 := 0
  mismatches : BitVec 32 := 0
  armedBy : BitVec 16 := 0
  ticket : TicketId := 0
  sequence : Bool := false
  start : Nat := 0
  bytes : Nat := 0
  expect : BitVec 32 := 0
  v : BitVec 32 := 0
  bad : Bool := false
  deriving DecidableEq, Repr

/-- A context of a Ringmaster that holds a CALL (R169 to R174). -/
structure Ctx where
  ticket : TicketId
  inst : Nat
  slot : Slot
  epoch : BitVec 16
  /-- The bank it entered: true for B. -/
  bankB : Bool
  /-- Its integer registers at the entry (R170). -/
  regs : Vector (BitVec 64) 32
  /-- Suspended on a flag: FLAG_ID and TARGET, and whether the flag has been satisfied since (R151, R173). -/
  wait : Option (BitVec 12 × BitVec 16)
  waitMet : Bool
  /-- It holds its first publication, whose descriptors are `todo` (R172). -/
  held : Bool
  published : Bool
  /-- The FLAG_ID last written to FLAG_READ (R173). -/
  flagRead : BitVec 12
  /-- Reservation on a burst (R235). -/
  reservation : Option Nat
  /-- How far a routine has come: 0 at its entry, 1 with its first descriptors formed, 2 past its wait, 3 with its last ones
  formed. -/
  phase : Nat
  /-- Descriptors formed and not yet written to ring X, and how many tickets the routine has used (R172). -/
  todo : List Desc
  used : Nat
  /-- The value that the routine returns once they are written. -/
  ret : Option (BitVec 64)
  deriving DecidableEq, Repr

/-- An outstanding request on the fabric, by TAG (R268). -/
inductive FabReq where
  | put (inst : Nat) (ticket : TicketId)
  | get (inst : Nat) (ticket : TicketId) (dst : Nat) (bursts : Nat) (seen : List Nat)
  | stream (inst : Nat) (ticket : TicketId) (burst : Nat) (bursts : Nat) (seen : List Nat)
  | flagSet (inst : Nat) (ticket : TicketId)
  | burstAdd (chan : ChanId) (inst : Nat)
  | mirror (slot : Slot) (step : BitVec 32) (inst : Nat)
  /-- READs of the restore logic, with the global address that they name: the header, and payload bursts from a number on (R331, R337). -/
  | restoreHeader (slot : Slot) (run : Nat) (addr : Nat)
  | restore (slot : Slot) (run : Nat) (addr : Nat) (burst : Nat) (bursts : Nat) (seen : List Nat)
  deriving DecidableEq, Repr

/-- An entry of the failure record (R333). -/
structure FailEntry where
  fseq : BitVec 32
  kind : BitVec 8
  unit : BitVec 8
  where_ : BitVec 16
  powerCycle : BitVec 32
  commits : BitVec 32
  detail : BitVec 64
  slot : BitVec 4
  step : BitVec 16
  /-- Not yet cleared (R432). -/
  outstanding : Bool
  deriving DecidableEq, Repr

/-- An entry of the integrity log (R314). -/
structure LogEntry where
  seq : BitVec 32
  cause : BitVec 8
  unit : BitVec 8
  slot : BitVec 4
  ticket : BitVec 10
  step : BitVec 16
  where_ : BitVec 16
  detail : BitVec 32
  deriving DecidableEq, Repr

/-- An open segmented write (R372). -/
structure OpenWrite where
  holder : Requester
  index : BitVec 16
  sub : BitVec 8
  next : Nat
  data : List Byte
  deriving DecidableEq, Repr

/-- A snapshot buffer of a port (R371). -/
structure Snapshot where
  index : BitVec 16
  sub : BitVec 8
  data : List Byte
  deriving DecidableEq, Repr

/-- What an answer goes back to: the port, and the object and the segment that the request named (R369, R370). -/
structure Asked where
  port : Port
  index : BitVec 16
  sub : BitVec 8
  seg : BitVec 5 := 0
  deriving DecidableEq, Repr

/-- The write that holds the agent, and the slot whose profile it prepares (R366, R382). -/
structure Held where
  asked : Asked
  slot : Slot
  data : List Byte
  deriving DecidableEq, Repr

/-- A request that waits while the agent is held (R366). -/
structure AgentReq where
  port : Port
  /-- OP of R370: 0 READ, 1 WRITE_MORE, 2 WRITE_LAST or a value written whole. -/
  op : BitVec 3
  index : BitVec 16
  sub : BitVec 8
  seg : BitVec 5
  data : List Byte
  /-- What another module answers to the access (the header that a restore reads). -/
  aux : List Byte
  deriving DecidableEq, Repr

/-- The power manager (R343 to R365). -/
structure PowerR where
  /-- 2000h:01 rail mode in force. -/
  mode : PowerMode := .sustain
  /-- Rail setpoint in millivolts as it stands, and the one it moves to (R345, R346). -/
  rail : Nat := 750
  railTarget : Nat := 750
  cap : BitVec 16 := 0
  distrusted : Bool := false
  /-- Wear count in seconds (R359). -/
  wear : BitVec 32 := 0
  peakStatus : Status := .ok
  guardEntries : BitVec 32 := 0
  distrustEntries : BitVec 32 := 0
  capUnmet : BitVec 32 := 0
  eventsDropped : BitVec 32 := 0
  evSeq : BitVec 16 := 0
  /-- The limits of R349 but for M and THROTTLE, which are computed. -/
  capLimit : Nat := 2000
  guardLimit : Nat := 2000
  distrustValue : Nat := 2000
  heatLimit : Nat := 2000
  /-- Samples since the estimate last stood above 97% of the cap and since the cap limit last rose (R355). -/
  capBelow : Nat := 0
  capSinceRise : Nat := 0
  /-- Samples the cap limit has stood at 100 above the cap, and whether CAP_UNMET was raised for it. -/
  unmetSamples : Nat := 0
  unmetRaised : Bool := false
  guardActive : Bool := false
  guardBelow : Nat := 0
  /-- The estimate's fixed part in sixteenths of a milliwatt (R357). -/
  fixedPart : Int := 0
  /-- Consecutive intervals off by more than 25%, and within 10% (R358). -/
  offBy25 : Nat := 0
  within10 : Nat := 0
  unattributed : BitVec 64 := 0
  moduleEnergy : BitVec 64 := 0
  deriving DecidableEq, Repr

/-- The field network's registers and frames (R374 to R379, R391, R400). -/
structure FieldR where
  arbRate : BitVec 8 := 0
  dataRate : BitVec 8 := 2
  vcid : BitVec 8 := 0
  sdt : BitVec 8 := 1
  /-- The values in use since the last reset of the field network (R368). -/
  used : BitVec 8 × BitVec 8 × BitVec 8 × BitVec 8 := (0, 2, 0, 1)
  heartbeatMs : BitVec 16 := 100
  /-- 1100h:09 and :0A. -/
  stateA : Fin 5 := 0
  stateB : Fin 5 := 0
  errorsA : BitVec 32 := 0
  errorsB : BitVec 32 := 0
  dupA : Bool := false
  dupB : Bool := false
  managerLost : Bool := false
  presence : BitVec 64 := 0
  segmentMs : BitVec 16 := 100
  heartbeatSeq : BitVec 16 := 0
  alarmSeq : BitVec 16 := 0
  alarmDue : Bool := false
  /-- Field relay (R397, R400): FR_CMD, FR_STATUS, FR_RESP and whether an answer is awaited. -/
  frCmd : BitVec 64 := 0
  frStatus : BitVec 64 := 0
  /-- FR_REQ as it was last written. -/
  frReq : List Byte := []
  frResp : List Byte := []
  frWaiting : Bool := false
  relayMs : BitVec 16 := 20
  deriving DecidableEq, Repr

/-- The non-volatile store (R333, R359, R380, R385, R402, R412), kept without power. -/
structure NvR where
  wear : BitVec 32 := 0
  commits : BitVec 32 := 0
  powerUps : BitVec 32 := 1
  stopped : Bool := false
  failures : List FailEntry := []
  nextFseq : BitVec 32 := 1
  /-- Repair maps: retired rows, retired columns and retirement of each engine (R50). -/
  rows : Vector (List (Fin 520)) 8 := Vector.replicate 8 []
  cols : Vector (List (Fin 520)) 8 := Vector.replicate 8 []
  retired : Vector Bool 8 := Vector.replicate 8 false
  /-- Lane repairs (R260). -/
  lanes : Vector (Option (Fin 8)) 32 := Vector.replicate 32 none
  /-- Ranges EXCLUDED (R385): base and count in 2 MiB units, by entry. -/
  excluded : Sparse (Nat × Nat) := []
  /-- Firmware slots A and B as the bundle's bytes, and the slot selected for the next boot (R405). -/
  slotA : List Byte := []
  slotB : List Byte := []
  bootB : Bool := false
  /-- Slot A still holds the bundle the module was delivered with, whose bytes the manual does not give. -/
  factoryA : Bool := true
  quotes : BitVec 32 := 0
  deriving DecidableEq, Repr

/-- Firmware, measurements and quotes: object 7000h (R402 to R410). -/
structure SecurityR where
  runningB : Bool := false
  firmware : BitVec 32 := 0
  bootLibrary : BitVec 32 := 0
  /-- Fuses: SVN and the keys revoked; the keys themselves are `Config.firmwareKey`. -/
  fusedSvn : BitVec 16 := 0
  revoked : Vector Bool 4 := Vector.replicate 4 false
  updateSource : BitVec 64 := 0
  status : BitVec 8 := 0
  /-- Address of the bundle an update is verifying (R405). -/
  updating : Option Nat := none
  mr : Vector (List Byte) 8 := Vector.replicate 8 (List.replicate 32 0)
  quote : List Byte := []
  quoteStatus : Status := .invalid
  /-- The first 384 bytes of the quote being signed (R408). -/
  quoting : Option (List Byte) := none
  deriving DecidableEq, Repr

/-- The event ring and the object mailbox's held submission (R397 to R399, R438). -/
structure MailboxR where
  evBase : BitVec 64 := 0
  evSize : BitVec 64 := 0
  evHead : BitVec 64 := 0
  evTail : BitVec 64 := 0
  /-- OBJ_CMD as it was last written. -/
  objCmd : BitVec 64 := 0
  /-- OBJ_STATUS[63] and the answer it shows: bytes, OP and status. -/
  objDone : Bool := true
  objStatus : BitVec 64 := 0
  objData : List Byte := []
  linkUp : Bool := true
  deriving DecidableEq, Repr

/-- Owners of the shared resources: object 7F00h (R385), by the owner codes. -/
structure OwnersR where
  taps : Sparse (BitVec 8) := []
  oscillators : Sparse (BitVec 8) := []
  lanes : Sparse (BitVec 8) := []
  alert : BitVec 8 := 0xFF
  /-- Tier-2 ranges by entry: base and count in 2 MiB units and the owner; count 0 for unused. -/
  ranges : Sparse (Nat × Nat × BitVec 8) := []
  claimStatus : Status := .ok
  software : Bool := false
  deriving DecidableEq, Repr

/-- Integrity registers of object 3010h (R315). -/
structure IntegrityR where
  /-- Die swap in force per pair, and a swap or its clearing that waits for the pair's tickets (R305). -/
  swap : Vector Bool 2 := Vector.replicate 2 false
  swapDue : Vector (Option Bool) 2 := Vector.replicate 2 none
  /-- The slot whose aborted step set each swap. -/
  swapSlot : Vector Slot 2 := Vector.replicate 2 0
  cleanTiles : BitVec 32 := 16777216
  columnLimit : BitVec 8 := 2
  engineLimit : BitVec 8 := 4
  aborted : BitVec 32 := 0
  replays : BitVec 32 := 0
  replayMismatches : BitVec 32 := 0
  residueFailures : BitVec 32 := 0
  controlFaults : BitVec 32 := 0
  diagnostics : BitVec 32 := 0
  nextLogSeq : BitVec 32 := 1
  /-- The last 256 entries, oldest first. -/
  log : List LogEntry := []
  deriving DecidableEq, Repr

/-- Fabric registers of object 5000h (R289). -/
structure FabricR where
  moduleId : BitVec 13 := 0
  opTimeout : BitVec 32 := 10000
  portEnable : BitVec 32 := 0xFFFFFFFF
  dropped : BitVec 32 := 0
  unroutable : BitVec 32 := 0
  deriving DecidableEq, Repr

/-- What the module sends outward. -/
inductive Sent where
  /-- An answer of the object dictionary agent in the mailbox: OP of R370, status, data (R398). -/
  | objAnswer (op : BitVec 3) (status : Status) (data : List Byte)
  /-- A CAN XL frame: what carries it, FUNC, NODE, acceptance field, data (R368, R369). -/
  | canFrame (frame : Carrier) (func : BitVec 5) (node : BitVec 6) (accept : BitVec 32) (data : List Byte)
  /-- A mainband COMPLETION, with the old value of an ATOMIC (R393). -/
  | completion (tag : BitVec 10) (status : Status) (old : Option (BitVec 64))
  /-- A mainband DATA: burst index, status, bytes (R393). -/
  | data (tag : BitVec 10) (burst : Nat) (status : Status) (bytes : List Byte)
  /-- A flit leaves through a port (R266). -/
  | flit (port : PortId) (f : Flit)
  /-- A flit replayed on a link (R259). -/
  | replayed (port : PortId) (f : Flit)
  /-- The sideband message EVENT_PENDING (R399). -/
  | eventPending
  /-- A value the Ringmaster's context reads back: an atomic's old value, LR's value, SC's result. -/
  | contextValue (die : Die) (ctx : CtxId) (value : BitVec 64)
  /-- An exception of a context: cause code (R166, R167, R233). -/
  | contextTrap (die : Die) (ctx : CtxId) (cause : BitVec 8)
  deriving DecidableEq, Repr

/-- The straps as sampled (R376). -/
structure Straps where
  node : BitVec 6 := 0
  manager : Bool := true
  site : BitVec 2 := 0
  error : Bool := false
  deriving DecidableEq, Repr

/-- The state of the block. -/
structure State where
  /-- Commands that wait, first in, first out. -/
  pending : List Instr := []
  /-- What has been sent outward, oldest first. -/
  sent : List Sent := []
  power : PowerState := .running
  /-- VIN_56 is within its operating range for R223; PWR_OK and RESET_N as the shelf drives them. -/
  vinOk : Bool := true
  pwrOk : Bool := true
  resetN : Bool := true
  /-- Tier 2 holds its contents through the reset in progress (R223, R416). -/
  tier2Kept : Bool := true
  straps : Straps := {}
  nv : NvR := {}
  security : SecurityR := {}
  mailbox : MailboxR := {}
  field : FieldR := {}
  owners : OwnersR := {}
  integrity : IntegrityR := {}
  fabric : FabricR := {}
  pm : PowerR := {}
  /-- FAILED causes other than a tripped stack: a control fault, a unit fault or a boot fault (R334, R404). -/
  failedCause : Bool := false
  /-- A stack has tripped, and an engine or a port has been lost, since power-up: only a replacement of the module ends these (R334). -/
  tripped : Bool := false
  degraded : Bool := false
  /-- Units that a control fault has isolated until reset (R294, R336). -/
  isolated : List ModUnit := []
  /-- Commits of all slots since manufacture (R333). -/
  commits : BitVec 32 := 0
  rateWindow : BitVec 32 := 65536
  /-- Summary GENERATION (R388). -/
  generation : BitVec 32 := 1
  /-- 3100h:01 (R107). -/
  mixerInput : BitVec 64 := 0
  /-- 2100h:09 to :0B (R225). -/
  warnEntries : BitVec 32 := 0
  critEntries : BitVec 32 := 0
  throttleMicros : BitVec 32 := 1000
  prepareMs : BitVec 16 := 10
  /-- The last accepted write of a command object and how it was answered (R373). -/
  lastCommand : Option (BitVec 16 × BitVec 8 × List Byte × Status) := none
  /-- Open segmented writes: one for the two CAN ports, one for the mailbox, the one whose last segment is older first (R372, R398). -/
  openWrites : List OpenWrite := []
  /-- Snapshot buffers of REQUEST, TOOL_REQUEST and UCIe (R371). -/
  snapRequest : Option Snapshot := none
  snapTool : Option Snapshot := none
  snapUcie : Option Snapshot := none
  /-- The access that holds the agent (R366, R382). -/
  agentHeld : Option Held := none
  agentQueue : List AgentReq := []
  slots : Vector SlotR 16 := Vector.replicate 16 {}
  rings : Vector RingsR 64 := Vector.replicate 64 {}
  dies : Vector DieR 4 := Vector.replicate 4 {}
  engines : Vector EngineR 8 := Vector.replicate 8 {}
  accs : Vector AccR 8 := Vector.replicate 8 {}
  homes : Vector HomeR 12 := Vector.replicate 12 {}
  ports : Vector PortR 32 := Vector.replicate 32 {}
  chans : Vector ChanR 64 := Vector.replicate 64 {}
  cvus : Vector CvuR 16 := Vector.replicate 16 {}
  /-- Contexts: die × 8 + context. -/
  ctxs : Vector (Option Ctx) 32 := Vector.replicate 32 none
  /-- Tickets in flight, and descriptors whose record is out while requests of theirs remain in flight behind a
  TIMEOUT (R203, R269): at phase ended where no LATE record is due. -/
  tickets : Sparse (Option Tk) := []
  lingering : List Tk := []
  /-- Flagged update descriptors whose repeats have still to end clean (R309). -/
  repeats : List Tk := []
  /-- Tables: queue ends and flags by die × 4096 + ID, routes by module, members by channel × 8192 + index, variant
  contexts, buffer tables by slot × 512 + entry, net hosts. -/
  queueEnds : Sparse (BitVec 64) := []
  flags : Sparse (BitVec 32) := []
  routes : Sparse (BitVec 64) := []
  members : Sparse (BitVec 32) := []
  variants : Sparse (BitVec 256) := []
  buffers : Sparse (BitVec 256) := []
  netHosts : Sparse (BitVec 256) := []
  /-- Entries of the queue ends, oldest first, by die × 4096 + ID, those of a replay 16384 above (R307). -/
  queues : Sparse (List Entry) := []
  /-- Next strip of each queue end, counted from its first (R149). -/
  queuePos : Sparse Nat := []
  /-- Tier 1 and tier 2 by device-local byte address; an unlisted byte is 0 (R223). -/
  mem : List Host.Cell := []
  /-- Bursts that hold the poison pattern (R217), and bursts whose corrected value waits to be written back (R216). -/
  poison : Sparse Bool := []
  writebacks : Sparse Bool := []
  /-- Errors that stand in stored words and bursts and that no read has met yet (R43, R168, R215, R296; log entry 56). -/
  upsets : List Upset := []
  /-- Bursts whose poison a whole write has cleared (R217, R224, KIND 08h of R333). -/
  cleared : Sparse Bool := []
  homeQueue : List HomeReq := []
  /-- Head-die requests that a copy's hold keeps waiting, and the doorbells behind them, in the order sent. -/
  headQueue : List HeadReq := []
  fabReqs : Sparse (Option FabReq) := []
  /-- Requests that wait for a TAG, oldest first, as flits whose TAG is 0 (R268). -/
  waitReqs : List (FabReq × Flit) := []
  /-- Where the READs that this module passed on begin, by requester × 8192 + TAG, for the taps of the DATA flits that answer them
  (R298); the model's own. -/
  readsPassed : Sparse (Option Nat) := []
  /-- Flits that wait for a credit, oldest first (R266), with the address at which the port's tap counts the payload (R298). -/
  outQueue : List (Flit × Option Nat) := []
  /-- Flits to the module itself, on their way through Midway to their home or unit (R266). -/
  ownFlits : List Flit := []
  /-- Tiles started per CALL ticket and unit, or per slot and unit for ring H (R40). -/
  tileCounts : Sparse Nat := []
  /-- Numbers given out: fetches, issues, queue entries; the model's own. -/
  nextInst : Nat := 1
  nextIssue : Nat := 1
  nextEntry : Nat := 1
  /-- The model's own: how many fresh free values have been read. -/
  freeReads : Nat := 0
  deriving DecidableEq, Repr

/-- A stack stands in its first class, NORMAL (R219; log entry 1); a bridge has none, and differs in the scrub interval's default
(R224). -/
def resetHomes : Vector HomeR 12 :=
  (Vector.replicate 8 ({ class_ := some 0 } : HomeR) ++ Vector.replicate 4 ({ scrubInterval := 8 } : HomeR) : Vector HomeR (8 + 4))

/-- The module right after the reset that ends in READY (R403, R19). -/
def State.reset : State := { homes := resetHomes }

end Sys2Proof.Machine
end

