-- ==== Sys2Proof/Machine/Bits.lean ====
section
/-! DEFINITION. Bit fields, little-endian byte strings and the one form of sparse tables, shared by every family. -/

namespace Sys2Proof.Machine

/-! ## Sparse tables: keys strictly rising, no entry equal to the default -/

/-- The value of key `k`, `d` where the table lists none. -/
def sparseGet {α : Type} (d : α) : Sparse α → Nat → α
  | [], _ => d
  | (j, v) :: l, k => if j = k then v else sparseGet d l k

/-- The table without key `k`. -/
def sparseErase {α : Type} : Sparse α → Nat → Sparse α
  | [], _ => []
  | (j, v) :: l, k => if j = k then l else (j, v) :: sparseErase l k

/-- The table with `v` at key `k`, in its place. -/
def sparseInsert {α : Type} : Sparse α → Nat → α → Sparse α
  | [], k, v => [(k, v)]
  | (j, w) :: l, k, v =>
    if k < j then (k, v) :: (j, w) :: l
    else if k = j then (k, v) :: l
    else (j, w) :: sparseInsert l k v

/-- The table with key `k` at value `v`; the default takes the entry out. -/
def sparseSet {α : Type} [DecidableEq α] (d : α) (l : Sparse α) (k : Nat) (v : α) : Sparse α :=
  if v = d then sparseErase l k else sparseInsert l k v

/-- Keys strictly rising from `lo` and no entry at the default. -/
def sparseWfFrom {α : Type} [DecidableEq α] (d : α) : Nat → Sparse α → Bool
  | _, [] => true
  | lo, (k, v) :: l => decide (lo ≤ k) && decide (v ≠ d) && sparseWfFrom d (k + 1) l

/-- The one form of a sparse table. -/
def sparseWf {α : Type} [DecidableEq α] (d : α) (l : Sparse α) : Bool := sparseWfFrom d 0 l

/-- The table without its keys from `a` up to, not with, `b`. -/
def sparseClear {α : Type} (l : Sparse α) (a b : Nat) : Sparse α :=
  l.filter fun p => decide (p.1 < a ∨ b ≤ p.1)

/-! ## Fields and byte strings (R3: bytes lie little-endian) -/

/-- Bits [hi:lo] of a word, as a number. -/
def bitsOf {w : Nat} (x : BitVec w) (hi lo : Nat) : Nat := x.toNat / 2 ^ lo % 2 ^ (hi + 1 - lo)

/-- Bit `i` of a word. -/
def bitOf {w : Nat} (x : BitVec w) (i : Nat) : Bool := x.getLsbD i

/-- The number that a byte string spells, lowest byte first. -/
def leNat : List Byte → Nat
  | [] => 0
  | b :: l => b.toNat + 256 * leNat l

/-- The `n` lowest bytes of a number, lowest byte first. -/
def leBytes : Nat → Nat → List Byte
  | 0, _ => []
  | n + 1, x => BitVec.ofNat 8 x :: leBytes n (x / 256)

/-- The bytes of a word of `8 · n` bits. -/
def wordBytes {w : Nat} (n : Nat) (x : BitVec w) : List Byte := leBytes n x.toNat

/-- A word from a byte string. -/
def bytesWord (w : Nat) (l : List Byte) : BitVec w := BitVec.ofNat w (leNat l)

/-- `l` cut or filled with zeros to `n` bytes. -/
def fitBytes (n : Nat) (l : List Byte) : List Byte := (l ++ List.replicate n 0).take n

/-- `n` bytes of `l` from byte `off`, zeros past its end. -/
def sliceBytes (l : List Byte) (off n : Nat) : List Byte := fitBytes n (l.drop off)

/-- The little-endian field of `n` bytes at byte `off`. -/
def fieldNat (l : List Byte) (off n : Nat) : Nat := leNat (sliceBytes l off n)

/-- `l` with the bytes `d` laid over it from byte `off`. -/
def overlay (l : List Byte) (off : Nat) (d : List Byte) : List Byte :=
  l.take off ++ d ++ l.drop (off + d.length)

/-- The pieces of `n` bytes of a byte string, in order; `fuel` bounds their number. -/
def piecesN {α : Type} : Nat → Nat → List α → List (List α)
  | 0, _, _ => []
  | fuel + 1, n, l => if l.isEmpty then [] else l.take n :: piecesN fuel n (l.drop n)

/-- The pieces of `n` elements, in order. -/
def pieces {α : Type} (n : Nat) (l : List α) : List (List α) := piecesN l.length n l

/-- A count that holds at its last value as the free value of R9 says nothing beyond it (log entry 9). -/
def countUp {w : Nat} (x : BitVec w) : BitVec w :=
  if x = BitVec.allOnes w then Config.countPastEnd w else x + 1

/-- The value of key `i` of a vector under a change of its element. -/
def vmod {α : Type} {n : Nat} (v : Vector α n) (i : Fin n) (f : α → α) : Vector α n := v.set i (f v[i])

/-- The element at place `i` of a list, counted from 0, changed by `f`. -/
def listMod {α : Type} : List α → Nat → (α → α) → List α
  | [], _, _ => []
  | x :: l, 0, f => f x :: l
  | x :: l, i + 1, f => x :: listMod l i f

/-- A bit as a number. -/
def bnat (b : Bool) : Nat := if b then 1 else 0

/-- `l` without repeats of an element already met, order kept. -/
def addOnce {α : Type} [DecidableEq α] (l : List α) (x : α) : List α := if x ∈ l then l else l ++ [x]

end Sys2Proof.Machine
end

