-- ==== Sys2Proof/Machine/Numbers.lean ====
section
/-! DEFINITION. Number formats, rounding, the mixer and the arithmetic of lanes, long totals and chains (R76 to R107, R117). -/

namespace Sys2Proof.Machine

/-- A number on its way through a unit: a NaN, an infinity, or (−1)^neg × m × 2^e exactly. -/
inductive Val where
  | nan
  | inf (neg : Bool)
  | fin (neg : Bool) (m : Nat) (e : Int)
  deriving DecidableEq, Repr

namespace Val

/-- +0. -/
def zero : Val := .fin false 0 0

/-- Whether the value is a NaN or an infinity. -/
def special : Val → Bool
  | .fin _ _ _ => false
  | _ => true

/-- Whether the value is a zero of either sign. -/
def isZero : Val → Bool
  | .fin _ 0 _ => true
  | _ => false

/-- The value times 2^k, exactly (R94). -/
def scale (k : Int) : Val → Val
  | .fin s m e => .fin s m (e + k)
  | v => v

/-- The value with its sign turned. -/
def neg : Val → Val
  | .nan => .nan
  | .inf s => .inf (!s)
  | .fin s m e => .fin (!s) m e

/-- The value with its sign cleared. -/
def abs : Val → Val
  | .nan => .nan
  | .inf _ => .inf false
  | .fin _ m e => .fin false m e

/-- The signed coefficient of 2^q, for a q no greater than the exponent. -/
def coeff (q : Int) (s : Bool) (m : Nat) (e : Int) : Int :=
  let n : Int := (m : Int) * (2 ^ (e - q).toNat : Nat)
  if s then -n else n

/-- A finite value from a signed coefficient of 2^q; `s` is the sign of a zero. -/
def ofCoeff (s : Bool) (c q : Int) : Val :=
  if c = 0 then .fin s 0 0 else .fin (decide (c < 0)) c.natAbs q

/-- The exact sum. Two zeros of one sign keep it, every other zero sum is +0 (IEEE 754, RNE). -/
def add : Val → Val → Val
  | .nan, _ => .nan
  | _, .nan => .nan
  | .inf a, .inf b => if a = b then .inf a else .nan
  | .inf a, _ => .inf a
  | _, .inf b => .inf b
  | .fin s m e, .fin t n f =>
    if m = 0 && n = 0 then .fin (s && t) 0 0
    else
      let q := min e f
      ofCoeff false (coeff q s m e + coeff q t n f) q

/-- The exact product. -/
def mul : Val → Val → Val
  | .nan, _ => .nan
  | _, .nan => .nan
  | .inf a, .inf b => .inf (a != b)
  | .inf a, .fin t n _ => if n = 0 then .nan else .inf (a != t)
  | .fin s m _, .inf b => if m = 0 then .nan else .inf (s != b)
  | .fin s m e, .fin t n f => .fin (s != t) (m * n) (e + f)

/-- Order of magnitude: |x| < |y| for finite values. -/
def magLt : Val → Val → Bool
  | .fin _ m e, .fin _ n f =>
    let q := min e f
    decide ((m : Int) * (2 ^ (e - q).toNat : Nat) < (n : Int) * (2 ^ (f - q).toNat : Nat))
  | .fin _ _ _, _ => true
  | _, _ => false

/-- Signed order x < y; false when either is a NaN. -/
def lt : Val → Val → Bool
  | .nan, _ => false
  | _, .nan => false
  | .inf a, .inf b => a && !b
  | .inf a, _ => a
  | _, .inf b => !b
  | .fin s m e, .fin t n f =>
    let q := min e f
    decide (coeff q s m e < coeff q t n f)

end Val

/-! ## Rounding of magnitudes -/

/-- m × 2^e in units of 2^q, rounded down. -/
def floorUnits (m : Nat) (e q : Int) : Nat :=
  if q ≤ e then m * 2 ^ (e - q).toNat else m / 2 ^ (q - e).toNat

/-- m × 2^e in units of 2^q to nearest, ties to even; with `away` ties go to the larger (R117). -/
def nearestUnits (away : Bool) (m : Nat) (e q : Int) : Nat :=
  if q ≤ e then m * 2 ^ (e - q).toNat
  else
    let d := 2 ^ (q - e).toNat
    let t := m / d
    let r := m % d
    if d < 2 * r then t + 1
    else if 2 * r = d then (if away then t + 1 else t + t % 2)
    else t

/-- m × 2^e in units of 2^q by stochastic rounding with the 16 bits u (R90). -/
def stochasticUnits (u : Nat) (m : Nat) (e q : Int) : Nat :=
  if q ≤ e then m * 2 ^ (e - q).toNat
  else
    let d := 2 ^ (q - e).toNat
    let t := m / d
    let frac := m % d * 65536 / d
    if 65536 ≤ frac + u then t + 1 else t

/-- The exponent of the spacing of a grid of precision `p` and least spacing 2^q₀ at m × 2^e. -/
def gridAt (p : Nat) (q0 : Int) (m : Nat) (e : Int) : Int :=
  if m = 0 then q0 else max q0 ((m.log2 : Int) + e - ((p : Int) - 1))

/-- How a conversion rounds. -/
inductive Rounding where
  | rne
  | sr (u : Nat)
  /-- RNE with ties away from zero (R117). -/
  | away
  deriving DecidableEq, Repr

/-- m × 2^e rounded onto units of 2^q. -/
def roundUnits (r : Rounding) (m : Nat) (e q : Int) : Nat :=
  match r with
  | .rne => nearestUnits false m e q
  | .away => nearestUnits true m e q
  | .sr u => stochasticUnits u m e q

/-- Exponent field and fraction of n × 2^q on the grid of precision `p` and least spacing 2^q₀, n ≤ 2^p; the exponent
field is not bounded. -/
def packGrid (p : Nat) (q0 : Int) (n : Nat) (q : Int) : Nat × Nat :=
  let (n, q) := if n = 2 ^ p then (2 ^ (p - 1), q + 1) else (n, q)
  if n < 2 ^ (p - 1) then (0, n) else ((q - q0).toNat + 1, n - 2 ^ (p - 1))

/-- A finite magnitude rounded into exponent field and fraction. -/
def roundGrid (r : Rounding) (p : Nat) (q0 : Int) (m : Nat) (e : Int) : Nat × Nat :=
  let q := gridAt p q0 m e
  packGrid p q0 (roundUnits r m e q) q

/-! ## Formats -/

/-- The formats of R76. -/
inductive Fmt where
  | l8f | l8g | l16s | l4w | b16 | b32
  deriving DecidableEq, Repr

/-- Format code to format; none for the reserved codes 6h to Fh. -/
def Fmt.ofCode (c : Nat) : Option Fmt :=
  match c with
  | 0 => some .l8f
  | 1 => some .l8g
  | 2 => some .l16s
  | 3 => some .l4w
  | 4 => some .b16
  | 5 => some .b32
  | _ => none

/-- The format's code. -/
def Fmt.code : Fmt → Nat
  | .l8f => 0 | .l8g => 1 | .l16s => 2 | .l4w => 3 | .b16 => 4 | .b32 => 5

/-- Bytes of an element; an L4w element takes half a byte and is laid out on its own. -/
def Fmt.bytes : Fmt → Nat
  | .l8f => 1 | .l8g => 1 | .l4w => 1 | .l16s => 2 | .b16 => 2 | .b32 => 4

/-- Whether the format carries a scale (R94). -/
def Fmt.scaled : Fmt → Bool
  | .l8f => true | .l8g => true | .l4w => true | _ => false

/-- A word of the IEEE layout with `eb` exponent and `fb` fraction bits. -/
def ieeeVal (eb fb : Nat) (c : Nat) : Val :=
  let s := decide (c / 2 ^ (eb + fb) % 2 = 1)
  let e := c / 2 ^ fb % 2 ^ eb
  let f := c % 2 ^ fb
  let q0 : Int := 2 - (2 ^ (eb - 1) : Nat) - (fb : Int)
  if e = 2 ^ eb - 1 then (if f = 0 then .inf s else .nan)
  else if e = 0 then .fin s f q0
  else .fin s (2 ^ fb + f) (q0 + (e : Int) - 1)

/-- A value rounded into the IEEE layout; `nanCode` is the one NaN it writes. -/
def ieeeCode (eb fb : Nat) (nanCode : Nat) (r : Rounding) : Val → Nat
  | .nan => nanCode
  | .inf s => bnat s * 2 ^ (eb + fb) + (2 ^ eb - 1) * 2 ^ fb
  | .fin s m e =>
    let q0 : Int := 2 - (2 ^ (eb - 1) : Nat) - (fb : Int)
    let (x, f) := roundGrid r (fb + 1) q0 m e
    let (x, f) := if 2 ^ eb - 1 ≤ x then (2 ^ eb - 1, 0) else (x, f)
    bnat s * 2 ^ (eb + fb) + x * 2 ^ fb + f

/-- L8f (R77). -/
def l8fVal (c : Nat) : Val :=
  let s := decide (c / 128 % 2 = 1)
  let e := c / 8 % 16
  let m := c % 8
  if c % 256 = 0x80 then .nan
  else if e = 0 then .fin s m (-9)
  else .fin s (8 + m) (-9 + (e : Int) - 1)

/-- A value rounded into L8f: RNE, saturating to ±480, NaN and infinities to 80h, zero always +0 (R87). -/
def l8fCode : Val → Nat
  | .fin s m e =>
    let (x, f) := roundGrid .rne 4 (-9) m e
    let n := if 15 < x then 0x7F else x * 8 + f
    if n = 0 then 0 else bnat s * 128 + n
  | _ => 0x80

/-- An L4w element with its block exponent (R80). -/
def l4wVal (c : Nat) (x : Int) : Val :=
  let s := decide (c / 8 % 2 = 1)
  let m := match c % 8 with
    | 0 => 0 | 1 => 1 | 2 => 2 | 3 => 3 | 4 => 4 | 5 => 6 | 6 => 8 | _ => 12
  .fin (s && m != 0) m (x - 1)

/-- Block exponent of a list of values (R81 step 1). -/
def l4wExponent (vs : List Val) : Int :=
  let ok (x : Int) : Bool := vs.all fun v =>
    match v with
    | .fin _ m e => !(Val.magLt (.fin false 6 x) (.fin false m e))
    | _ => true
  let m := vs.foldl (fun (a : Val) v => if v.special then a else if a.magLt v then v.abs else a) .zero
  match m with
  | .fin _ 0 _ => 0
  | .fin _ k e =>
    let x0 : Int := (k.log2 : Int) + e - 2
    let x := if ok x0 then x0 else x0 + 1
    max (-128) (min 127 x)
  | _ => 0

/-- A value rounded into the L4w grid under block exponent x: nearest, ties to the even code; 0 for a NaN or an
infinity and for a result of zero; the clamp's overflow becomes 6 (R81, R87). -/
def l4wCode (x : Int) : Val → Nat
  | .fin s m e =>
    let (ex, f) := roundGrid .rne 2 (-1) m (e - x)
    let n := if 3 < ex then 7 else ex * 2 + f
    if n = 0 then 0 else bnat s * 8 + n
  | _ => 0

/-- The value of an element's code; an L4w code is read with block exponent 0. -/
def fmtVal (f : Fmt) (c : Nat) : Val :=
  match f with
  | .l8f => l8fVal c
  | .l8g => ieeeVal 5 2 c
  | .l16s => ieeeVal 8 7 c
  | .l4w => l4wVal c 0
  | .b16 => ieeeVal 5 10 c
  | .b32 => ieeeVal 8 23 c

/-- A value rounded into a format by R87. `u` holds the 16 random bits, none for RNE where R88 lets an import choose it. -/
def fmtCode (f : Fmt) (u : Option Nat) (v : Val) : Nat :=
  let r := match u with | some u => Rounding.sr u | none => Rounding.rne
  match f with
  | .l8f => l8fCode v
  | .l8g => ieeeCode 5 2 0x7F r v
  | .l16s => ieeeCode 8 7 0x7FC0 r v
  | .l4w => l4wCode 0 v
  | .b16 => ieeeCode 5 10 0x7E00 .rne v
  | .b32 => ieeeCode 8 23 0x7FC00000 .rne v

/-- The NaN a format stores for a poisoned entry, 0 in L4w (R124). -/
def fmtNan (f : Fmt) : Nat := fmtCode f none .nan

/-- Elements of `f.bytes` bytes each, as codes. -/
def codesOf (f : Fmt) (l : List Byte) : List Nat := (pieces f.bytes l).map leNat

/-- Codes as bytes. -/
def bytesOfCodes (f : Fmt) (l : List Nat) : List Byte := (l.map (leBytes f.bytes)).flatten

/-! ## binary32 in lanes and in chains (R84, R102) -/

/-- The value of a binary32 word. -/
def f32Val (x : BitVec 32) : Val := ieeeVal 8 23 x.toNat

/-- A value rounded into binary32 by R84. -/
def f32Of (v : Val) : BitVec 32 := BitVec.ofNat 32 (ieeeCode 8 23 0x7FC00000 .rne v)

def f32Add (x y : BitVec 32) : BitVec 32 := f32Of ((f32Val x).add (f32Val y))
def f32Sub (x y : BitVec 32) : BitVec 32 := f32Of ((f32Val x).add (f32Val y).neg)
def f32Mul (x y : BitVec 32) : BitVec 32 := f32Of ((f32Val x).mul (f32Val y))

/-- Fused: x × y + z rounded once. -/
def f32Fma (x y z : BitVec 32) : BitVec 32 := f32Of (((f32Val x).mul (f32Val y)).add (f32Val z))

/-- A quotient of finite values to 40 bits and a sticky bit: enough for one RNE to 24. -/
def divVal : Val → Val → Val
  | .nan, _ => .nan
  | _, .nan => .nan
  | .inf _, .inf _ => .nan
  | .inf a, .fin t _ _ => .inf (a != t)
  | .fin s _ _, .inf b => .fin (s != b) 0 0
  | .fin s m e, .fin t n f =>
    if n = 0 then (if m = 0 then .nan else .inf (s != t))
    else
      let k := 40 + n.log2
      let num := m * 2 ^ k
      .fin (s != t) (2 * (num / n) + bnat (num % n != 0)) (e - f - (k : Int) - 1)

/-- Floor of the square root of x < 4^n, bit by bit from bit n − 1. -/
def sqrtBits : Nat → Nat → Nat → Nat
  | 0, _, r => r
  | n + 1, x, r =>
    let r' := r + 2 ^ n
    if r' * r' ≤ x then sqrtBits n x r' else sqrtBits n x r

/-- A square root to 32 bits or more and a sticky bit. -/
def sqrtVal : Val → Val
  | .nan => .nan
  | .inf s => if s then .nan else .inf false
  | .fin s m e =>
    if m = 0 then .fin s 0 0
    else if s then .nan
    else
      let sh := 64 + ((e % 2).toNat)
      let x := m * 2 ^ sh
      let r := sqrtBits (x.log2 / 2 + 1) x 0
      .fin false (2 * r + bnat (r * r != x)) ((e - (sh : Int)) / 2 - 1)

def f32Div (x y : BitVec 32) : BitVec 32 := f32Of (divVal (f32Val x) (f32Val y))
def f32Sqrt (x : BitVec 32) : BitVec 32 := f32Of (sqrtVal (f32Val x))

/-- A natural number in binary32. -/
def f32OfNat (n : Nat) : BitVec 32 := f32Of (.fin false n 0)

/-! ## Long totals (R83, R117) -/

/-- The value of a long total. -/
def longVal (x : BitVec 42) : Val := ieeeVal 10 31 x.toNat

/-- Fraction of a long total that is a NaN: not 0, otherwise free (R83). -/
def longNan : Nat := 1023 * 2 ^ 31 + (1 + Config.longNanFraction % (2 ^ 31 - 1))

/-- A value rounded onto the long-total grid; a zero is +0 (R109, R117). -/
def longOf (r : Rounding) (v : Val) : BitVec 42 :=
  match v with
  | .fin _ 0 _ => 0
  | v => BitVec.ofNat 42 (ieeeCode 10 31 longNan r v)

/-- One promotion: the exact sum L + c rounded, ties to even, or to the larger magnitude behind a sticky bit (R117). -/
def promote (l : BitVec 42) (c : Val) (sticky : Bool) : BitVec 42 :=
  longOf (if sticky then .away else .rne) ((longVal l).add c)

/-! ## Captures (R95) -/

/-- ⌈log₂ of m × 2^e⌉ for m > 0. -/
def ceilLog2 (m : Nat) (e : Int) : Int :=
  let k := m.log2
  if m = 2 ^ k then (k : Int) + e else (k : Int) + e + 1

/-- An I8 as a byte. -/
def i8 (x : Int) : Byte := BitVec.ofInt 8 x

/-- The capture value ε of a list of source values (R95). -/
def captureOf (vs : List Val) : Byte :=
  if vs.any Val.special then 0x7F
  else
    let m := vs.foldl (fun (a : Val) v => if a.magLt v then v.abs else a) .zero
    match m with
    | .fin _ 0 _ => 0x80
    | .fin _ k e => i8 (max (-126) (min 126 (ceilLog2 k e)))
    | _ => 0x7F

/-- The signed maximum of two captures. -/
def captureMax (a b : Byte) : Byte := if a.slt b then b else a

/-! ## The generator (R91, R92) -/

/-- The mixer of R91. -/
def mix (x : BitVec 64) : BitVec 64 :=
  let m : BitVec 64 := 0x0000100010001001
  let x := x + 0x7C3B91D4E6A2058F
  let x := x ^^^ (x >>> 32)
  let x := x * m
  let x := x ^^^ (x >>> 28)
  let x := x * m
  x ^^^ (x >>> 32)

/-- The tensor key of R92. -/
def tensorKey (seed : BitVec 64) (domain tid step : Nat) : BitVec 64 :=
  mix (seed ^^^ (BitVec.ofNat 64 domain <<< 56) ^^^ (BitVec.ofNat 64 tid <<< 32) ^^^ BitVec.ofNat 64 step)

/-- The 16 random bits of element I of micro-batch B under a tensor key (R92). -/
def drawBits (key : BitVec 64) (b i : Nat) : Nat :=
  (mix (key ^^^ ((BitVec.ofNat 64 b <<< 40) ^^^ BitVec.ofNat 64 (i % 2 ^ 40)))).toNat / 2 ^ 48

/-- What an SR draw of one conversion shares over its elements. -/
structure DrawKey where
  key : BitVec 64
  b : Nat
  deriving DecidableEq, Repr

/-- The random bits that a target takes for element `i`: those of SR targets only (R87). -/
def drawFor (f : Fmt) (k : DrawKey) (i : Nat) : Option Nat :=
  match f with
  | .l8g => some (drawBits k.key k.b i)
  | .l16s => some (drawBits k.key k.b i)
  | _ => none

end Sys2Proof.Machine
end

