-- ==== Sys2Proof/Machine/Operands.lean ====
section
/-! DEFINITION. The fields of a descriptor, its input, output, wait, set and ACC words, and which of them a family uses
(R112, R121, R143 to R156, R433, R437). -/

namespace Sys2Proof.Machine

/-- Bits [hi:lo] of the little-endian field at byte `off` (R143). -/
def dF (d : Desc) (off hi lo : Nat) : Nat := d.toNat / 2 ^ (8 * off + lo) % 2 ^ (hi + 1 - lo)

/-- A descriptor from its 128 bytes. -/
def descOf (l : List Byte) : Desc := bytesWord 1024 l

/-! ## Header (R143) -/

def dOpcode (d : Desc) : Nat := dF d 0 11 0
def dFunc (d : Desc) : Nat := dF d 0 7 0
def dTicket (d : Desc) : TicketId := Fin.ofNat 1024 (dF d 2 9 0)
def dProfile (d : Desc) : BitVec 8 := BitVec.ofNat 8 (dF d 4 7 0)
def dPchk (d : Desc) : Bool := dF d 5 7 7 = 1
def dNorec (d : Desc) : Bool := dF d 5 6 6 = 1
def dSlot (d : Desc) : Slot := Fin.ofNat 16 (dF d 5 3 0)
def dEpoch (d : Desc) : BitVec 16 := BitVec.ofNat 16 (dF d 6 15 0)
def dVarEn (d : Desc) : Bool := dF d 8 15 15 = 1
def dVariant (d : Desc) : Nat := dF d 8 8 0
def dUnit (d : Desc) : Fin 8 := Fin.ofNat 8 (dF d 10 2 0)
def dShape (d : Desc) : Nat := dF d 11 3 0
def dParam (d : Desc) : Nat := dF d 12 7 0
def dOrient (d : Desc) : Nat := dF d 13 7 0
def dFmtIn (d : Desc) (i : Nat) : Nat := dF d 16 (4 * i + 3) (4 * i)
def dFmtOut (d : Desc) (i : Nat) : Nat := dF d 16 (19 + 4 * i) (16 + 4 * i)

/-- Format of input i. -/
def dIn (d : Desc) (i : Nat) : Option Fmt := Fmt.ofCode (dFmtIn d i)
/-- Format of output i. -/
def dOut (d : Desc) (i : Nat) : Option Fmt := Fmt.ofCode (dFmtOut d i)

/-- The families of R144. -/
inductive Family where
  | matmul | vec | convert | drain | loadstat | swap | stream | putget | collective | flag | fence | call | cancel
  | mirror | checkarm
  deriving DecidableEq, Repr

/-- Family of a descriptor whose function code its table lists; none for a reserved one (R144, R156). -/
def dFamily (d : Desc) : Option Family :=
  let f := dFunc d
  match dF d 0 11 8 with
  | 0 => if f = 0 then some .matmul else none
  | 1 => if f ∈ [1, 2, 3, 4, 5, 6, 7, 8, 0x10, 0x11, 0x12, 0x13, 0x20, 0x21, 0x22, 0x23, 0x24, 0x30, 0x40, 0x41, 0x42, 0x50]
      then some .vec else none
  | 2 => if f = 0 then some .convert else none
  | 3 => if f = 0 then some .drain else none
  | 4 => if f = 0 then some .loadstat else none
  | 5 => if f = 0 then some .swap else none
  | 6 => if f ≤ 1 then some .stream else none
  | 7 => if f ≤ 1 then some .putget else none
  | 8 => if f ≤ 4 then some .collective else none
  | 9 => if f ≤ 1 then some .flag else none
  | 10 => if f = 0 then some .fence else none
  | 11 => if f = 0 then some .call else none
  | 12 => if f = 0 then some .cancel else none
  | 13 => if f = 0 then some .mirror else none
  | 14 => if f = 0 then some .checkarm else none
  | _ => none

/-! ## Input, output, wait and set words (R148, R151, R152) -/

/-- Queue end that input i names; none when VALID is 0b. -/
def dInQ (d : Desc) (i : Nat) : Option Nat :=
  if dF d (24 + 2 * i) 15 15 = 1 then some (dF d (24 + 2 * i) 11 0) else none

/-- Where an output goes. -/
inductive OutTarget where
  | none
  | queue (id : Nat)
  | memory (addr : Nat)
  deriving DecidableEq, Repr

/-- Output word i (R148). -/
def dOutW (d : Desc) (i : Nat) : OutTarget :=
  let o := 32 + 8 * i
  if dF d o 63 63 = 0 then .none
  else if dF d o 62 62 = 0 then .queue (dF d o 11 0)
  else .memory (dF d o 55 0)

/-- A wait word that is valid (R151). -/
structure WaitWord where
  scope : Nat
  flag : BitVec 12
  target : BitVec 16
  deriving DecidableEq, Repr

def dWait (d : Desc) (i : Nat) : Option WaitWord :=
  let o := 48 + 4 * i
  if dF d o 31 31 = 0 then none
  else some { scope := dF d o 30 28, flag := BitVec.ofNat 12 (dF d o 27 16), target := BitVec.ofNat 16 (dF d o 15 0) }

/-- A set word that is valid (R152). -/
structure SetWord where
  scope : Nat
  flag : BitVec 12
  module_ : BitVec 13
  die : Die
  remote : Bool
  inc : BitVec 8
  deriving DecidableEq, Repr

def dSet (d : Desc) (i : Nat) : Option SetWord :=
  let o := 64 + 8 * i
  if dF d o 63 63 = 0 then none
  else some { scope := dF d o 62 60, flag := BitVec.ofNat 12 (dF d o 59 48), module_ := BitVec.ofNat 13 (dF d o 47 35),
              die := Fin.ofNat 4 (dF d o 34 33), remote := dF d o 32 32 = 1, inc := BitVec.ofNat 8 (dF d o 7 0) }

/-- Reserved bits and encodings of the input word at byte `o` (R148). -/
def inWordOk (d : Desc) (o : Nat) : Bool :=
  if dF d o 15 15 = 0 then dF d o 15 0 = 0 else dF d o 14 12 = 0

/-- Of the output word at byte `o`: a memory target is 256-byte aligned (R148). -/
def outWordOk (d : Desc) (o : Nat) : Bool :=
  if dF d o 63 63 = 0 then dF d o 63 0 = 0
  else dF d o 61 56 = 0 && (if dF d o 62 62 = 0 then dF d o 55 12 = 0 else dF d o 7 0 = 0)

/-- Of the wait word at byte `o` (R7, R151). -/
def waitWordOk (d : Desc) (o : Nat) : Bool :=
  if dF d o 31 31 = 0 then dF d o 31 0 = 0 else dF d o 30 28 ≤ 4

/-- Of the set word at byte `o`: a scope of R7, bits [31:8] clear and INC not 0 (R152). R152 gives MODULE and DIE a meaning only
with REMOTE 1b and does not call them reserved with REMOTE 0b: any value stands there (DESIGN CHOICE, log entry 63). -/
def setWordOk (d : Desc) (o : Nat) : Bool :=
  if dF d o 63 63 = 0 then dF d o 63 0 = 0
  else dF d o 62 60 ≤ 4 && dF d o 31 8 = 0 && dF d o 7 0 != 0

/-! ## ACC words (R112, R121) -/

/-- MODE of a MATMUL. -/
inductive AccMode where
  | continue_ | start | seed | accept
  deriving DecidableEq, Repr

def dAccSeq (d : Desc) : Nat := dF d 80 63 48
def dAccMode (d : Desc) : AccMode :=
  match dF d 80 47 46 with
  | 0 => .continue_ | 1 => .start | 2 => .seed | _ => .accept
def dAccSet (d : Desc) : Fin 16 := Fin.ofNat 16 (dF d 80 43 40)
def dBase8 (d : Desc) : Nat := dF d 80 39 31
/-- ROWS8: number of rows ÷ 8, minus 1. -/
def dRows8 (d : Desc) : Nat := dF d 80 30 22
def dOff8 (d : Desc) : Nat := dF d 80 21 13
def dSrcEngine (d : Desc) : Eng := Fin.ofNat 8 (dF d 80 12 10)
def dSrcSet (d : Desc) : Fin 16 := Fin.ofNat 16 (dF d 80 9 6)

/-- TARGET of a DRAIN: 0 OUT, 1 ENGINE, 2 COLLECTIVE, 3 reserved. -/
def dTarget (d : Desc) : Nat := dF d 80 47 46
def dForce (d : Desc) : Bool := dF d 80 45 45 = 1
def dDestEngine (d : Desc) : Eng := Fin.ofNat 8 (dF d 80 39 37)
def dDestSet (d : Desc) : Fin 16 := Fin.ofNat 16 (dF d 80 36 33)

/-- Reserved bits of a MATMUL's ACC word (R112). -/
def accMatmulOk (d : Desc) : Bool :=
  dF d 80 45 44 = 0 && dF d 80 5 0 = 0 &&
  match dAccMode d with
  | .start => dF d 80 12 6 = 0
  | .seed => true
  | .continue_ => dF d 80 39 22 = 0 && dF d 80 12 6 = 0
  | .accept => dF d 80 39 13 = 0

/-- Reserved bits and encodings of a DRAIN's ACC word (R121). -/
def accDrainOk (d : Desc) : Bool :=
  dTarget d != 3 && dF d 80 44 44 = 0 && dF d 80 32 0 = 0 &&
  (dTarget d == 1 || dF d 80 39 33 = 0) && (!dForce d || (dTarget d == 0 && dAccSeq d == 0))

/-! ## Body fields (R153 to R156) -/

def dTidStat (d : Desc) : Nat := dF d 88 23 0
def dTidStream (d : Desc) : Nat := dF d 92 23 0
def dT (d : Desc) : Nat := dF d 96 12 0
def dStatFmt (d : Desc) : Nat := dF d 98 3 0

def drDomain (d : Desc) : Nat := dF d 88 31 24
def drTid (d : Desc) : Nat := dF d 88 23 0
def drB (d : Desc) : Nat := dF d 92 15 0
def drFunc (d : Desc) : Nat := dF d 94 7 0
def drChannel (d : Desc) : ChanId := Fin.ofNat 64 (dF d 95 5 0)
def drOrigin (d : Desc) : Nat := dF d 96 39 0
def drRowLen (d : Desc) : Nat := dF d 104 31 0
def drCols (d : Desc) : Nat := dF d 108 9 0
def drPitch (d : Desc) : Nat := dF d 112 31 0
def drK0 (d : Desc) : BitVec 32 := BitVec.ofNat 32 (dF d 116 31 0)

def vcB (d : Desc) : Nat := dF d 80 63 48
def vcOrigin (d : Desc) : Nat := dF d 80 39 0
def vcCount (d : Desc) : Nat := dF d 88 31 0
def cvRound (d : Desc) : Nat := dF d 92 1 0
def cvDomain (d : Desc) : Nat := dF d 93 7 0
def cvTidIn (d : Desc) : Nat := dF d 96 23 0
def cvTidOut (d : Desc) : Nat := dF d 100 23 0
def cvPitch (d : Desc) : Nat := dF d 104 31 0

def veRowLen (d : Desc) : Nat := dF d 92 15 0
def veChannel (d : Desc) : ChanId := Fin.ofNat 64 (dF d 94 5 0)
def veDomain (d : Desc) (i : Nat) : Nat := dF d (96 + 4 * i) 31 24
def veTidOut (d : Desc) (i : Nat) : Nat := dF d (96 + 4 * i) 23 0
def veTidIn (d : Desc) (i : Nat) : Nat := dF d (104 + 4 * i) 23 0
def veK (d : Desc) (i : Nat) : BitVec 32 := BitVec.ofNat 32 (dF d (116 + 4 * i) 31 0)

def stSrc (d : Desc) : Nat := dF d 80 55 0
def stPitch (d : Desc) : Nat := dF d 88 31 0
def stRows (d : Desc) : Nat := dF d 92 15 0
def stRowBytes (d : Desc) : Nat := dF d 94 15 0
def stPitchOut (d : Desc) : Nat := dF d 96 15 0
def stPack (d : Desc) : Bool := dF d 98 1 1 = 1
def stIndexed (d : Desc) : Bool := dF d 98 0 0 = 1
def stTid (d : Desc) : Nat := dF d 100 23 0
def stIndexAddr (d : Desc) : Nat := dF d 104 55 0
def stIndexCount (d : Desc) : Nat := dF d 112 31 0
def stLead (d : Desc) : Nat := dF d 116 31 0

def pgSrc (d : Desc) : Nat := dF d 80 55 0
def pgDst (d : Desc) : Nat := dF d 88 55 0
def pgBytes (d : Desc) : Nat := dF d 96 31 0
def pgVc (d : Desc) : Nat := dF d 100 2 0

/-! ## The rows of a STREAM (R192, R194) -/

def isL4wStream (d : Desc) : Bool := dFmtIn d 0 == 3
def narrows (d : Desc) : Bool := dFmtIn d 0 == 2 && dFmtOut d 0 == 0

/-- STAT and parameter of SHAPE_PARAM in a STREAM (R194). -/
def stStat (d : Desc) : Bool := dParam d / 128 % 2 = 1
def stParam (d : Desc) : Nat := dParam d % 64

/-- Indices of a stored row (R194). -/
def rowIndices (d : Desc) : Nat :=
  if dShape d = 3 && !stStat d then 16 else if dShape d = 5 && stStat d then 512 / max (stParam d) 1 else 1

/-- Element rows that an L4w STREAM reads (R192). -/
def l4wRows (d : Desc) : Nat := if stPack d then 512 else 1024

/-- Source rows of an entry. -/
def sourceCount (d : Desc) : Nat :=
  if isL4wStream d then l4wRows d + (if stPack d then 16 else 32)
  else if stIndexed d then stRows d * rowIndices d
  else stRows d

/-- Source rows that stored row k needs. -/
def sourcesOf (d : Desc) (k : Nat) : List Nat :=
  if isL4wStream d then
    if k < 512 then (if stPack d then [k] else [k, k + 512])
    else if stPack d then (List.range 16).map (512 + ·) else [1024 + (k - 512)]
  else
    let p := rowIndices d
    if stIndexed d then (List.range p).map (k * p + ·) else [k]

/-! ## Bodies of COLLECTIVE and the service families (R155) -/

def coChannel (d : Desc) : ChanId := Fin.ofNat 64 (dF d 80 5 0)
def coCseq (d : Desc) : BitVec 32 := BitVec.ofNat 32 (dF d 84 31 0)
def coSrc (d : Desc) : Nat := dF d 88 55 0
def coDst (d : Desc) : Nat := dF d 96 55 0
def coCount (d : Desc) : Nat := dF d 104 31 0
def coDomain (d : Desc) : Nat := dF d 108 31 24
def coTid (d : Desc) : Nat := dF d 108 23 0
def coLate (d : Desc) : Nat := dF d 112 15 0
def coB (d : Desc) : Nat := dF d 114 15 0
def coTimeout (d : Desc) : Nat := dF d 116 31 0
def coSrcDrain (d : Desc) : Bool := dF d 120 0 0 = 1
def coNorm (d : Desc) : Bool := dF d 120 1 1 = 1
def coDigest (d : Desc) : Bool := dF d 120 2 2 = 1

def flFlag (d : Desc) : BitVec 12 := BitVec.ofNat 12 (dF d 80 11 0)
def flValue (d : Desc) : BitVec 16 := BitVec.ofNat 16 (dF d 82 15 0)
def feScope (d : Desc) : Nat := dF d 80 2 0

def caRoutine (d : Desc) : Nat := dF d 80 15 0
def caArgBytes (d : Desc) : Nat := dF d 84 31 0
def caArg (d : Desc) : Nat := dF d 88 55 0
def caInline (d : Desc) : List Byte := leBytes 32 (d.toNat / 2 ^ 768)

def miSrc (d : Desc) : Nat := dF d 80 42 0
def miBytes (d : Desc) : Nat := dF d 88 31 0
def miStep (d : Desc) : BitVec 32 := BitVec.ofNat 32 (dF d 92 31 0)

def chCvu (d : Desc) : Fin 16 := Fin.ofNat 16 (dF d 80 3 0)
def chTap (d : Desc) : BitVec 8 := BitVec.ofNat 8 (dF d 81 7 0)
def chFold (d : Desc) : Bool := dF d 82 0 0 = 1
def chExpect (d : Desc) : BitVec 32 := BitVec.ofNat 32 (dF d 84 31 0)
def chStart (d : Desc) : Nat := dF d 88 55 0
def chBytes (d : Desc) : Nat := dF d 96 31 0

/-! ## Which fields a family uses (R433) -/

/-- A field: byte offset, highest and lowest bit. -/
abbrev Field := Nat × Nat × Nat

/-- The bits of a list of fields, as a number. -/
def fieldMask (l : List Field) : Nat :=
  l.foldl (fun a (f : Field) => a ||| ((2 ^ (f.2.1 + 1 - f.2.2) - 1) * 2 ^ (8 * f.1 + f.2.2))) 0

/-- Fields of every family: the first two rows of R433's table. -/
def commonFields : List Field :=
  [(0, 11, 0), (2, 9, 0), (4, 7, 0), (5, 7, 6), (5, 3, 0), (6, 15, 0), (48, 31, 0), (52, 31, 0), (56, 31, 0), (60, 31, 0),
   (64, 63, 0), (72, 63, 0)]

def varFields : List Field := [(8, 15, 15), (8, 8, 0)]
def unitField : List Field := [(10, 2, 0)]
def shapeFields : List Field := [(11, 3, 0), (12, 7, 0)]
def inField (i : Nat) : Field := (24 + 2 * i, 15, 0)
def fmtInField (i : Nat) : Field := (16, 4 * i + 3, 4 * i)
def outField (i : Nat) : Field := (32 + 8 * i, 63, 0)
def fmtOutField (i : Nat) : Field := (16, 19 + 4 * i, 16 + 4 * i)

/-- Number of inputs a MATMUL's shape uses (R65). -/
def shapeInputs (shape : Nat) : Nat :=
  match shape with
  | 1 => 2 | 2 => 4 | 4 => 4 | 5 => 4 | _ => 1

/-- Inputs of a VEC function (R156). -/
def vecInputs (f : Nat) : Nat :=
  match f with
  | 0x10 => 2 | 0x11 => 2 | 0x12 => 3 | 0x13 => 2 | 0x23 => 2 | 0x24 => 3 | 0x40 => 3 | 0x41 => 3 | 0x42 => 3 | _ => 1

/-- Outputs of a VEC function (R156). -/
def vecOutputs (f : Nat) : Nat :=
  match f with
  | 0x30 => 0 | 0x50 => 0 | 0x40 => 2 | 0x42 => 2 | _ => 1

/-- Whether a VEC function works row by row (R437). -/
def vecRows (f : Nat) : Bool := 0x20 ≤ f && f ≤ 0x24

/-- Whether a collective is the norm collective: NORM with COUNT 0 (R281). -/
def isNormColl (d : Desc) : Bool := coNorm d && coCount d == 0

/-- ORIENT bits of the inputs a MATMUL's shape uses. -/
def orientField (n : Nat) : List Field := [(13, 2 * n - 1, 0)]

/-- Header and body fields of a descriptor's family and function; every other bit is reserved (R4, R154 to R156, R433). R433
reserves every field of a MATMUL with MODE ACCEPT after its table's first two rows; UNIT is taken as used there all the same, since
R147 has it name the MATMUL's engine and R112 leaves it out of the fields that ACCEPT reserves (DEDUCED, log entry 64). -/
def usedFields (f : Family) (d : Desc) : List Field :=
  match f with
  | .matmul =>
    if dAccMode d = .accept then unitField ++ [(80, 63, 0), (88, 23, 0), (92, 23, 0), (96, 12, 0)]
    else
      let n := shapeInputs (dShape d)
      varFields ++ unitField ++ shapeFields ++ orientField n ++ (List.range n).map inField ++ (List.range n).map fmtInField
        ++ [(80, 63, 0), (88, 23, 0), (92, 23, 0), (96, 12, 0), (98, 3, 0)]
  | .vec =>
    let i := vecInputs (dFunc d)
    let o := vecOutputs (dFunc d)
    let tidOuts := if dFunc d = 0x50 then 1 else o
    varFields ++ unitField ++ (List.range i).map inField ++ (List.range i).map fmtInField ++ (List.range o).map outField
      ++ (List.range o).map fmtOutField ++ (List.range tidOuts).map (fun k => (96 + 4 * k, 31, 0))
      ++ (List.range i).map (fun k => (104 + 4 * k, 23, 0))
      ++ [(80, 63, 48), (80, 39, 0), (88, 31, 0), (92, 15, 0), (94, 5, 0), (116, 31, 0), (120, 31, 0), (124, 31, 0)]
  | .convert =>
    varFields ++ unitField ++ [inField 0, fmtInField 0, outField 0, fmtOutField 0]
      ++ (if dFmtOut d 0 = 3 then [outField 1] else [])
      ++ [(80, 63, 48), (80, 39, 0), (88, 31, 0), (92, 1, 0), (93, 7, 0), (96, 23, 0), (100, 23, 0), (104, 31, 0)]
  | .drain =>
    unitField ++ [(80, 63, 0)] ++
    (if dTarget d = 0 then varFields ++ [outField 0, fmtOutField 0] else []) ++
    (if dTarget d = 1 then []
     else [(88, 31, 0), (92, 15, 0), (94, 7, 0), (95, 5, 0), (96, 39, 0), (104, 31, 0), (108, 9, 0), (112, 31, 0)]
       ++ (if drFunc d = 8 then [(116, 31, 0)] else []))
  | .loadstat => unitField ++ shapeFields ++ [(13, 1, 0), inField 0, fmtInField 0]
  | .swap => unitField
  | .stream =>
    varFields ++ unitField ++ shapeFields ++ [fmtInField 0, fmtOutField 0, outField 0]
      ++ [(80, 55, 0), (88, 31, 0), (92, 15, 0), (94, 15, 0), (96, 15, 0), (98, 1, 0), (100, 23, 0), (104, 55, 0), (112, 31, 0),
          (116, 31, 0)]
  | .putget => [outField 0, (80, 55, 0), (88, 55, 0), (96, 31, 0), (100, 2, 0)]
  | .collective =>
    varFields ++ (if !coSrcDrain d && coCount d != 0 then [fmtInField 0] else [])
      ++ (if isNormColl d || dFunc d = 4 then [] else [fmtOutField 0])
      ++ [(80, 5, 0), (84, 31, 0), (88, 55, 0), (96, 55, 0), (104, 31, 0), (108, 31, 0), (112, 15, 0), (114, 15, 0), (116, 31, 0),
          (120, 2, 0)]
  | .flag => if dFunc d = 1 then [(80, 11, 0), (82, 15, 0)] else []
  | .fence => [(80, 2, 0)]
  | .call => [(80, 15, 0), (84, 31, 0), (88, 55, 0), (96, 255, 0)]
  | .cancel => []
  | .mirror => [(80, 42, 0), (88, 31, 0), (92, 31, 0)]
  | .checkarm => [(80, 3, 0), (81, 7, 0), (82, 0, 0), (84, 31, 0), (88, 55, 0), (96, 31, 0)]

/-- No reserved bit of the descriptor is set (R4, R433). -/
def reservedClear (f : Family) (d : Desc) : Bool :=
  (d &&& ~~~(BitVec.ofNat 1024 (fieldMask (commonFields ++ usedFields f d)))) == 0

/-- An SR domain that a descriptor may name (R93). -/
def domainOk (x : Nat) : Bool := x ≤ 5 || 0x80 ≤ x

/-- Every input i below n is used: VALID is 1b and its format is one of R76 (R433, R437). -/
def inputsOk (d : Desc) (n : Nat) : Bool :=
  (List.range n).all fun i => inWordOk d (24 + 2 * i) && (dInQ d i).isSome && (dIn d i).isSome

/-- Encodings of a family's fields, apart from what its unit checks when it begins. -/
def encodingsOk (f : Family) (d : Desc) : Bool :=
  match f with
  | .matmul =>
    accMatmulOk d && (dAccMode d = .accept ||
      (dShape d ≤ 8 && inputsOk d (shapeInputs (dShape d)) && (Fmt.ofCode (dStatFmt d)).isSome))
  | .vec =>
    let o := vecOutputs (dFunc d)
    inputsOk d (vecInputs (dFunc d)) &&
      ((List.range o).all fun i => outWordOk d (32 + 8 * i) && dOutW d i != .none && (dOut d i).isSome && domainOk (veDomain d i))
      && (dFunc d != 0x50 || domainOk (veDomain d 0))
  | .convert =>
    inputsOk d 1 && outWordOk d 32 && dOutW d 0 != .none && (dOut d 0).isSome && outWordOk d 40 && domainOk (cvDomain d)
      && cvRound d ≤ 1
  | .drain =>
    accDrainOk d && (dTarget d != 0 || (outWordOk d 32 && (dOut d 0).isSome && (dForce d || dOutW d 0 != .none)))
      && domainOk (drDomain d) && (dTarget d == 1 || drFunc d ≤ 8)
  | .loadstat => dShape d ≤ 8 && inputsOk d 1
  | .swap => true
  | .stream => (dIn d 0).isSome && (dOut d 0).isSome && outWordOk d 32
  | .putget => outWordOk d 32
  | .collective => domainOk (coDomain d)
  | .flag => true
  | .fence => feScope d ≤ 4
  | .call => true
  | .cancel => true
  | .mirror => true
  | .checkarm => true

/-- Whether a descriptor is well formed: its family, reserved fields, and the encodings of its words (R4, R144, R148,
R151, R152, R433). -/
def descOk (d : Desc) : Bool :=
  match dFamily d with
  | none => false
  | some f =>
    reservedClear f d && waitWordOk d 48 && waitWordOk d 52 && waitWordOk d 56 && waitWordOk d 60
      && setWordOk d 64 && setWordOk d 72 && encodingsOk f d

/-! ## Shapes (R51, R53, R113, R435) -/

/-- Row groups G of a shape (R113). -/
def shapeG (shape : Nat) : Nat :=
  match shape with
  | 1 => 2 | 2 => 4 | 3 => 16 | 4 => 2 | 5 => 2 | _ => 1

/-- Chunk values an entry receives from one MATMUL (R113). -/
def shapeChunks (shape : Nat) : Nat :=
  match shape with
  | 0 => 16 | 1 => 8 | 2 => 4 | 3 => 1 | 4 => 8 | 5 => 8 | 6 => 32 | 7 => 32 | _ => 8

/-- Shape parameter within its range (R51). -/
def paramOk (shape param : Nat) : Bool :=
  match shape with
  | 3 => 1 ≤ param && param ≤ 32
  | 5 => param == 8 || param == 16 || param == 32
  | _ => param == 0

/-- Load class of a shape (R435): shapes of one class share a number. -/
def loadClass (shape : Nat) : Nat := if shape ≤ 2 then 0 else shape

/-- Load steps before the set is swap-ready (R27). -/
def loadSteps (shape param : Nat) : Nat :=
  match shape with
  | 3 => 16 * param
  | 6 => 544
  | 7 => 544
  | 8 => 256
  | _ => 512

/-- Operand formats of a shape: stationary and streamed (R52). -/
def shapeFmtsOk (shape : Nat) (stat stream : Fmt) : Bool :=
  if shape = 8 then stat == .l16s && stream == .l16s
  else
    (stream == .l8f || stream == .l8g) && (if shape = 6 || shape = 7 then stat == .l4w else stat == .l8f || stat == .l8g)

/-- Bytes an input presents per wavefront (R65). -/
def shapeInBytes (shape param : Nat) : Nat :=
  match shape with
  | 0 => 512 | 1 => 256 | 2 => 128 | 3 => 16 * param | 4 => 256 | 5 => 256 | 6 => 1024 | 7 => 1024 | _ => 512

/-- Stored pitch of a streamed entry read row-wise (R65). -/
def shapePitch (shape : Nat) : Nat := if shape = 6 || shape = 7 then 1024 else 512

end Sys2Proof.Machine
end

