-- ==== Sys2Proof/Machine/Flags.lean ====
section
/-! DEFINITION. Status codes and their order, and the flags: waits, sets and writes (R8, R151 to R153, R164, R430). -/

namespace Sys2Proof.Machine

/-- The code of a status (R430). -/
def Status.code : Status → BitVec 8
  | .ok => 0x00 | .late => 0x01 | .timeout => 0x02 | .cancelled => 0x03 | .deadlock => 0x04 | .longsum => 0x05
  | .nonfinite => 0x06 | .checksum => 0x07 | .residue => 0x08 | .eccUncorr => 0x09 | .conflict => 0x0A | .busy => 0x0B
  | .streamSkew => 0x0C | .peakRefused => 0x0D | .absent => 0x0E | .aborted => 0x0F | .invalid => 0x10 | .hot => 0x11
  | .checkval => 0x12 | .digest => 0x13

/-- The order in which a record picks among the statuses that apply (R164). -/
def statusOrder : List Status :=
  [.invalid, .cancelled, .deadlock, .timeout, .conflict, .absent, .digest, .checkval, .eccUncorr, .residue, .checksum, .hot,
   .nonfinite, .longsum]

/-- The status of a list of causes (R164). -/
def statusOf (causes : List Status) : Status := (statusOrder.find? fun x => decide (x ∈ causes)).getD .ok

/-- Statuses after which a descriptor's sets are not performed (R152). -/
def setsWithheld (x : Status) : Bool := x ∈ [Status.invalid, .cancelled, .deadlock, .timeout, .conflict]

/-- Statuses of R302 that make the step suspect. -/
def suspectStatus (x : Status) : Bool := x ∈ [Status.checksum, .residue, .eccUncorr, .digest]

/-! ## Flag table entries (R151) -/

def flagKey (d : Die) (f : BitVec 12) : Nat := d.val * 4096 + f.toNat
def flagEntry (s : State) (d : Die) (f : BitVec 12) : BitVec 32 := sparseGet 0 s.flags (flagKey d f)
def feValue (e : BitVec 32) : BitVec 16 := e.extractLsb' 16 16
def feEnable (e : BitVec 32) : Bool := e.getLsbD 15
def feRemote (e : BitVec 32) : Bool := e.getLsbD 14
def feSlot (e : BitVec 32) : Slot := Fin.ofNat 16 (bitsOf e 13 10)
def feProducer (e : BitVec 32) : TicketId := Fin.ofNat 1024 (bitsOf e 9 0)

/-- The entry with another VALUE. -/
def feSetValue (e : BitVec 32) (v : BitVec 16) : BitVec 32 := v ++ e.extractLsb' 0 16

def putFlag (s : State) (d : Die) (f : BitVec 12) (e : BitVec 32) : State :=
  { s with flags := sparseSet 0 s.flags (flagKey d f) e }

/-- (VALUE − TARGET) mod 2¹⁶ is below 8000h (R151). -/
def flagReached (value target : BitVec 16) : Bool := (value - target).toNat < 0x8000

/-- A flag that a descriptor of a slot may wait on or write (R151, R153). -/
def flagUsable (s : State) (d : Die) (f : BitVec 12) (j : Slot) : Bool :=
  let e := flagEntry s d f
  feEnable e && feSlot e == j

/-- A set of a flag at its home (R152): who asks is none for another module, or the die, and the ticket. None where the
set is refused. -/
def setFlagAt (s : State) (d : Die) (f : BitVec 12) (j : Slot) (from_ : Option Die) (t : TicketId) (inc : BitVec 8) :
    Option State :=
  let e := flagEntry s d f
  if !feEnable e || feSlot e != j then none
  else if !feRemote e && (from_ != some d || feProducer e != t) then none
  else some (putFlag s d f (feSetValue e (feValue e + inc.zeroExtend 16)))

end Sys2Proof.Machine
end

