-- ==== Sys2Proof/Machine/Hash.lean ====
section
/-! DEFINITION. The check functions the manual names: CRC-32C (R297) and SHAKE256 of FIPS 202 (R182, R286, R406). -/

namespace Sys2Proof.Machine

/-! ## CRC-32C: polynomial 1EDC_6F41h, reflected; initial value and final XOR all ones (R297) -/

/-- One bit of the reflected division. -/
def crcBit (c : BitVec 32) : BitVec 32 := if c.getLsbD 0 then (c >>> 1) ^^^ 0x82F63B78 else c >>> 1

/-- One byte. -/
def crcByte (c : BitVec 32) (b : Byte) : BitVec 32 :=
  let c := c ^^^ b.zeroExtend 32
  crcBit (crcBit (crcBit (crcBit (crcBit (crcBit (crcBit (crcBit c)))))))

/-- One bit of a CRC-16 with polynomial 1021h, the most significant bit first (R262; log entry 77). -/
def crc16Bit (c : BitVec 16) : BitVec 16 := if c.getLsbD 15 then (c <<< 1) ^^^ 0x1021 else c <<< 1

def crc16Byte (c : BitVec 16) (b : Byte) : BitVec 16 :=
  let c := c ^^^ (b.setWidth 16 <<< 8)
  crc16Bit (crc16Bit (crc16Bit (crc16Bit (crc16Bit (crc16Bit (crc16Bit (crc16Bit c)))))))

/-- The CRC-16 of a byte string, with initial value FFFFh (R262). -/
def crc16 (l : List Byte) : BitVec 16 := l.foldl crc16Byte 0xFFFF

/-- CRC-32C of a byte string. -/
def crc32c (l : List Byte) : BitVec 32 := (l.foldl crcByte 0xFFFFFFFF) ^^^ 0xFFFFFFFF

/-! ## SHAKE256 over Keccak-p[1600, 24]; lane (x, y) stands at place 5y + x -/

/-- The feedback register of algorithm rc: x⁸ + x⁶ + x⁵ + x⁴ + 1, one step. -/
def rcShift (r : BitVec 8) : BitVec 8 := if r.getLsbD 7 then (r <<< 1) ^^^ 0x71 else r <<< 1

/-- The constant of a round, from the register as it stands before the round's seven outputs: output m gives bit 2ᵐ − 1. -/
def rcOutputs : Nat → Nat → BitVec 8 → BitVec 64 → BitVec 8 × BitVec 64
  | 0, _, r, k => (r, k)
  | n + 1, m, r, k => rcOutputs n (m + 1) (rcShift r) (if r.getLsbD 0 then k ||| (1 <<< (2 ^ m - 1)) else k)

/-- The place and the offset of ρ for the lanes other than (0, 0), along the walk (x, y) to (y, 2x + 3y) from (1, 0). -/
def rhoWalk : Nat → Nat → Nat × Nat → List (Nat × Nat)
  | 0, _, _ => []
  | n + 1, t, (x, y) => (5 * y + x, (t + 1) * (t + 2) / 2 % 64) :: rhoWalk n (t + 1) (y, (2 * x + 3 * y) % 5)

/-- A lane of a state. -/
def laneAt (st : List (BitVec 64)) (x y : Nat) : BitVec 64 := st.getD (5 * (y % 5) + x % 5) 0

/-- θ: every lane takes the parities of the columns beside its own. -/
def theta (st : List (BitVec 64)) : List (BitVec 64) :=
  let parity (x : Nat) : BitVec 64 := (List.range 5).foldl (fun p y => p ^^^ laneAt st x y) 0
  let effect := (List.range 5).map fun x => parity (x + 4) ^^^ (parity (x + 1)).rotateLeft 1
  ((List.range 5).map fun y => (List.range 5).map fun x => laneAt st x y ^^^ effect.getD x 0).flatten

/-- ρ and π: lane (x, y), turned by its offset, goes to (y, 2x + 3y), the next place of the walk. -/
def rhoPi (st : List (BitVec 64)) : List (BitVec 64) :=
  (rhoWalk 24 0 (1, 0)).foldl
    (fun out p => out.set (5 * ((2 * (p.1 % 5) + 3 * (p.1 / 5)) % 5) + p.1 / 5) ((st.getD p.1 0).rotateLeft p.2)) st

/-- χ: within a row, every lane against the two that follow it. -/
def chi (st : List (BitVec 64)) : List (BitVec 64) :=
  ((List.range 5).map fun y =>
    (List.range 5).map fun x => laneAt st x y ^^^ (laneAt st (x + 2) y &&& ~~~(laneAt st (x + 1) y))).flatten

/-- Keccak's rounds: θ, ρ, π, χ, and the round's constant onto lane (0, 0). -/
def keccakRounds : Nat → BitVec 8 → List (BitVec 64) → List (BitVec 64)
  | 0, _, st => st
  | n + 1, r, st =>
    let k := rcOutputs 7 0 r 0
    keccakRounds n k.1 (listMod (chi (rhoPi (theta st))) 0 (· ^^^ k.2))

/-- A block of 136 bytes, the rate, taken into the state. -/
def absorb (st : List (BitVec 64)) (blk : List Byte) : List (BitVec 64) :=
  let words := (pieces 8 blk).map (bytesWord 64)
  keccakRounds 24 1 ((List.range 25).map fun p => st.getD p 0 ^^^ words.getD p 0)

/-- Padding of SHAKE: 1Fh, zeros, 80h in the last byte of a 136-byte block. -/
def shakePad (l : List Byte) : List Byte :=
  let n := 136 - l.length % 136
  if n = 1 then l ++ [0x9F] else l ++ [0x1F] ++ List.replicate (n - 2) 0 ++ [0x80]

/-- SHAKE256 with a 256-bit output. -/
def shake256 (l : List Byte) : List Byte :=
  let a := (pieces 136 (shakePad l)).foldl absorb (List.replicate 25 0)
  ((a.take 4).map (wordBytes 8)).flatten

end Sys2Proof.Machine
end

