-- ==== Sys2Proof/Machine/Ops.lean ====
section
/-! DEFINITION. The named operations that every family shares: parts of the state by number, the address map, bursts at
their homes, taps, the integrity log, the failure record, events, and tickets. -/

namespace Sys2Proof.Machine

/-! ## Parts of the state by number -/

def modSlot (s : State) (j : Slot) (f : SlotR → SlotR) : State := { s with slots := vmod s.slots j f }
def modDie (s : State) (d : Die) (f : DieR → DieR) : State := { s with dies := vmod s.dies d f }
def modEng (s : State) (e : Eng) (f : EngineR → EngineR) : State := { s with engines := vmod s.engines e f }
def modAcc (s : State) (e : Eng) (f : AccR → AccR) : State := { s with accs := vmod s.accs e f }
def modHome (s : State) (h : Home) (f : HomeR → HomeR) : State := { s with homes := vmod s.homes h f }
def modPort (s : State) (p : PortId) (f : PortR → PortR) : State := { s with ports := vmod s.ports p f }
def modChan (s : State) (c : ChanId) (f : ChanR → ChanR) : State := { s with chans := vmod s.chans c f }
def modCvu (s : State) (u : Fin 16) (f : CvuR → CvuR) : State := { s with cvus := vmod s.cvus u f }

/-- The rings of die d and slot j (R165). -/
def ringsIx (d : Die) (j : Slot) : Fin 64 := Fin.ofNat 64 (d.val * 16 + j.val)
def ringsOf (s : State) (d : Die) (j : Slot) : RingsR := s.rings[ringsIx d j]
def modRings (s : State) (d : Die) (j : Slot) (f : RingsR → RingsR) : State := { s with rings := vmod s.rings (ringsIx d j) f }

/-- Context c of die d. -/
def ctxIx (d : Die) (c : CtxId) : Fin 32 := Fin.ofNat 32 (d.val * 8 + c.val)
def ctxOf (s : State) (d : Die) (c : CtxId) : Option Ctx := s.ctxs[ctxIx d c]
def putCtx (s : State) (d : Die) (c : CtxId) (x : Option Ctx) : State := { s with ctxs := s.ctxs.set (ctxIx d c) x }

/-- The die an array engine sits on (R12). -/
def engDie (e : Eng) : Die := Fin.ofNat 4 (e.val / 2)
/-- The die a stack is bonded onto (R12). -/
def stackDie (h : Stack) : Die := Fin.ofNat 4 (h.val / 2)
/-- The die of a ticket (R139). -/
def tkDie (t : TicketId) : Die := Fin.ofNat 4 (t.val / 256)
/-- The ticket of a die under a number (R139). -/
def dieTk (d : Die) (n : Fin 256) : TicketId := Fin.ofNat 1024 (256 * d.val + n.val)
/-- The pair of dies, AD0 with AD1 or AD2 with AD3 (R305). -/
def diePair (d : Die) : Fin 2 := Fin.ofNat 2 (d.val / 2)
/-- The other die of the pair. -/
def dieXor (d : Die) : Die := Fin.ofNat 4 (if d.val % 2 = 0 then d.val + 1 else d.val - 1)
/-- The engine at the same place of the other die of the pair. -/
def engXor (e : Eng) : Eng := Fin.ofNat 8 (if e.val / 2 % 2 = 0 then e.val + 2 else e.val - 2)

/-- The engine that serves a UNIT, or an engine number in an ACC word: under a die swap that of the other die (R305). -/
def servedEng (s : State) (e : Eng) : Eng := if s.integrity.swap[diePair (engDie e)] then engXor e else e

/-- Where a descriptor runs when the one that its rings name is not to: a replay and a repeat run on the other die of the pair
(R307, R309). -/
def Tk.away (k : Tk) : Bool := k.isReplay || k.isRepeat

/-- The engine that an engine number of a descriptor stands for. -/
def tkEngine (s : State) (k : Tk) (e : Eng) : Eng := if k.away then engXor (servedEng s e) else servedEng s e

/-- The engine of a descriptor's UNIT. -/
def tkEng (s : State) (k : Tk) : Eng := tkEngine s k (dUnit k.desc)

/-- The die that serves a die's rings (R305). -/
def servedDie (s : State) (d : Die) : Die := if s.integrity.swap[diePair d] then dieXor d else d

/-- The die that serves a descriptor. -/
def tkHost (s : State) (k : Tk) : Die := if k.away then dieXor (servedDie s k.ringDie) else servedDie s k.ringDie

/-! ## Messages -/

/-- Sends a message outward. -/
def emit (s : State) (m : Sent) : State := { s with sent := s.sent ++ [m] }

/-! ## The address map (R15, R208 to R210) -/

def stackSpan : Nat := 0x800000000
def stackTop : Nat := 0x780000000
def tier2Base : Nat := 0x10000000000
def tier2Span : Nat := 0x8000000000
def tier2End : Nat := 0x30000000000
def headBase : Nat := 0x2F000000000
def localSize : Nat := 2 ^ 43

/-- The home of a device-local address; none where the range is not populated (R208). -/
def homeAt (a : Nat) : Option Home :=
  if a < 8 * stackSpan then (if a % stackSpan < stackTop then some (Fin.ofNat 12 (a / stackSpan)) else none)
  else if tier2Base ≤ a ∧ a < tier2End then some (Fin.ofNat 12 (8 + (a - tier2Base) / tier2Span))
  else none

/-- First address of a home's range. -/
def homeBase (h : Home) : Nat := if h.val < 8 then h.val * stackSpan else tier2Base + (h.val - 8) * tier2Span
/-- Bursts of a home's populated range (R218). -/
def homeBursts (h : Home) : Nat := if h.val < 8 then stackTop / 256 else tier2Span / 256

/-- Whether every byte of a range of n bytes at a is populated; bridges adjoin one another. -/
def populated (a n : Nat) : Bool :=
  match homeAt a, homeAt (a + n - 1) with
  | some h, some k => h = k || (8 ≤ h.val && 8 ≤ k.val)
  | _, _ => false

/-- Populated and clear of the head region (R15, R210). -/
def jobRange (a n : Nat) : Bool := populated a n && decide (a + n ≤ headBase)

/-- An address that a descriptor names with a length: the address itself counts where the length is 0 (R15, R210). -/
def namedRange (a n : Nat) : Bool := jobRange a (max n 1)

def inTier2 (a n : Nat) : Bool := decide (tier2Base ≤ a) && populated a n
/-- In tier 2 and outside the head region, where job data lies (R15, R208; log entry 36). -/
def inJobTier2 (a n : Nat) : Bool := inTier2 a n && decide (a + n ≤ headBase)
def inTier1 (a n : Nat) : Bool := decide (a < 8 * stackSpan) && populated a n

/-- Inside one of the two stacks of die d. -/
def inDieStacks (d : Die) (a n : Nat) : Bool :=
  inTier1 a n && decide (a / stackSpan / 2 = d.val)

/-- A global address (R3, R210): its module and its device-local part. -/
def globalModule (g : Nat) : Nat := g / localSize
def globalLocal (g : Nat) : Nat := g % localSize
def isLocal (s : State) (g : Nat) : Bool := globalModule g = s.fabric.moduleId.toNat

/-- The global address of a device-local one. -/
def globalOf (s : State) (a : Nat) : Nat := s.fabric.moduleId.toNat * localSize + a

/-! ## Bytes -/

/-- What an address that the memory does not list reads as: both tiers are filled with zeros (R223). -/
def memDefault : Byte := 0

def memByte (s : State) (a : Nat) : Byte := sparseGet memDefault s.mem a
def memBytes (s : State) (a n : Nat) : List Byte := (List.range n).map fun i => memByte s (a + i)
def memNat (s : State) (a n : Nat) : Nat := leNat (memBytes s a n)

/-- Bytes laid into a memory from address a. -/
def putCells : List Host.Cell → Nat → List Byte → List Host.Cell
  | m, _, [] => m
  | m, a, b :: l => putCells (sparseSet memDefault m a b) (a + 1) l

def memPut (s : State) (a : Nat) (l : List Byte) : State := { s with mem := putCells s.mem a l }

/-- The one form of a memory: addresses strictly rising and no listed byte at what an unlisted one reads as. -/
def Memory.wf (m : List Host.Cell) : Bool := sparseWf memDefault m

/-- A burst's bytes. -/
def burstBytes (s : State) (b : Nat) : List Byte := memBytes s (256 * b) 256
def isPoison (s : State) (b : Nat) : Bool := sparseGet false s.poison b

/-- Throttle level of a home; bridges do not throttle (R207, R220). -/
def homeLevel (s : State) (h : Home) : Nat := if h.val < 8 then (s.homes[h]).level.val else 0
def homeTripped (s : State) (h : Home) : Bool := homeLevel s h = 6
def burstHome (b : Nat) : Option Home := homeAt (256 * b)
def burstTripped (s : State) (b : Nat) : Bool := (burstHome b).any (homeTripped s)
def burstHot (s : State) (b : Nat) : Bool := (burstHome b).any fun h => homeLevel s h = 5

/-! ## The integrity log and the failure record (R314, R333, R432) -/

/-- The unit byte of R157: kind and number. -/
def unitByte (kind number : Nat) : BitVec 8 := BitVec.ofNat 8 (16 * kind + number % 16)

/-- The next number of a 32-bit sequence that starts at 1 and skips 0 (R157, R314, R333). -/
def nextSeq32 (x : BitVec 32) : BitVec 32 := if x + 1 = 0 then 1 else x + 1

/-- An entry of the integrity log that names a data step (R314). -/
def logStep (s : State) (cause : Nat) (unit : BitVec 8) (j : Slot) (t : Nat) (step : BitVec 32) (whr : Nat) (detail : Nat) : State :=
  let g := s.integrity
  let e : LogEntry :=
    { seq := g.nextLogSeq, cause := BitVec.ofNat 8 cause, unit := unit, slot := BitVec.ofNat 4 j.val, ticket := BitVec.ofNat 10 t,
      step := step.setWidth 16, where_ := BitVec.ofNat 16 whr, detail := BitVec.ofNat 32 detail }
  let l := g.log ++ [e]
  { s with integrity := { g with nextLogSeq := nextSeq32 g.nextLogSeq, log := l.drop (l.length - 256) } }

/-- An entry of the integrity log about the slot's current data step. -/
def logEntry (s : State) (cause : Nat) (unit : BitVec 8) (j : Slot) (t : Nat) (whr : Nat) (detail : Nat) : State :=
  logStep s cause unit j t (s.slots[j]).dataStep whr detail

/-- An entry of the integrity log about a descriptor, under the descriptor's own data step (R302, R314). -/
def logTk (s : State) (cause : Nat) (unit : BitVec 8) (k : Tk) (whr : Nat) (detail : Nat) : State :=
  logStep s cause unit (dSlot k.desc) k.ticket.val k.dataStep whr detail

/-- KIND codes that are never outstanding (R432). -/
def neverOutstanding (kind : Nat) : Bool := kind = 0x0E

/-- An entry of the failure record; an ALARM becomes due (R333, R374). -/
def failEntry (s : State) (kind : Nat) (unit : BitVec 8) (whr : Nat) (detail : Nat) (j : Slot) : State :=
  let n := s.nv
  let e : FailEntry :=
    { fseq := n.nextFseq, kind := BitVec.ofNat 8 kind, unit := unit, where_ := BitVec.ofNat 16 whr, powerCycle := n.powerUps,
      commits := s.commits, detail := BitVec.ofNat 64 detail, slot := BitVec.ofNat 4 j.val,
      step := (s.slots[j]).dataStep.setWidth 16, outstanding := !neverOutstanding kind }
  let l := n.failures ++ [e]
  { s with
    nv := { n with failures := l.drop (l.length - 1024), nextFseq := nextSeq32 n.nextFseq }
    field := { s.field with alarmDue := true } }

/-- Outstanding entries that `p` picks are cleared (R432). -/
def clearFailures (s : State) (p : FailEntry → Bool) : State :=
  { s with nv := { s.nv with failures := s.nv.failures.map fun e => if p e then { e with outstanding := false } else e } }

/-- A control fault of a unit, an uncorrectable table entry included: it is isolated, counted and recorded (R294, R296,
R334). -/
def controlFault (s : State) (u : ModUnit) (unit : BitVec 8) (j : Slot) (t : Nat) : State :=
  let s := { s with isolated := addOnce s.isolated u, failedCause := true, upsets := s.upsets.filter (· != .control u),
                    integrity := { s.integrity with controlFaults := countUp s.integrity.controlFaults } }
  failEntry (logEntry s 0x04 unit j t 0 0) 0x0A unit 0 0 j

/-- A unit's use of control fields, and of entries of the coded tables, meets one that is wrong (R294, R296). -/
def controlWrong (s : State) (u : ModUnit) (read : List (CodedTable × Nat)) : Bool :=
  s.upsets.any fun
    | .control v => v == u
    | .tableEntry t e => read.contains (t, e)
    | _ => false

/-- Entries of a coded table that are written anew. -/
def renewEntries (s : State) (tables : List CodedTable) (n : Nat) : State :=
  { s with upsets := s.upsets.filter fun
      | .tableEntry t e => !(tables.contains t && decide (e < n))
      | _ => true }

/-! ## Tickets (R139, R157, R164) -/

def getTk (s : State) (t : TicketId) : Option Tk := sparseGet none s.tickets t.val
def setTk (s : State) (k : Tk) : State := { s with tickets := sparseSet none s.tickets k.ticket.val (some k) }
def freeTk (s : State) (t : TicketId) : State := { s with tickets := sparseSet none s.tickets t.val none }
def modTk (s : State) (t : TicketId) (f : Tk → Tk) : State :=
  match getTk s t with
  | none => s
  | some k => setTk s { f k with ticket := t }

/-- The descriptors in flight. -/
def tksOf (s : State) : List Tk := s.tickets.filterMap (·.2)
/-- Those of a slot. -/
def slotTks (s : State) (j : Slot) : List Tk := (tksOf s).filter fun k => dSlot k.desc == j
/-- Whether a slot has a ticket in flight; on die d only where one is named. -/
def slotBusy (s : State) (j : Slot) (d : Option Die) : Bool :=
  (slotTks s j).any fun k => d.all fun x => k.ringDie == x

def addCause (x : Status) (k : Tk) : Tk := { k with causes := addOnce k.causes x }
def addCauses (l : List Status) (k : Tk) : Tk := { k with causes := l.foldl addOnce k.causes }

/-- A descriptor's unit has ended it. -/
def endTk (causes : List Status) (detail : Nat) (k : Tk) : Tk :=
  { addCauses causes k with phase := .ended, detail := BitVec.ofNat 64 detail }

/-- A descriptor completes with a status and no effect: nothing written, no sets. -/
def failTk (x : Status) (k : Tk) : Tk := { addCause x k with phase := .ended, run := .none }

/-! ## Check-value units (R297 to R301) -/

/-- Folds a burst that passes a tap into every unit armed on it whose range holds its address or sequence number. -/
def tapOne (s : State) (u : Fin 16) (tap : Nat) (seq : Bool) (num : Nat) (data : List Byte) (bad : Bool) : State :=
  let c := s.cvus[u]
  let n := if c.sequence then c.bytes / 256 else c.bytes
  if c.armed && c.tap.toNat = tap && c.sequence == seq && c.start ≤ num && num < c.start + n then
    let v := c.v ^^^ crc32c (leBytes 8 (num - c.start) ++ data)
    let k := c.counted + 1
    let isBad := c.bad || bad
    if k.toNat * 256 = c.bytes then
      let wrong := !c.measure && (isBad || v != c.expect)
      let s := modCvu s u fun c =>
        { c with armed := false, tap := 0xFF, counted := k, v := v, last := v, bad := isBad,
                 mismatches := if wrong then countUp c.mismatches else c.mismatches }
      let s := if wrong then
          (match getTk s c.ticket with
           | some q => logTk s 0x08 (unitByte 7 u.val) q u.val v.toNat
           | none => s)
        else s
      modTk s c.ticket (endTk (if wrong then [.checkval] else []) v.toNat)
    else modCvu s u fun c => { c with counted := k, v := v, bad := isBad }
  else s

/-- Folds a burst into the 16 units. -/
def tapBurst (s : State) (tap : Nat) (seq : Bool) (num : Nat) (data : List Byte) (bad : Bool) : State :=
  (List.finRange 16).foldl (fun s u => tapOne s u tap seq num data bad) s

/-- TAP of the writes and of the reads of a home (R298). -/
def writeTap (h : Home) : Nat := if h.val < 8 then h.val else 0x10 + (h.val - 8)
def readTap (h : Home) : Nat := if h.val < 8 then 8 + h.val else 0x14 + (h.val - 8)

/-- Whether any unit is armed. -/
def anyArmed (s : State) : Bool := s.cvus.toList.any (·.armed)

/-- A burst passes a home's tap. -/
def tapHome (s : State) (write : Bool) (b : Nat) (bad : Bool) : State :=
  match burstHome b with
  | none => s
  | some h =>
    if anyArmed s then
      tapBurst s (if write then writeTap h else readTap h) false (globalOf s (256 * b)) (burstBytes s b) bad
    else s

/-! ## Bursts at their homes (R211, R212, R216, R217, R222, R235) -/

/-- No context keeps a reservation on a burst that is written (R235). -/
def dropReservations (s : State) (b : Nat) : State :=
  { s with ctxs := s.ctxs.map fun c =>
      match c with
      | some x => if x.reservation = some b then some { x with reservation := none } else some x
      | none => none }

/-- Wrong symbols that stand in a sector of a burst. -/
def wrongSymbols (s : State) (b : Nat) (q : Fin 4) : Nat :=
  (s.upsets.map fun u => match u with | .sector c r n => if c = b && r = q then n else 0 | _ => 0).sum

/-- What the code of a sector finds: tier 1 corrects 2 symbols of 8 bits, tier 2 one of 16 (R215). -/
def sectorFinding (tier1 : Bool) (wrong : Nat) : Ecc :=
  if wrong = 0 then .clean else if wrong ≤ (if tier1 then 2 else 1) then .corrected else .uncorrectable

/-- What the code of a burst finds from the errors that stand in it: the worst of its four sectors (R215). -/
def standing (s : State) (b : Nat) : Ecc :=
  (List.finRange 4).foldl (fun c q => c.worse (sectorFinding (decide (256 * b < tier2Base)) (wrongSymbols s b q))) .clean

/-- The burst is stored anew with fresh check bytes: no error stands in it. -/
def freshCheck (s : State) (b : Nat) : State :=
  { s with upsets := s.upsets.filter fun u => match u with | .sector c _ _ => c != b | _ => true }

/-- What a home does with what the code finds on a read, `code` beside the errors that stand in the burst (R215, R216, R218):
a corrected burst is counted and waits to be written back; an uncorrectable one is poisoned, counted once, and recorded. A
burst that holds the poison pattern is found so whatever `code` says. -/
def homeFinding (s : State) (b : Nat) (code : Ecc) : State :=
  match burstHome b with
  | none => s
  | some h =>
    if homeTripped s h || isPoison s b then s
    else match code.worse (standing s b) with
      | .clean => s
      | .corrected =>
        { modHome s h (fun r => { r with corrected := countUp r.corrected }) with
          writebacks := sparseSet false s.writebacks b true }
      | .uncorrectable =>
        let hard := sparseGet false s.cleared b
        let s := freshCheck (modHome s h fun r =>
          { r with uncorrectable := countUp r.uncorrectable, lastUncorr := BitVec.ofNat 64 (256 * b) }) b
        let s := { s with poison := sparseSet false s.poison b true, writebacks := sparseSet false s.writebacks b false }
        failEntry s (if hard then 0x08 else 0x07) (unitByte 0 0) h.val (256 * b) 0

/-- A burst whose bytes a read cannot deliver: poisoned, about to be found uncorrectable, or of a tripped stack. -/
def burstBad (s : State) (b : Nat) : Bool := isPoison s b || burstTripped s b || standing s b == .uncorrectable

/-- A read of a burst at its home: the finding of its code and the tap. -/
def touchBurst (s : State) (b : Nat) : State := tapHome (homeFinding s b .clean) false b (burstBad s b)

/-- A whole write of a burst. It clears the poison, and the write-back of an older value is dropped. A tripped stack drops
the write. The second part tells whether the writer must report ECC_UNCORR. -/
def writeWhole (s : State) (b : Nat) (data : List Byte) : State × Bool :=
  if burstTripped s b then (s, true)
  else
    let s := freshCheck (memPut s (256 * b) (fitBytes 256 data)) b
    let was := isPoison s b
    let s := { s with poison := sparseSet false s.poison b false, writebacks := sparseSet false s.writebacks b false,
                      cleared := if was then sparseSet false s.cleared b true else s.cleared }
    let s := if was then clearFailures s fun e => (e.kind = 0x07 || e.kind = 0x08) && e.detail.toNat = 256 * b else s
    (tapHome (dropReservations s b) true b false, false)

/-- A write of part of a burst under a byte mask: read with its finding, merge, write. A poisoned burst stays poisoned. -/
def writeMaskedCode (s : State) (b : Nat) (code : Ecc) (data : List Byte) (mask : List Bool) : State × Bool :=
  let s := homeFinding s b code
  if burstTripped s b || isPoison s b then (s, true)
  else
    let old := burstBytes s b
    let new := (List.range 256).map fun i => if mask.getD i false then data.getD i 0 else old.getD i 0
    let s := freshCheck (memPut s (256 * b) new) b
    let s := { s with writebacks := sparseSet false s.writebacks b false }
    (tapHome (dropReservations s b) true b false, false)

def writeMasked (s : State) (b : Nat) (data : List Byte) (mask : List Bool) : State × Bool := writeMaskedCode s b .clean data mask

/-- A write of a byte string at an address, burst by burst: whole where it covers a burst, masked elsewhere. -/
def writeSpanN : Nat → State → Nat → List Byte → Bool → State × Bool
  | 0, s, _, _, bad => (s, bad)
  | n + 1, s, a, l, bad =>
    if l.isEmpty then (s, bad)
    else
      let off := a % 256
      let k := min (256 - off) l.length
      let b := a / 256
      let r := if off = 0 && k = 256 then writeWhole s b (l.take 256)
        else writeMasked s b (List.replicate off 0 ++ l.take k)
          ((List.range 256).map fun i => decide (off ≤ i ∧ i < off + k))
      writeSpanN n r.1 (a + k) (l.drop k) (bad || r.2)

def writeSpan (s : State) (a : Nat) (l : List Byte) : State × Bool := writeSpanN (l.length + 1) s a l false

/-- The bursts that a range of n bytes at a touches. -/
def spanBursts (a n : Nat) : List Nat := if n = 0 then [] else (List.range ((a + n - 1) / 256 + 1 - a / 256)).map (a / 256 + ·)

/-- A read by a unit of the module's own of bytes that lie whole at their homes: state after the taps, the bytes, and
whether a burst was delivered poisoned. -/
def readSpan (s : State) (a n : Nat) : State × List Byte × Bool :=
  ((spanBursts a n).foldl touchBurst s, memBytes s a n, (spanBursts a n).any (burstBad s))

/-- Whether a range holds a burst that a read cannot deliver. -/
def spanBad (s : State) (a n : Nat) : Bool := (spanBursts a n).any (burstBad s)

/-- The findings of the reads of a range, where no tap sees them: a home's own merges (R212). -/
def findSpan (s : State) (a n : Nat) : State := (spanBursts a n).foldl (fun s b => homeFinding s b .clean) s

/-! ## Events (R186, R187, R362, R399) -/

/-- A record at the tail of the event ring; false where the ring is full or disabled. -/
def writeEvent (s : State) (rec : List Byte) : State × Bool :=
  let m := s.mailbox
  let n := m.evSize.toNat
  if n = 0 then (s, false)
  else
    let tail := m.evTail.toNat
    let next := (tail + 1) % n
    if next = m.evHead.toNat then (s, false)
    else
      let s' := (writeSpan s (m.evBase.toNat + 16 * tail) (fitBytes 16 rec)).1
      let s' := { s' with mailbox := { m with evTail := BitVec.ofNat 64 next } }
      (if tail = m.evHead.toNat && m.linkUp then emit s' .eventPending else s', true)

/-- The record of a Ringmaster's event (R186). -/
def eventRecord (code : Nat) (d : Die) (ctx : Nat) (j : Nat) (t : Nat) (epoch : BitVec 16) (seq : BitVec 16) (detail : Nat) :
    List Byte :=
  leBytes 1 code ++ leBytes 1 (d.val * 64 + ctx) ++ leBytes 2 (j * 4096 + t) ++ wordBytes 2 epoch ++ wordBytes 2 seq
    ++ leBytes 8 detail

/-- A Ringmaster raises an event: EVSEQ advances, and a full ring drops the record (R187). -/
def raiseEvent (s : State) (code : Nat) (d : Die) (ctx : Nat) (j : Nat) (t : Nat) (epoch : BitVec 16) (detail : Nat) : State :=
  let seq := (s.dies[d]).evSeq + 1
  let s := modDie s d fun r => { r with evSeq := seq }
  let r := writeEvent s (eventRecord code d ctx j t epoch seq detail)
  if r.2 then r.1 else modDie r.1 d fun r => { r with eventsDropped := countUp r.eventsDropped }

/-! ## Suspect steps (R302, R305) -/

/-- A cause marks the current step of slot j suspect; the first one that names an array die's unit gives the pair. -/
def markSuspect (s : State) (j : Slot) (pair : Option (Fin 2)) : State :=
  modSlot s j fun r => { r with suspect := true, suspectPair := if r.suspectPair.isSome then r.suspectPair else pair }

/-! ## Fresh free values -/

/-- A free value of w bits that nothing constrains, a new one at each read (log entry 12). -/
def freshFree (w : Nat) (s : State) : State × BitVec w :=
  ({ s with freeReads := s.freeReads + 1 }, (Config.freshWord s.freeReads).setWidth w)

/-- Bytes that nothing states: a poisoned operand row's or a poisoned burst's (log entry 12). -/
def freeBytes : Nat → State → State × List Byte
  | 0, s => (s, [])
  | n + 1, s =>
    let r := freshFree 8 s
    let t := freeBytes n r.1
    (t.1, r.2 :: t.2)

/-- A burst as a reader gets it: one that is poisoned has bytes that nothing states. -/
def takenBurst (s : State) (data : List Byte) (bad : Bool) : State × List Byte := if bad then freeBytes data.length s else (s, data)

end Sys2Proof.Machine
end

