-- ==== Sys2Proof/Machine/View.lean ====
section
/-! DEFINITION. What is computed from the state and not held: limits and paces, the module state, pins, the alert cause,
the live buffer, and the state fields whose change raises GENERATION (R334, R349, R350, R388, R418, R424). -/

namespace Sys2Proof.Machine

/-! ## Power modes and limits -/

/-- Code of a power mode (R345, R381). -/
def PowerMode.code : PowerMode → Nat
  | .frugal => 0 | .sustain => 1 | .peak => 2

/-- Ceiling of a mode (R345). -/
def modeCeiling : PowerMode → Nat
  | .frugal => 1100 | .sustain => 1600 | .peak => 2000

/-- Rail setpoint of a mode in millivolts (R345). -/
def modeMillivolts : PowerMode → Nat
  | .frugal => 620 | .sustain => 750 | .peak => 860

/-- A slot has a job while one of its rings is enabled on some die (R345). -/
def hasJob (s : State) (j : Slot) : Bool :=
  (List.finRange 4).any fun d =>
    let r := ringsOf s d j
    r.h.size != 0 || r.x.size != 0 || r.c.size != 0

/-- The profile that a change puts in force: Peak as Sustain where the power manager has granted it so (R360, R384). -/
def SlotR.coming (r : SlotR) : Profile := if r.granted then { r.prepared with power := .sustain } else r.prepared

/-- The power mode that the power manager has taken for a slot: the prepared one once it has switched itself (R346, R384). -/
def slotMode (r : SlotR) : PowerMode :=
  if r.phase = .committing && !r.unswitched.contains .power then r.coming.power else r.inForce.power

/-- The rail mode that the slots ask for: the highest mode in force at the power manager (R345, R346). -/
def askedMode (s : State) : PowerMode :=
  let ms := (List.finRange 16).filterMap fun j => if hasJob s j then some (slotMode s.slots[j]) else none
  if ms.isEmpty then .sustain
  else if PowerMode.peak ∈ ms then .peak
  else if PowerMode.sustain ∈ ms then .sustain
  else .frugal

/-- Rounds a pace down to a step of 20 (R344). -/
def paceStep (x : Nat) : Nat := x / 20 * 20

/-- M of R348: the smallest M_e of the engines that are not retired. -/
def moduleMax (s : State) : Nat :=
  s.engines.toList.foldl (fun a e => if e.state = .retired then a else min a e.maxPace.toNat) 2000

/-- Slots of 8 that a throttle level uses (R220). -/
def levelSlots (l : Nat) : Nat :=
  match l with
  | 0 => 8 | 1 => 7 | 2 => 6 | 3 => 5 | 4 => 4 | 5 => 1 | _ => 0

/-- The highest throttle level of the stacks that have not tripped; a tripped one sets no limit (R349). -/
def topLevel (s : State) : Nat :=
  (List.finRange 8).foldl (fun a (h : Fin 8) =>
    let l := homeLevel s ⟨h.val, by omega⟩
    if l = 6 then a else max a l) 0

/-- THROTTLE of R349. -/
def throttleLimit (s : State) : Nat := paceStep (modeCeiling s.pm.mode * levelSlots (topLevel s) / 8)

/-- DISTRUST of R349, in force only while the estimator is distrusted (R358). -/
def distrustLimit (s : State) : Nat :=
  if s.pm.distrusted then max 100 (min s.pm.distrustValue (modeCeiling s.pm.mode) - 20) else 2000

/-- The limits of R349 in the order of the bits of 2000h:04. -/
def limits (s : State) : List Nat :=
  [moduleMax s, s.pm.capLimit, s.pm.guardLimit, throttleLimit s, distrustLimit s, s.pm.heatLimit]

/-- L of R349. -/
def localLimit (s : State) : Nat := (limits s).foldl min 2000

/-- 2000h:04: a bit is set while its limit equals L. DISTRUST counts only while it is in force. -/
def limitReasons (s : State) : Nat :=
  let l := localLimit s
  bnat (moduleMax s == l) + 2 * bnat (s.pm.capLimit == l) + 4 * bnat (s.pm.guardLimit == l) + 8 * bnat (throttleLimit s == l)
    + 16 * bnat (s.pm.distrusted && distrustLimit s == l) + 32 * bnat (s.pm.heatLimit == l)

/-- Running pace of a slot (R350). -/
def runningPace (s : State) (j : Slot) : Nat :=
  min (s.slots[j]).jobPace.toNat (min (s.slots[j]).ceiling.toNat (localLimit s))

/-- Offer of a slot (R350). -/
def paceOffer (s : State) (j : Slot) : Nat := min (s.slots[j]).ceiling.toNat (localLimit s)

/-! ## Module state, alert and pins -/

/-- A stack is tripped; an engine is retired, or a port is in HALF or was taken DOWN (R334; log entry 31). -/
def tripNow (s : State) : Bool := (List.finRange 8).any fun h : Fin 8 => homeTripped s ⟨h.val, by omega⟩
def degradedNow (s : State) : Bool :=
  s.engines.toList.any (fun e => decide (e.state = .retired)) || s.ports.toList.any fun p => p.downed || p.state == 4

/-- FAILED, DEGRADED or HEALTHY as 02h, 01h, 00h; what only a replacement ends stands through a reset (R334, R404). -/
def moduleState (s : State) : Nat :=
  if s.failedCause || s.power == .bootFault false || s.tripped || tripNow s then 2
  else if s.degraded || degradedNow s then 1
  else 0

/-- Thermal cause of ALERT_N (R362, R423). -/
def thermalCause (s : State) : Bool := topLevel s == 5 || decide (s.pm.heatLimit < 2000)

/-- 6030h:01 (R424). -/
def alertCause (s : State) : Nat :=
  let f := moduleState s != 0
  let t := thermalCause s
  let w := s.owners.software
  (if f then 3 else if t then 2 else if w then 1 else 0) * 16 + 4 * bnat f + 2 * bnat t + bnat w

/-- Whether the module is powered and out of reset, so that it drives its outputs (R419). -/
def outOfReset (s : State) : Bool :=
  match s.power with
  | .running => true
  | .bootFault _ => true
  | _ => false

/-- A pin the module pulls low; high impedance otherwise, and always while the module is unpowered or in reset (R412, R418, R419). -/
def pullsFaultN (s : State) : Bool :=
  outOfReset s && (moduleState s == 2 || match s.power with | .bootFault _ => true | _ => false)
def pullsAlertN (s : State) : Bool := outOfReset s && alertCause s != 0
def pullsReady (s : State) : Bool := outOfReset s && !(s.power == .running && moduleState s != 2)

/-! ## Profiles and slots -/

def Integrity.code : Integrity → Nat
  | .lean => 0 | .standard => 1 | .strict => 2

/-- The fields of a profile in bits [6:0] of the PREPARE layout (R381). -/
def Profile.bits (p : Profile) : Nat :=
  p.power.code + 8 * p.integrity.code + 32 * bnat p.arrival + 64 * bnat p.mirrorFixed

def Phase.code : Phase → Nat
  | .idle => 0 | .prepared => 1 | .committing => 2

/-- 1F13h:j+1 (R391). -/
def profileWord (r : SlotR) : Nat :=
  r.lastStatus.code.toNat * 2 ^ 24 + r.inForceId.toNat * 2 ^ 16 + r.phase.code * 2 ^ 14 + r.inForce.bits

def SlotState.code : SlotState → Nat
  | .running => 0 | .restoring => 1 | .restoreFailed => 2

def EngState.code : EngState → Nat
  | .active => 0 | .observed => 1 | .retired => 2

def BankState.code : BankState → Nat
  | .empty => 0 | .loading => 1 | .loaded => 2 | .active => 3 | .draining => 4

/-- Address of copy t mod 2 of the slot's step record in die 0's record region (R319). -/
def stepRecordAddr (r : SlotR) (t : Nat) : Nat := r.recordBase.toNat + 32 + 64 * (t % 2)

/-- Bit LIVE of the step record at an address (R249). -/
def liveBit (s : State) (addr : Nat) : Bool := memNat s (addr + 7) 1 % 2 = 1

/-- Live buffer of a slot: 0 A, 1 B (R431). -/
def liveBuffer (s : State) (j : Slot) : Bool :=
  let r := s.slots[j]
  liveBit s (stepRecordAddr r r.dataStep.toNat)

/-- Whether a variant context is resident (R252). -/
def variantEntry (s : State) (v : Nat) : BitVec 256 := sparseGet 0 s.variants v

/-- Resident contexts of a slot, ascending. -/
def residentOf (s : State) (j : Slot) : List Nat :=
  (List.range 512).filter fun v => let e := variantEntry s v; bitOf e 7 && bitsOf e 3 0 == j.val

/-! ## Net hosts (R325, R342) -/

def headerMagic : Nat := 0x54454E53

/-- Fields of an entry of the net-host table. -/
def netValid (e : BitVec 256) : Bool := bitOf e 15
def netModule (e : BitVec 256) : Nat := bitsOf e 12 0
def netBase (e : BitVec 256) : Nat := bitsOf e 127 64
def netHalf (e : BitVec 256) : Nat := bitsOf e 191 128

/-- DATA_STEP of a half as its header reads now; FFFF_FFFFh for an invalid half. -/
def halfStep (s : State) (e : BitVec 256) (h : Nat) : BitVec 32 :=
  let a := netBase e + h * netHalf e
  let b := memBytes s a 256
  if netValid e && !spanBad s a 256 && fieldNat b 0 4 == headerMagic && fieldNat b 252 4 == (crc32c (b.take 252)).toNat then
    BitVec.ofNat 32 (fieldNat b 12 4)
  else 0xFFFFFFFF

/-! ## GENERATION (R388) -/

/-- The state fields of R388 as numbers. LAST_STATUS is none of them. -/
def stateView (s : State) : List Nat :=
  ((List.finRange 16).map fun j =>
    let r := s.slots[j]
    [profileWord r % 2 ^ 24, r.jobPace.toNat, r.paceEpoch.toNat, r.slotState.code, bnat (liveBuffer s j), r.finalStep.toNat,
     r.lastMirrored.toNat]).flatten
  ++ [s.pm.mode.code, limitReasons s] ++ (s.homes.toList.map fun h => h.level.val) ++ ((s.variants.filter fun p => p.2.getLsbD 7).map (·.1))
  ++ [512] ++ (s.engines.toList.map fun e => e.state.code) ++ (s.ports.toList.map fun p => p.state.val)
  ++ [s.nv.failures.length, (s.nv.failures.filter (·.outstanding)).length, s.nv.nextFseq.toNat]
  ++ (s.dies.toList.map fun d => bnat d.activeB * 65536 + d.libEpoch.toNat) ++ (s.netHosts.flatMap fun p => [(halfStep s p.2 0).toNat, (halfStep s p.2 1).toNat])

/-! ## The rail follows the profiles (R345, R346) -/

/-- A slot's ceiling: a fall is at once, a rise once the rail stands at the mode's setpoint. -/
def settledCeiling (rail : Nat) (r : SlotR) : BitVec 16 :=
  let c := modeCeiling (slotMode r)
  if c < r.ceiling.toNat || modeMillivolts (slotMode r) ≤ rail then BitVec.ofNat 16 c else r.ceiling

/-- The rail mode, its setpoint, for which the regulators head, and the slots' ceilings (R345, R346). -/
def settleRail (s : State) : State :=
  let m := askedMode s
  { s with
    pm := { s.pm with railTarget := modeMillivolts m, mode := m }
    slots := s.slots.map fun r => { r with ceiling := settledCeiling s.pm.rail r } }

/-- The end of every command: GENERATION rises by 1 where a state field has changed, and a change of the module state makes
an ALARM due (R374, R388). `s` is the state before. -/
def settle (s t : State) : State :=
  let t := if t.power == .running then settleRail t else t
  { t with
    tripped := t.tripped || tripNow t, degraded := t.degraded || degradedNow t
    generation := if stateView s = stateView t then s.generation else s.generation + 1
    field := { t.field with alarmDue := t.field.alarmDue || moduleState s != moduleState t } }

end Sys2Proof.Machine
end

