-- ==== Sys2Proof/Machine/Context.lean ====
section
/-! DEFINITION. A Ringmaster's contexts as other families meet them: their reach, traps, and the end of a routine (R167, R176,
R184); the buffer table with its holds (R318, R319, R329); and the copies that fall due (R322, R326). -/

namespace Sys2Proof.Machine

/-! ## Buffer table and holds -/

/-- A region of committed state (R318). -/
structure Region where
  pos : Nat
  baseA : Nat
  baseB : Nat
  bytes : Nat
  variant : Option Nat
  deriving DecidableEq, Repr

/-- Entry `i` of a buffer table; none where BYTES is 0, an unused entry. -/
def regionOf (s : State) (j : Slot) (i : Nat) : Option Region :=
  let e := sparseGet 0 s.buffers (j.val * 512 + i)
  let n := bitsOf e 159 128
  if n = 0 then none
  else some { pos := i, baseA := bitsOf e 63 0, baseB := bitsOf e 127 64, bytes := n,
              variant := if bitOf e 175 then some (bitsOf e 168 160) else none }

/-- The regions of a slot in table order. -/
def regionsOf (s : State) (j : Slot) : List Region := (List.range 512).filterMap (regionOf s j)

/-- Address of copy t mod 2 of a region's owner's step record (R319). -/
def ownerRecord (s : State) (j : Slot) (r : Region) (t : Nat) : Nat :=
  let b := (s.slots[j]).recordBase.toNat
  match r.variant with
  | none => b + 32 + 64 * (t % 2)
  | some v => b + 4096 + 128 * v + 64 * (t % 2)

/-- The buffer of a region that holds the state of data step t (R319). -/
def regionBuffer (s : State) (j : Slot) (r : Region) (t : Nat) : Nat :=
  if liveBit s (ownerRecord s j r t) then r.baseB else r.baseA

/-- Whether a burst lies in a buffer of the due step that a copy still holds (R329). -/
def heldBurst (s : State) (b : Nat) : Bool :=
  (List.finRange 16).any fun j =>
    let r := s.slots[j]
    r.mirrorDue.isSome && r.dueBuffers.any fun p =>
      !(r.copy.any fun c => c.done.contains p.1)
        && (regionOf s j p.1).any fun g => decide (p.2 ≤ 256 * b) && decide (256 * b < p.2 + g.bytes)

/-! ## Copies due (R322, R326, R327) -/

def kMin (r : SlotR) : Nat := bitsOf r.intervalLimits 7 0
def kMax (r : SlotR) : Nat := bitsOf r.intervalLimits 15 8

/-- Whether the copy of data step t is due, under the interval exponent agreed in the step before (R326). -/
def copyDue (r : SlotR) (t : Nat) (exponent : Option (BitVec 8)) : Bool :=
  r.copyForced ||
  (if r.inForce.mirrorFixed then t % r.fixedInterval.toNat == 0
   else t % 2 ^ ((exponent.map (·.toNat)).getD (kMax r)) == 0)

/-- Decides the copy of data step t, and notes the buffers that hold it. One that is still under way is not overtaken: the copy
then falls due at the next decision (DESIGN CHOICE, log entry 102). -/
def decideCopy (s : State) (j : Slot) (t : Nat) (exponent : Option (BitVec 8)) : State :=
  modSlot s j fun r =>
    if !copyDue r t exponent then r
    else if r.copy.isSome then { r with copyForced := true }
    else { r with mirrorDue := some (BitVec.ofNat 32 t), copyForced := false,
                  dueBuffers := (regionsOf s j).map fun g => (g.pos, regionBuffer s j g t) }

/-- The data step t of slot j is final (R322). -/
def makeFinal (s : State) (j : Slot) (t : BitVec 32) : State := modSlot s j fun r => { r with finalStep := t }

/-! ## Contexts -/

/-- Contexts of die d that hold a CALL, by number. -/
def ctxsOf (s : State) (d : Die) : List (CtxId × Ctx) :=
  (List.finRange 8).filterMap fun c => (ctxOf s d c).map fun x => (c, x)

/-- Whether the context's die is swapped, or it serves a replay, so that it reaches the stacks of both dies of the pair
(R167). -/
def ctxReaches (s : State) (d : Die) (c : CtxId) (a n : Nat) : Bool :=
  inDieStacks d a n ||
  ((s.integrity.swap[diePair d] || ((ctxOf s d c).any fun x => (getTk s x.ticket).any (·.isReplay))) && inDieStacks (dieXor d) a n)

/-- A context goes on: it is neither suspended on a flag nor holding a publication (R172, R173). -/
def ctxActs (x : Ctx) : Bool := x.wait.isNone && !x.held

/-- A DRAINING bank with no routine in it becomes LOADED, the library epoch rises and LIB_SWITCHED is raised (R184). -/
def settleBanks (s : State) (d : Die) : State :=
  let r := s.dies[d]
  let old := !r.activeB
  let draining := if old then r.bankB.state = .draining else r.bankA.state = .draining
  if draining && !((ctxsOf s d).any fun p => p.2.bankB == old) then
    let ep := r.libEpoch + 1
    let s := modDie s d fun r =>
      let r := { r with libEpoch := ep }
      if old then { r with bankB := { r.bankB with state := .loaded } } else { r with bankA := { r.bankA with state := .loaded } }
    raiseEvent s 0x06 d 0 0 0 0 (ep.toNat + 65536 * bnat r.activeB)
  else s

/-- A context ends; its CALL ends with the causes and DETAIL given (R171, R176, R177). -/
def endContext (s : State) (d : Die) (c : CtxId) (causes : List Status) (detail : Nat) : State :=
  match ctxOf s d c with
  | none => s
  | some x => settleBanks (modTk (putCtx s d c none) x.ticket (endTk causes detail)) d

/-- The library epoch in which a context runs: one that entered the new bank while the old one still drains runs in the epoch to
come (R171, R184). -/
def ctxEpoch (s : State) (d : Die) (x : Ctx) : BitVec 16 :=
  let r := s.dies[d]
  let other := if x.bankB then r.bankA else r.bankB
  if x.bankB == r.activeB && other.state == .draining then r.libEpoch + 1 else r.libEpoch

/-- A trap: the context ends, its CALL completes with INVALID, event FAULT (R176, R186). -/
def trapContext (s : State) (d : Die) (c : CtxId) (cause : Nat) (addr : Nat) : State :=
  match ctxOf s d c with
  | none => s
  | some x =>
    let s := raiseEvent s 0x01 d c.val x.slot.val x.ticket.val x.epoch (cause * 2 ^ 56 + addr % 2 ^ 56)
    endContext (emit s (.contextTrap d c (BitVec.ofNat 8 cause))) d c [.invalid] 0

/-- Slots of a ring from one index up to another. -/
def slotsUpTo (r : Ring) (a b : Nat) : Nat := if r.size = 0 then 0 else (b + r.size.toNat - a) % r.size.toNat

/-- RX_SPACE: free slots of the context's ring X (R173). -/
def rxSpace (s : State) (k : Tk) : Nat :=
  let r := (ringsOf s k.ringDie (dSlot k.desc)).x
  if r.size = 0 then 0 else r.size.toNat - 1 - slotsUpTo r r.head.toNat r.tail.toNat

/-- A store of a context to a slot of its ring X that is not free: it traps (R173). -/
def rxTaken (s : State) (k : Tk) (a : Nat) : Bool :=
  let r := (ringsOf s k.ringDie (dSlot k.desc)).x
  let b := r.base.toNat
  decide (b ≤ a ∧ a < b + 128 * r.size.toNat) && decide (rxSpace s k ≤ slotsUpTo r r.tail.toNat ((a - b) / 128))

/-- Private data memory (R167, R168). -/
def privBase : Nat := 0x400001000000
def privSize : Nat := 0x40000
def inPriv (a n : Nat) : Bool := decide (privBase ≤ a ∧ a + n ≤ privBase + privSize)
/-- Where a reservation on private memory is kept: past every burst of the tiers. -/
def privBurst (d : Die) (a : Nat) : Nat := 2 ^ 60 + d.val * 1024 + (a - privBase) / 256
def privBytes (s : State) (d : Die) (a n : Nat) : List Byte :=
  (List.range n).map fun i => sparseGet 0 (s.dies[d]).priv (a - privBase + i)
/-- Wrong bits that stand in the 8-byte word of private memory at an address (R168). -/
def privBits (s : State) (d : Die) (a : Nat) : Nat :=
  s.upsets.foldl (fun n u =>
    match u with
    | .privWord e w double => if e = d ∧ w.val = (a - privBase) / 8 then n + (if double then 2 else 1) else n
    | _ => n) 0

/-- A read of private memory meets a double-bit error; a single wrong bit is corrected (R168). -/
def privBroken (s : State) (d : Die) (a : Nat) : Bool := decide (1 < privBits s d a)

/-- A store to private memory: the words that it writes have fresh code bits. -/
def privPut (s : State) (d : Die) (a : Nat) (l : List Byte) : State :=
  let s := { s with upsets := s.upsets.filter fun
    | .privWord e w _ => !(e == d && decide ((a - privBase) / 8 ≤ w.val ∧ w.val < (a - privBase + l.length + 7) / 8))
    | _ => true }
  modDie s d fun r => { r with priv := putCells r.priv (a - privBase) l }

end Sys2Proof.Machine
end

