-- ==== Sys2Proof/Machine/Replay.lean ====
section
/-! DEFINITION. What a replayed descriptor meets: the replay's copy of the flags, waits on producers outside the replay, the signature it
folds (R307); and the CALLs that a replay holds back (R308). -/

namespace Sys2Proof.Machine

/-- The replay that a descriptor belongs to. -/
def replayOf (s : State) (k : Tk) : Option ReplayRun := if k.isReplay then (s.slots[dSlot k.desc]).replaying else none

def modReplay (s : State) (j : Slot) (f : ReplayRun → ReplayRun) : State := modSlot s j fun r => { r with replaying := r.replaying.map f }

/-- Runs f over the flags that a descriptor sees and sets: the replay's copy for a replayed one. -/
def withFlags (s : State) (k : Tk) (f : State → State) : State :=
  match replayOf s k with
  | none => f s
  | some r =>
    let t := f { s with flags := r.flags }
    modReplay { t with flags := s.flags } (dSlot k.desc) fun x => { x with flags := t.flags }

/-- A flag's entry as a descriptor sees it. -/
def seenFlag (s : State) (k : Tk) (f : BitVec 12) : BitVec 32 :=
  match replayOf s k with
  | none => flagEntry s k.ringDie f
  | some r => sparseGet 0 r.flags (flagKey k.ringDie f)

/-- Whether a descriptor of die d sets or writes a flag of that die. -/
def setsFlag (s : State) (d : Die) (x : Desc) (f : BitVec 12) : Bool :=
  (dFamily x == some .flag && dFunc x == 1 && flFlag x == f) ||
  (List.range 2).any fun i => (dSet x i).any fun w =>
    w.flag == f && (!w.remote || (w.module_ == s.fabric.moduleId.setWidth 13
      && (w.die == d || (i == 0 && dFamily x == some .collective && isNormColl x))))

/-- A wait of a descriptor or of a CALL's routine holds now; one on a flag whose producer lies outside the replay counts as satisfied
(R151, R307). -/
def flagHolds (s : State) (k : Tk) (f : BitVec 12) (target : BitVec 16) : Bool :=
  match replayOf s k with
  | none => flagReached (feValue (flagEntry s k.ringDie f)) target
  | some r => !(r.descs.any fun p => tkDie p.1.1 == k.ringDie && setsFlag s k.ringDie p.2 f) || flagReached (feValue (seenFlag s k f)) target

/-- A signature joins that of the CALL in the replay. -/
def foldReplay (s : State) (j : Slot) (c : CallId) (v : BitVec 64) : State :=
  modReplay s j fun r => { r with calls := r.calls.map fun p => if p.1 = c then (p.1, p.2 ^^^ v) else p }

/-- A replay runs on a die, which holds back the die's own next CALL (R308). -/
def replayOn (s : State) (d : Die) : Bool :=
  (List.finRange 16).any fun j => (s.slots[j]).replaying.any fun r => r.calls.any fun p => dieXor (tkDie p.1.1) == d

/-- The CALLs of a list and those joined to them by engine chains (R307). -/
def joinedCalls (chains : List (CallId × CallId)) : Nat → List CallId → List CallId
  | 0, l => l
  | n + 1, l =>
    joinedCalls chains n (chains.foldl (fun l p =>
      if l.contains p.1 then addOnce l p.2 else if l.contains p.2 then addOnce l p.1 else l) l)

/-! ## Causes and their steps (R302, R306, R307) -/

/-- A cause of the current step of a slot in a CALL, or in what no replay can run (R307; log entry 84). -/
def markCause (s : State) (j : Slot) (pair : Option (Fin 2)) (call : Option CallId) : State :=
  modSlot (markSuspect s j pair) j fun r =>
    match call with
    | some c => { r with replayCalls := addOnce r.replayCalls c }
    | none => { r with noReplay := true }

/-- A cause that arises in the step before the current one (R302): under Strict it is resolved at the same gate. -/
def markPrev (s : State) (j : Slot) (pair : Option (Fin 2)) (call : Option CallId) : State :=
  modSlot s j fun r =>
    { r with
      suspectPrev := true, pairPrev := if r.pairPrev.isSome then r.pairPrev else pair
      replayPrev := match call with
        | some c => (joinedCalls r.chainsPrev r.chainsPrev.length [c]).foldl addOnce r.replayPrev
        | none => r.replayPrev
      resolutionFailed := r.resolutionFailed || call.isNone }

/-- The CALL whose replay covers a descriptor: none covers what the collective engine runs. -/
def replayable (k : Tk) : Option CallId := if dFamily k.desc = some .collective then none else k.parent

/-- A cause of a data step marks that step, while it is the slot's current one or the one before. -/
def markStep (s : State) (j : Slot) (step : BitVec 32) (pair : Option (Fin 2)) (call : Option CallId) : State :=
  let t := (s.slots[j]).dataStep
  if step = t then markCause s j pair call else if step + 1 = t then markPrev s j pair call else s

/-- A cause in a descriptor marks the step of the descriptor; a replay's are met by its signature. -/
def markTk (s : State) (k : Tk) (pair : Option (Fin 2)) : State :=
  if k.isReplay then s else markStep s (dSlot k.desc) k.dataStep pair (replayable k)

end Sys2Proof.Machine
end

