-- ==== Sys2Proof/Machine/Link.lean ====
section
/-! DEFINITION. Flits on their way out, and the module's outstanding requests (R259, R262 to R268). -/

namespace Sys2Proof.Machine

/-- A port that carries traffic: UP, UP_SPARE or HALF (R266). -/
def portUsable (p : PortR) : Bool := 2 ≤ p.state

/-- The ports of a destination's route that carry traffic (R265, R266). -/
def routePorts (s : State) (dest : Nat) : List PortId :=
  let e := sparseGet 0 s.routes dest
  if bitOf e 63 then (List.finRange 32).filter fun p => bitOf e p.val && portUsable s.ports[p] else []

/-- Index of a virtual channel. -/
def vcIx (f : Flit) : Fin 8 := Fin.ofNat 8 f.vc.toNat

/-- The global address that a WRITE names. -/
def writeAddr (f : Flit) : Option Nat := if f.typ = 1 then some (f.dest.toNat * localSize + bitsOf f.arg 42 0) else none

/-- A payload passes a port's tap at a global address (R298). -/
def tapFlit (s : State) (tap : Nat) (f : Flit) (a : Option Nat) : State :=
  match a with
  | some a => if anyArmed s then tapBurst s tap false a f.payload (f.typ == 3 && f.arg.getLsbD 0) else s
  | none => s

/-- The header of a flit with LCRC 0 (R262). -/
def flitHeader (f : Flit) : List Byte :=
  [f.typ, BitVec.ofNat 8 (32 * f.vc.toNat + f.ttl.toNat)] ++ leBytes 2 f.dest.toNat ++ leBytes 2 f.src.toNat ++ [0, 0] ++ wordBytes 8 f.arg

/-- The LCRC over header and payload (R262). -/
def lcrcOf (f : Flit) : BitVec 16 := crc16 (flitHeader f ++ f.payload)

/-- A flit as it leaves on a link. -/
def sealFlit (f : Flit) : Flit := { f with lcrc := lcrcOf f, garbled := false }

/-- A received flit passes the receiver's check: the decoder's verdict and the LCRC (R259). -/
def intact (f : Flit) : Bool := !f.garbled && f.lcrc == lcrcOf f

/-- A flit leaves through a port: it takes a credit, passes the port's tap, and stands in the replay buffer of 512 flits
(R259). A port's turn stands at the channel it served last; channel 6 takes no turn (R264). -/
def transmit (s : State) (p : PortId) (f : Flit) (a : Option Nat) : State :=
  let f := sealFlit f
  let s := tapFlit s (0x40 + p.val) f a
  emit (modPort s p fun r =>
    { r with replayBuf := (r.replayBuf ++ [f]).drop (r.replayBuf.length + 1 - 512), nextSeq := r.nextSeq + 1,
             credits := vmod r.credits (vcIx f) fun c => c - 1, turn := if f.vc = 6 then r.turn else vcIx f }) (.flit p f)

/-- The port with the most credits for the flit's channel, the lowest of equals; none without a credit. Which port the
occupancy picks is the model's choice (log entry 27). -/
def pickPort (s : State) (ps : List PortId) (f : Flit) : Option PortId :=
  ps.foldl (fun (a : Option PortId) p =>
    let c := (s.ports[p]).credits[vcIx f]
    if c = 0 then a
    else match a with
      | none => some p
      | some q => if (s.ports[q]).credits[vcIx f] < c then some p else a) none

/-- A port goes DOWN: its link state is forgotten (R261, R289). -/
def portDown (r : PortR) : PortR :=
  { r with state := 0, peer := 0xFFFF, moving := none, replayBuf := [], nextSeq := 0, rxSeq := 0, credits := Vector.replicate 8 64 }

/-- The link die of a port (R12). -/
def linkDieOf (p : PortId) : Fin 8 := Fin.ofNat 8 (p.val / 4)

/-- A flit of the module's own. -/
def ownFlit (s : State) (typ vc : Nat) (dest : Nat) (arg : Nat) (payload : List Byte) : Flit :=
  { typ := BitVec.ofNat 8 typ, vc := BitVec.ofNat 3 vc, ttl := 31, dest := BitVec.ofNat 13 dest,
    src := s.fabric.moduleId.setWidth 13, arg := BitVec.ofNat 64 arg, payload := payload }

/-- ARG of a request: TAG in [63:51] and the rest. -/
def tagArg (tag rest : Nat) : Nat := tag * 2 ^ 51 + rest

/-- The module's own ID. -/
def ownModule (s : State) : Nat := s.fabric.moduleId.toNat

/-- A flit leaves by its route; one to the module itself is delivered through Midway, whatever the entry for its own ID says (R265, R266).
False where the route is invalid or has no usable port, which counts a drop. A flit that finds no credit waits. -/
def routeFlit (s : State) (f : Flit) (a : Option Nat) : State × Bool :=
  if f.dest.toNat = ownModule s then ({ s with ownFlits := s.ownFlits ++ [sealFlit f] }, true)
  else match routePorts s f.dest.toNat with
    | [] => ({ s with fabric := { s.fabric with dropped := countUp s.fabric.dropped } }, false)
    | ps =>
      match pickPort s ps f with
      | some p => (transmit s p f a, true)
      | none => ({ s with outQueue := s.outQueue ++ [(f, a)] }, true)

/-- The answer to a request that came in a flit: ACK on virtual channel 4, and on 7 for a write of a mirror engine (R264, R268). -/
def ackFlit (s : State) (f : Flit) (x : Status) : Flit :=
  ownFlit s 0x04 (if f.vc = 7 then 7 else 4) f.src.toNat (tagArg (bitsOf f.arg 63 51) x.code.toNat) []

def countDrop (s : State) : State := { s with fabric := { s.fabric with dropped := countUp s.fabric.dropped } }

/-- A flit is dropped: a WRITE, READ or FLAGSET is answered with INVALID to its sender, this module's own included (R266, R289). -/
def dropFlit (s : State) (f : Flit) : State :=
  let s := countDrop s
  if f.typ = 1 || f.typ = 2 || f.typ = 5 then
    (routeFlit { s with fabric := { s.fabric with unroutable := countUp s.fabric.unroutable } } (ackFlit s f .invalid) none).1
  else s

/-- After a change of the routes or the ports, what waits for a credit and has no usable port left is dropped (R266). -/
def dropStranded (s : State) : State :=
  let lost (p : Flit × Option Nat) : Bool := (routePorts s p.1.dest.toNat).isEmpty
  (s.outQueue.filter lost).foldl (fun s p => dropFlit s p.1) { s with outQueue := s.outQueue.filter fun p => !lost p }

/-- A control fault of a link die: it carries no traffic on any of its ports until reset (R294; log entry 82). -/
def linkDieFault (s : State) (n : Fin 8) : State :=
  let s := controlFault s (.linkDie n) (unitByte 0 0) 0 0
  dropStranded ((List.finRange 32).foldl (fun s p => if linkDieOf p = n then modPort s p fun r => { portDown r with downed := true } else s) s)

/-- Link dies read an entry of their routing copies; one that finds it wrong is faulted (R294, R296). -/
def readRoute (s : State) (dies : List (Fin 8)) (dest : Nat) : State :=
  if s.upsets.isEmpty then s
  else dies.foldl (fun s n => if controlWrong s (.linkDie n) [(.routing n, dest)] then linkDieFault s n else s) s

/-- A flit of the module's own is sent: the link dies of its route read their entries first, and one whose entry is wrong is faulted
(R294, R296). -/
def sendFlitAt (s : State) (f : Flit) (a : Option Nat) : State × Bool :=
  if f.dest.toNat = ownModule s then routeFlit s f a
  else routeFlit (readRoute s (((routePorts s f.dest.toNat).map linkDieOf).eraseDups) f.dest.toNat) f a

def sendFlit (s : State) (f : Flit) : State × Bool := sendFlitAt s f (writeAddr f)

def ackTo (s : State) (f : Flit) (x : Status) : State := (sendFlit s (ackFlit s f x)).1

/-- The place of the waiting flit that a port serves next: channel 6 first, then the other channels that have both a flit and a
credit in round robin, the oldest flit of a channel first (R264). -/
def serveAt (s : State) (p : PortId) : Option Nat :=
  let mine := ((List.range s.outQueue.length).zip s.outQueue).filter fun q =>
    pickPort s (routePorts s q.2.1.dest.toNat) q.2.1 = some p
  let first (v : Nat) : Option Nat := (mine.find? fun q => q.2.1.vc.toNat = v).map (·.1)
  match first 6 with
  | some i => some i
  | none => (List.range 8).findSome? fun i => first (((s.ports[p]).turn.val + 1 + i) % 8)

/-- Sends what the ports' credits let go, one flit after another. -/
def drainOut : Nat → State → State
  | 0, s => s
  | n + 1, s =>
    match (List.finRange 32).findSome? fun p => (serveAt s p).map fun i => (p, i) with
    | none => s
    | some (p, i) =>
      match s.outQueue[i]? with
      | none => s
      | some (f, a) => drainOut n (transmit { s with outQueue := s.outQueue.eraseIdx i } p f a)

/-- The lowest TAG without a request (R268). -/
def freeTag (s : State) : Option Nat := (List.range 8192).find? fun t => (sparseGet none s.fabReqs t).isNone

def putReq (s : State) (tag : Nat) (r : Option FabReq) : State := { s with fabReqs := sparseSet none s.fabReqs tag r }

/-- A flit with its TAG. -/
def withTag (f : Flit) (tag : Nat) : Flit := { f with arg := f.arg + BitVec.ofNat 64 (tagArg tag 0) }

/-- Sends a request, whose flit comes without its TAG. It waits while no TAG is free (R268); false where the module's own
router drops it, which answers INVALID (R266). A BURST_ADD is dropped in silence, and its count runs on (R269, R279). -/
def sendRequest (s : State) (r : FabReq) (f : Flit) : State × Bool :=
  match freeTag s with
  | none => ({ s with waitReqs := s.waitReqs ++ [(r, f)] }, true)
  | some tag =>
    match sendFlit s (withTag f tag) with
    | (s', true) => (putReq s' tag (some r), true)
    | (s', false) =>
      if f.typ = 6 then (putReq s' tag (some r), true) else ({ s' with fabric := { s'.fabric with unroutable := countUp s'.fabric.unroutable } }, false)

/-- The outstanding requests, those that wait for a TAG included. -/
def reqsOf (s : State) : List FabReq := s.fabReqs.filterMap (·.2) ++ s.waitReqs.map (·.1)

/-- Fetch number of the descriptor a request belongs to. -/
def FabReq.inst : FabReq → Option Nat
  | .put i _ => some i
  | .get i _ _ _ _ => some i
  | .stream i _ _ _ _ => some i
  | .flagSet i _ => some i
  | .burstAdd _ i => some i
  | .mirror _ _ i => some i
  | .restoreHeader _ i _ => some i
  | .restore _ i _ _ _ _ => some i

/-- Requests of a descriptor that still wait for a TAG are not sent. -/
def dropWaiting (s : State) (inst : Nat) : State := { s with waitReqs := s.waitReqs.filter fun p => p.1.inst != some inst }

/-- Whether a descriptor has requests outstanding on the fabric, reads and writes at the homes, or its part in a collective still
to play. -/
def instBusy (s : State) (inst : Nat) : Bool :=
  (reqsOf s).any (fun r => r.inst == some inst) || s.chans.toList.any (fun c => c.op.any fun o => o.k.inst == inst && !o.played) ||
  s.homeQueue.any fun
    | .write i _ _ _ => i == inst
    | .masked i _ _ _ _ => i == inst
    | .read i _ _ => i == inst

end Sys2Proof.Machine
end

