-- ==== Sys2Proof/Machine/Queue.lean ====
section
/-! DEFINITION. Queue ends: table entries, strips, entries pushed and freed (R56 to R58, R73, R148 to R150). -/

namespace Sys2Proof.Machine

/-! ## Table entries (R149) -/

/-- Where queue ends are kept: those of the four dies' tables, and from 4 on those that the same tables lay out for what runs on the
other die of the pair (R307, R309). -/
abbrev Shelf := Fin 8

def shelfOf (d : Die) : Shelf := Fin.ofNat 8 d.val
def Tk.shelf (k : Tk) : Shelf := Fin.ofNat 8 (k.ringDie.val + 4 * bnat k.away)

def qKey (d : Shelf) (q : Nat) : Nat := d.val * 4096 + q
def qEntry (s : State) (d : Shelf) (q : Nat) : BitVec 64 := sparseGet 0 s.queueEnds (d.val % 4 * 4096 + q)
def qeEnable (e : BitVec 64) : Bool := bitOf e 63
def qeProd (e : BitVec 64) : Nat := bitsOf e 62 61
def qeCons (e : BitVec 64) : Nat := bitsOf e 60 59
def qeSlot (e : BitVec 64) : Slot := Fin.ofNat 16 (bitsOf e 58 55)
def qeEngine (e : BitVec 64) : Nat := bitsOf e 54 54
def qeFirst (e : BitVec 64) : Nat := bitsOf e 53 40
def qeStrips (e : BitVec 64) : Nat := bitsOf e 39 25

/-- Code of a descriptor ring in PROD_RING and CONS_RING. -/
def ringCode : RingKind → Nat
  | .h => 0 | .x => 1 | .u => 2

/-- The engine that a table entry of die d names. -/
def namedEngine (d : Die) (e : BitVec 64) : Eng := Fin.ofNat 8 (2 * d.val + qeEngine e)

/-- The engine whose storage holds a queue end: under a die swap, and for what runs away, the one that serves it (R305). -/
def qEngine (s : State) (d : Shelf) (e : BitVec 64) : Eng :=
  let x := servedEng s (namedEngine (Fin.ofNat 4 (d.val % 4)) e)
  if d.val < 4 then x else engXor x

/-- Strips of an entry of R rows: 8 rows of 512 bytes fill one (R56, R57). -/
def entryStrips (rows pitch : Nat) : Nat := rows * pitch / 4096

/-! ## Entries -/

def entriesOf (s : State) (d : Shelf) (q : Nat) : List Entry := sparseGet [] s.queues (qKey d q)
def putEntries (s : State) (d : Shelf) (q : Nat) (l : List Entry) : State :=
  { s with queues := sparseSet [] s.queues (qKey d q) l }

/-- The entry at the head: the oldest that is not freed. -/
def headEntry (s : State) (d : Shelf) (q : Nat) : Option Entry := (entriesOf s d q).find? fun e => !e.freed

/-- Entries of a queue end from the claim of their strips to their last consumer (R199). -/
def outstanding (s : State) (d : Shelf) (q : Nat) : Nat := ((entriesOf s d q).filter fun e => !e.freed).length

/-- Entries that the storage of an engine holds (R58). -/
def engineEntries (s : State) (e : Eng) : Nat :=
  s.queues.foldl (fun a p =>
    let d : Shelf := Fin.ofNat 8 (p.1 / 4096)
    if qEngine s d (qEntry s d (p.1 % 4096)) == e then a + (p.2.filter fun x => !x.freed).length else a) 0

/-- Freed entries leave from the oldest on, so strips come free in circular order (R149). -/
def dropFreed : List Entry → List Entry
  | [] => []
  | e :: l => if e.freed then dropFreed l else e :: l

/-- Frees entry `id`. -/
def freeEntry (s : State) (d : Shelf) (q : Nat) (id : Nat) : State :=
  putEntries s d q (dropFreed ((entriesOf s d q).map fun e => if e.id = id then { e with freed := true } else e))

/-- A change of entry `id`. -/
def modEntry (s : State) (d : Shelf) (q : Nat) (id : Nat) (f : Entry → Entry) : State :=
  putEntries s d q ((entriesOf s d q).map fun e => if e.id = id then f e else e)

/-- Where a new entry of n strips would start and how many strips it claims, its skipped tail included; none while too
few are free (R149). An empty queue end has every strip free. -/
def claimPlace (s : State) (d : Shelf) (q : Nat) (n : Nat) : Option (Nat × Nat) :=
  let total := qeStrips (qEntry s d q)
  let l := entriesOf s d q
  let used := l.foldl (fun a e => a + e.strips) 0
  let p := sparseGet 0 s.queuePos (qKey d q)
  let (start, claimed) := if p + n ≤ total then (p, n) else (0, n + (total - p))
  if total < n then none
  else if l.isEmpty then some (start, min claimed total)
  else if used + claimed ≤ total then some (start, claimed)
  else none

/-- Claims the strips of a new entry; none while it must wait for strips or for one of the 4,096 tags. -/
def claimEntry (s : State) (d : Shelf) (q : Nat) (e : Entry) : Option (State × Nat) :=
  let n := entryStrips e.rows e.pitch
  if 4096 ≤ engineEntries s (qEngine s d (qEntry s d q)) then none
  else match claimPlace s d q n with
    | none => none
    | some (start, claimed) =>
      let id := s.nextEntry
      let e := { e with id := id, firstStrip := qeFirst (qEntry s d q) + start, strips := claimed }
      let s := { s with nextEntry := id + 1,
                        queuePos := sparseSet 0 s.queuePos (qKey d q) ((start + n) % qeStrips (qEntry s d q)) }
      some (putEntries s d q (entriesOf s d q ++ [e]), id)

/-- An entry without data, of stored rows of `width` bytes at a pitch (R57). -/
def blankEntry (k : Tk) (rows pitch width fmt : Nat) (packed : Bool) : Entry :=
  { id := 0, producer := k.inst, slot := dSlot k.desc, epoch := dEpoch k.desc, firstStrip := 0, strips := 0, rows := rows,
    pitch := pitch, width := width, fmt := BitVec.ofNat 4 fmt, colPacked := packed, valid := [], poison := [], data := [], owners := [],
    side := [], freed := false }

/-- Bytes laid into an entry from byte `off`. -/
def entryPut (e : Entry) (off : Nat) (l : List Byte) : Entry := { e with data := putCells e.data off l }

/-- n bytes of an entry from byte `off`. -/
def entryBytes (e : Entry) (off n : Nat) : List Byte := (List.range n).map fun i => sparseGet 0 e.data (off + i)

/-- Stored row r of an entry. -/
def entryRow (e : Entry) (r : Nat) : List Byte := entryBytes e (r * e.pitch) e.pitch

/-- Every block row valid (R73). -/
def entryComplete (e : Entry) : Bool := (List.range (e.rows / 8)).all fun b => e.valid.contains b

/-- Whether any stored row of an entry is poisoned (R45, R202). -/
def entryPoisoned (e : Entry) : Bool := !e.poison.isEmpty

/-- An entry written whole: data row by row, every block row valid. -/
def filledEntry (e : Entry) (bytes : List Byte) : Entry :=
  { entryPut e 0 bytes with valid := List.range (e.rows / 8) }

/-! ## Words of queue storage (R43, R56, R57, R60, R61) -/

/-- The word of stored row r in block column j of an entry, numbered by strip, bank and stored row within its micro-tile: block
row i has its micro-tiles in bank (i + j) mod 64 (R57; log entry 66). -/
def entryWord (e : Entry) (r j : Nat) : Nat :=
  let i := r / 8
  ((e.firstStrip + i * (e.pitch / 512) + j / 64) * 64 + (i + j) % 64) * 8 + r % 8

/-- The stored row and the block column that a word of storage holds of an entry; none where it holds another's. -/
def entryPlace (e : Entry) (w : Nat) : Option (Nat × Nat) :=
  let strip := w / 512
  let rel := strip - e.firstStrip
  let per := e.pitch / 512
  if strip < e.firstStrip || entryStrips e.rows e.pitch ≤ rel || per = 0 then none
  else
    let i := rel / per
    some (8 * i + w % 8, 64 * (rel % per) + (w / 8 % 64 + 64 - i % 64) % 64)

/-- The word that an upset of an engine's queue storage names. -/
def upsetWord (e : Eng) (u : Upset) : Option Nat :=
  match u with
  | .queueWord f w _ => if f = e then some w.val else none
  | _ => none

/-- What the code finds in a word: one wrong bit is corrected, two are not (R43). -/
def wordFinding (s : State) (e : Eng) (w : Nat) : Ecc :=
  let bits := s.upsets.foldl (fun n u =>
    match u with
    | .queueWord f x double => if f = e ∧ x.val = w then n + (if double then 2 else 1) else n
    | _ => n) 0
  if bits = 0 then .clean else if bits = 1 then .corrected else .uncorrectable

/-- Wrong bits arise in a word of an engine's queue storage. -/
def upsetQueue (s : State) (e : Eng) (w : Nat) (code : Ecc) : State :=
  match code with
  | .clean => s
  | c => { s with upsets := s.upsets ++ [.queueWord e (Fin.ofNat 8388608 w) (c == .uncorrectable)] }

/-- What a read of part of an entry meets: the words with a single-bit error, and the places, stored row and block column, of the
double-bit ones. -/
structure Met where
  singles : List Nat
  doubles : List (Nat × Nat)
  deriving DecidableEq, Repr

/-- What the code finds in the words of an entry that a read takes (R60). The wrong bits stay until a write-back or a push. -/
def meetWords (s : State) (e : Eng) (en : Entry) (reads : Nat → Nat → Bool) : Met :=
  let hits := ((s.upsets.filterMap (upsetWord e)).eraseDups).filterMap fun w =>
    match entryPlace en w with
    | some (r, j) => if reads r j then some (w, r, j) else none
    | none => none
  { singles := (hits.filter fun h => wordFinding s e h.1 == .corrected).map (·.1),
    doubles := (hits.filter fun h => wordFinding s e h.1 == .uncorrectable).map (·.2) }

/-- A corrected word's write-back is due in its bank's next free slot (R60). -/
def dueWriteback (s : State) (e : Eng) (w : Nat) : State :=
  modEng s e fun r => { r with writebacks := addOnce r.writebacks (Fin.ofNat 8388608 w) }

/-- Words of an engine's queue storage are written with fresh code bits: their wrong bits are gone, and so are the write-backs
that are due there (R61). -/
def renewWords (s : State) (e : Eng) (which : Nat → Bool) : State :=
  modEng { s with upsets := s.upsets.filter fun u => !((upsetWord e u).any which) } e fun r =>
    { r with writebacks := r.writebacks.filter fun w => !which w.val }

/-- A push has written n bytes from byte `lo` of stored rows of entry `id`: the words that it wrote carry fresh code bits (R61). -/
def pushedPart (s : State) (d : Shelf) (q id : Nat) (rows : List Nat) (lo n : Nat) : State :=
  match (entriesOf s d q).find? fun e => e.id == id with
  | some e =>
    renewWords s (qEngine s d (qEntry s d q)) fun w => (entryPlace e w).any fun p =>
      rows.contains p.1 && decide (lo < 8 * p.2 + 8) && decide (8 * p.2 < lo + n)
  | none => s

/-- A push has written stored rows of entry `id` whole. -/
def pushedRows (s : State) (d : Shelf) (q id : Nat) (rows : List Nat) : State := pushedPart s d q id rows 0 (2 ^ 20)

/-- The bytes that stored rows have within their pitch: the padding is never read (R57). -/
def inWidth (e : Entry) (j : Nat) : Bool := decide (8 * j < e.width)

/-! ## Who may push and pop (R149) -/

/-- The queue end is enabled, of the slot, and its ring field names the descriptor's ring. -/
def qeUsable (s : State) (k : Tk) (q : Nat) (push : Bool) : Bool :=
  let e := qEntry s k.shelf q
  qeEnable e && qeSlot e == dSlot k.desc && (if push then qeProd e else qeCons e) == ringCode k.ring

/-- Queue ends a descriptor pops (R148). -/
def pops (d : Desc) : List Nat := (List.range 4).filterMap (dInQ d)

/-- Queue ends a descriptor pushes. -/
def pushes (d : Desc) : List Nat :=
  (List.range 2).filterMap fun i => match dOutW d i with | .queue q => some q | _ => none

/-! ## What a descriptor pushes -/

/-- Pitch of an entry that a DRAIN, VEC or CONVERT pushes: 512 elements to a row. -/
def pushPitch (f : Fmt) : Nat := 512 * f.bytes

/-- Rows of the entries that n stored rows fill. -/
def entryRows : Nat → Nat → List Nat
  | 0, _ => []
  | fuel + 1, n => if n = 0 then [] else min n 4096 :: entryRows fuel (n - min n 4096)

/-- Stored rows of 512 bytes that a GET's bytes fill in a queue end, rounded up to whole block rows (log entry 46). -/
def getRows (d : Desc) : Nat := (pgBytes d + 4095) / 4096 * 8

/-- Elements of a VEC's y: of a ROWMAX one to a row, so its element r has the logical index ORIGIN + r (R156, R434; DEDUCED, log
entry 97). -/
def vecOutCount (d : Desc) : Nat := if dFunc d = 0x20 then vcCount d / max (veRowLen d) 1 else vcCount d

/-- Whether entries of these rows find their strips now. -/
def claimsAll (s : State) (k : Tk) (q pitch : Nat) : List Nat → Bool
  | [] => true
  | n :: l =>
    match claimEntry s k.shelf q (blankEntry k n pitch pitch 0 false) with
    | none => false
    | some (s, _) => claimsAll s k q pitch l

end Sys2Proof.Machine
end

