-- ==== Sys2Proof/Machine/Sets.lean ====
section
/-! DEFINITION. Accumulator sets (R110 to R129), scale entries (R95, R98, R100, R436), and profile in force on a unit (R145,
R384). -/

namespace Sys2Proof.Machine

/-! ## Accumulator sets -/

def accSet (s : State) (e : Eng) (m : Fin 16) : AccSet := (s.accs[e]).sets[m]
def modSet (s : State) (e : Eng) (m : Fin 16) (f : AccSet → AccSet) : State :=
  modAcc s e fun r => { r with sets := vmod r.sets m f }

/-- First bank row and number of rows of a set's range (R112). -/
def AccSet.base (a : AccSet) : Nat := a.base8.toNat * 8
def AccSet.rows (a : AccSet) : Nat := (a.rows8.toNat + 1) * 8

/-- Key of a bank entry. -/
def bankKey (row col : Nat) : Nat := row * 512 + col
def bankGet (s : State) (e : Eng) (row col : Nat) : BitVec 42 := sparseGet 0 (s.accs[e]).bank (bankKey row col)
def bankPoison (s : State) (e : Eng) (row col : Nat) : Bool := sparseGet false (s.accs[e]).poison (bankKey row col)
def bankPut (s : State) (e : Eng) (row col : Nat) (v : BitVec 42) (bad : Bool) : State :=
  modAcc s e fun r => { r with bank := sparseSet 0 r.bank (bankKey row col) v, poison := sparseSet false r.poison (bankKey row col) bad }

/-- The totals of a range are discarded: every entry at +0. -/
def clearBank (s : State) (e : Eng) (base rows : Nat) : State :=
  modAcc s e fun r => { r with bank := sparseClear r.bank (bankKey base 0) (bankKey (base + rows) 0),
                               poison := sparseClear r.poison (bankKey base 0) (bankKey (base + rows) 0) }

/-- A set of a state with no range (R111); its next sequence returns to 0 (R116). An abandon marker on its way stays so (R129). -/
def closeSet (s : State) (e : Eng) (m : Fin 16) (st : SetState) (marker : Bool) : State :=
  let a := accSet s e m
  let s := if a.state = .opened then clearBank s e a.base a.rows else s
  modSet s e m fun a => { state := st, marker := a.marker || marker }

/-- A set becomes EMPTY (R121, R126). -/
def emptySet (s : State) (e : Eng) (m : Fin 16) : State := closeSet s e m .empty false

/-- Whether a descriptor opens the set it names (R112). -/
def opensSet (d : Desc) : Bool := (dAccMode d == .start || dAccMode d == .seed) && dFamily d == some .matmul

/-- An INVALID set that no issued START or SEED is about to reopen: its count is not used (R116). -/
def dormant (a : AccSet) : Bool := a.state == .invalid && a.nextSeq == 0

/-- The end token that ACC_SEQ `seq` waits for has come, or none will (R122). -/
def tokenHere (a : AccSet) (seq : Nat) : Bool :=
  if a.state = .opened then a.ended == seq && a.incoming.isNone else seq == 0 || a.nextSeq == 0

/-- Whether a descriptor promotes into or drains set m of engine e. -/
def namesSet (s : State) (k : Tk) (e : Eng) (m : Fin 16) : Bool :=
  (dFamily k.desc == some .matmul || dFamily k.desc == some .drain) && tkEng s k == e && dAccSet k.desc == m

/-- A DRAIN that has been issued and has not ended. -/
def drainAtWork (k : Tk) : Bool :=
  dFamily k.desc == some .drain && !dForce k.desc && (k.phase == .issued || k.phase == .running)

/-- A set becomes INVALID (R114, R125): what still comes for it is discarded, MATMULs issued and not begun and the MATMUL
that waits for totals complete with INVALID, so does every DRAIN of the set, whether it waits for an end token or has begun to
read, since its set is not OPEN any more (R127), and an abandon marker goes to whoever waits for its totals. -/
def invalidateSet (s : State) (e : Eng) (m : Fin 16) : State :=
  let inc := (accSet s e m).incoming
  let s := closeSet s e m .invalid true
  { s with
    tickets := s.tickets.map fun p => (p.1, p.2.map fun k =>
      if namesSet s k e m && (drainAtWork k || (dFamily k.desc == some .matmul
          && (k.phase == .issued || (k.phase == .running && inc.any fun i => i.inst == k.inst)))) then failTk .invalid k
      else k)
    engines := vmod s.engines e fun r =>
      if r.run.any fun a => (getTk s a.ticket).any fun k => inc.any fun i => i.inst == k.inst then { r with run := none } else r }

/-- The end token of a descriptor that ends without taking its set away: what follows it in the order goes on (R122). -/
def passToken (s : State) (e : Eng) (m : Fin 16) : State :=
  modSet s e m fun a => if a.state = .opened then { a with ended := a.ended + 1 } else a

/-- Whether a range of rows leaves the bank or meets the range of an OPEN set (R111, R114). -/
def rangeClash (s : State) (e : Eng) (m : Fin 16) (base8 rows8 : Nat) : Bool :=
  512 < base8 + rows8 + 1 ||
  (List.finRange 16).any fun n =>
    let a := accSet s e n
    n != m && a.state == .opened && decide (base8 < a.base8.toNat + a.rows8.toNat + 1) && decide (a.base8.toNat < base8 + rows8 + 1)

/-- The guard count and the LONG bit after n more chunk values (R120). -/
def guardAdd (a : AccSet) (n : Nat) : AccSet :=
  if a.guard + n ≤ 65536 then { a with guard := a.guard + n } else { a with guard := 65536, long := true }

/-- The guard count takes in a MATMUL that stops, whichever rows it has written (R120). -/
def guardMatmul (s : State) (e : Eng) (k : Tk) : State :=
  modSet s e (dAccSet k.desc) fun x => if x.state = .opened then guardAdd x (shapeChunks (dShape k.desc)) else x

/-! ## A descriptor that ends with INVALID -/

/-- What the INVALID of a MATMUL does to the set it names: the set becomes INVALID, unless it is OPEN under another slot or a
CONTINUE or ACCEPT finds it INVALID (R114). -/
def refuseSet (s : State) (k : Tk) : State :=
  if dFamily k.desc = some .matmul then
    let e := tkEng s k
    let m := dAccSet k.desc
    let a := accSet s e m
    if a.state = .opened && a.slot != dSlot k.desc then
      (if k.phase == .issued || k.phase == .running then passToken s e m else s)
    else if a.state = .invalid && !opensSet k.desc then s
    else invalidateSet s e m
  else s

/-- DETAIL of a descriptor that stops short: what it has done so far, by its family (R157). -/
def progressOf (s : State) (k : Tk) : Nat :=
  match dFamily k.desc with
  | some .matmul =>
    (match (s.engines[tkEng s k]).run with
     | some a => if a.ticket == k.ticket then a.failed.getD 0 * 2 ^ 32 + a.wavefronts else k.detail.toNat
     | none => k.detail.toNat)
  | some .collective =>
    let o := (s.chans[coChannel k.desc]).op
    (coCseq k.desc).toNat * 2 ^ 32 + (match o with | some o => if o.k.inst == k.inst then o.absent.length else 0 | none => 0)
  | _ =>
    match k.run with
    | .stream r =>
      let whole := (List.range (stRows k.desc)).filter fun i => (sourcesOf k.desc i).all r.landed.contains
      r.bytes + whole.length * stPitchOut k.desc
    | .xfer r => if dFunc k.desc = 1 then 256 * r.landed.length else k.detail.toNat
    | .drain r => r.rowsSent
    | .vec r => if r.computed then ((k.detail.toNat + 2097151) / 2097152 - r.jobs.length) * 2097152 else 0
    | .none => k.detail.toNat

/-- The ticket's DETAIL says how far it has come. -/
def noteProgress (s : State) (k : Tk) : State := modTk s k.ticket fun q => { q with detail := BitVec.ofNat 64 (progressOf s k) }

/-- Ends a descriptor with INVALID. -/
def refuse (s : State) (t : TicketId) : State :=
  match getTk s t with
  | none => s
  | some k => refuseSet (modTk (noteProgress s k) t (failTk .invalid)) k

/-- A collective of the channel is issued or in flight here (R271, R290). -/
def collOnChannel (s : State) (c : ChanId) : Bool :=
  (s.chans[c]).op.isSome || (tksOf s).any fun k => dFamily k.desc == some .collective && !k.isReplay && coChannel k.desc == c
    && (k.phase == .issued || k.phase == .running || k.phase == .ended || k.phase == .setting)

/-! ## Scale entries (R100) -/

/-- What a look at a scale entry finds. -/
inductive ScaleLook where
  | invalid
  | poisoned
  | found (sigma : Int)
  deriving DecidableEq, Repr

/-- A tensor ID after the variant context's base (R146). -/
def tensorId (s : State) (k : Tk) (tid : Nat) : Nat :=
  if dVarEn k.desc then (tid + bitsOf (variantEntry s (dVariant k.desc)) 55 32) % 2 ^ 24 else tid

/-- Whether the variant context that a descriptor names is resident for it (R252). -/
def variantOk (s : State) (k : Tk) : Bool :=
  !dVarEn k.desc || (let e := variantEntry s (dVariant k.desc); bitOf e 7 && bitsOf e 3 0 == (dSlot k.desc).val)

def scaleAddr (k : Tk) (tid : Nat) : Nat := k.scaleBase.toNat + 32 * tid

/-- The entry of a tensor ID as a descriptor consults it; `fmt` is the operand's format, none where the format is not
checked (MAXCAP, R156). -/
def lookScale (s : State) (k : Tk) (tid : Nat) (fmt : Option Fmt) : ScaleLook :=
  let t := tensorId s k tid
  let a := scaleAddr k t
  if k.scaleCount.toNat ≤ t then .invalid
  else if spanBad s a 32 then .poisoned
  else
    let e := memBytes s a 32
    let f := fieldNat e 0 1
    let frozen := fieldNat e 1 1 / 64 % 2 = 1
    if fieldNat e 28 3 != t then .invalid
    else if fmt.any fun x => x.code != f then .invalid
    else if !(f = 0 || f = 1 || (f = 3 && frozen)) then .invalid
    else
      let byte : BitVec 8 := BitVec.ofNat 8 (fieldNat e (if k.isReplay then 31 else if bitOf k.dataStep 0 then 5 else 4) 1)
      .found byte.toInt

/-- The scale exponent of an operand or target: 0 for a format without a scale, whose tensor ID is not looked up. -/
def sigmaFor (s : State) (k : Tk) (tid : Nat) (f : Fmt) : ScaleLook :=
  if f.scaled then lookScale s k tid (some f) else .found 0

/-- The worst of several looks: INVALID, then poison, else the exponents. -/
def allScales : List ScaleLook → Option (List Int) × Bool
  | [] => (some [], false)
  | .invalid :: _ => (none, false)
  | .poisoned :: l => ((allScales l).1.map fun x => 0 :: x, true)
  | .found x :: l => ((allScales l).1.map fun y => x :: y, (allScales l).2)

/-- Folds a capture into the slot of the step's parity: an atomic signed maximum (R95). A replay folds none, and one on a
poisoned burst is dropped (R436). -/
def foldCapture (s : State) (k : Tk) (tid : Nat) (c : Byte) : State :=
  if k.isReplay then s
  else
    let a := scaleAddr k (tensorId s k tid) + (if bitOf k.dataStep 0 then 7 else 6)
    (writeSpan s a [captureMax (memByte s a) c]).1

/-- The tensor key of a descriptor's draws (R92). -/
def drawKeyOf (s : State) (k : Tk) (domain tid : Nat) : BitVec 64 :=
  tensorKey k.seed domain (tensorId s k tid) k.streamStep.toNat

/-! ## Units and the profile in force on them (R145, R382, R384) -/

/-- The unit that runs a descriptor (R147, R157). -/
def tkUnit (s : State) (k : Tk) : ModUnit :=
  let d := tkHost s k
  match dFamily k.desc with
  | some .matmul => .engine (tkEng s k)
  | some .loadstat => .engine (tkEng s k)
  | some .swap => .engine (tkEng s k)
  | some .drain => .engine (tkEng s k)
  | some .vec => .vector (tkEng s k)
  | some .convert => .vector (tkEng s k)
  | some .stream => .stream d (dUnit k.desc)
  | some .collective => .collective
  | some .call => .ringmaster d
  | some .mirror => .mirror
  | _ => .dispatch d

/-- UNIT byte of a record (R157). -/
def tkUnitByte (k : Tk) : BitVec 8 :=
  match dFamily k.desc with
  | some .matmul => unitByte 1 (dUnit k.desc).val
  | some .loadstat => unitByte 1 (dUnit k.desc).val
  | some .swap => unitByte 1 (dUnit k.desc).val
  | some .drain => unitByte 1 (dUnit k.desc).val
  | some .vec => unitByte 2 (dUnit k.desc).val
  | some .convert => unitByte 2 (dUnit k.desc).val
  | some .stream => unitByte 3 (dUnit k.desc).val
  | some .collective => unitByte 4 0
  | some .call => unitByte 5 k.ringDie.val
  | some .mirror => unitByte 6 0
  | some .checkarm => unitByte 7 (chCvu k.desc).val
  | _ => unitByte 0 k.ringDie.val

/-- The profile a unit runs slot j's descriptors under, and its ID. -/
def profileOn (s : State) (j : Slot) (u : ModUnit) : Profile × BitVec 8 :=
  let r := s.slots[j]
  if r.phase = .committing && !r.unswitched.contains u then (r.coming, r.preparedId) else (r.inForce, r.inForceId)

/-- A unit switches to the prepared profile; with the last one the change ends (R384). -/
def switchUnit (s : State) (j : Slot) (u : ModUnit) : State :=
  modSlot s j fun r =>
    if r.phase = .committing && r.unswitched.contains u then
      let rest := r.unswitched.erase u
      if rest.isEmpty then { r with unswitched := [], phase := .idle, inForce := r.coming, inForceId := r.preparedId, granted := false }
      else { r with unswitched := rest }
    else r

/-! ## Beginning a descriptor (R105, R141, R145) -/

/-- Whether an isolated unit completes nothing further (R294). -/
def unitIsolated (s : State) (u : ModUnit) : Bool := s.isolated.contains u

/-- Where an engine keeps an issued descriptor in order: loads wait for a swap behind them (R30), an ACCEPT and a DRAIN hold
back nothing but their own set (R112, R122), all others follow one another. -/
def engLane (d : Desc) : Nat :=
  match dFamily d with
  | some .loadstat => 0
  | some .drain => if dForce d then 18 else 2 + (dAccSet d).val
  | some .matmul => if dAccMode d = .accept then 2 + (dAccSet d).val else 1
  | _ => 1

/-- Units run their issued descriptors in issue order: no earlier one of the same lane waits to begin on an engine, and none
on a vector unit or a stream engine. A vector unit runs one at a time. -/
def unitTurn (s : State) (k : Tk) : Bool :=
  let u := tkUnit s k
  match u with
  | .engine _ => !(tksOf s).any fun q => q.phase == .issued && decide (q.issueNo < k.issueNo) && tkUnit s q == u
      && engLane q.desc == engLane k.desc
  | .stream _ _ => !(tksOf s).any fun q => q.phase == .issued && decide (q.issueNo < k.issueNo) && tkUnit s q == u
  | .vector _ => !(tksOf s).any fun q =>
      (q.phase == .issued || q.phase == .running) && decide (q.issueNo < k.issueNo) && tkUnit s q == u
  | _ => true

/-- Tensor IDs whose scale entries a descriptor consults (R100): those of its scaled operands and targets, and MAXCAP's. -/
def consulted (d : Desc) : List Nat :=
  let one (f : Option Fmt) (tid : Nat) : List Nat := if f.any Fmt.scaled then [tid] else []
  let n := dFunc d
  match dFamily d with
  | some .matmul => if dAccMode d = .accept then [] else one (Fmt.ofCode (dStatFmt d)) (dTidStat d) ++ one (dIn d 0) (dTidStream d)
  | some .drain => if dTarget d = 0 && !dForce d then one (dOut d 0) (drTid d) else []
  | some .vec =>
    ((List.range (vecInputs n)).flatMap fun i => one (dIn d i) (veTidIn d i))
      ++ if n = 0x50 then [veTidOut d 0] else (List.range (vecOutputs n)).flatMap fun i => one (dOut d i) (veTidOut d i)
  | some .convert => one (dIn d 0) (cvTidIn d) ++ one (dOut d 0) (cvTidOut d)
  | some .stream => if narrows d then [stTid d] else []
  | some .collective => if isNormColl d || n = 4 then [] else one (dOut d 0) (coTid d)
  | _ => []

/-- The reads of the scale entries that a descriptor consults pass their homes (R216, R298). -/
def touchScales (s : State) (k : Tk) : State :=
  (consulted k.desc).foldl (fun s tid =>
    let t := tensorId s k tid
    if k.scaleCount.toNat ≤ t then s else touchBurst s (scaleAddr k t / 256)) s

/-- How the beginning of a descriptor ends: it waits, it has ended, or it runs. -/
inductive Begun where
  | wait
  | ended (s : State)
  | ok (s : State) (k : Tk)

/-- The address of the first scale entry that a descriptor consults in a poisoned burst; 0 for none (R436). -/
def poisonedScale (s : State) (k : Tk) : Nat :=
  (((consulted k.desc).map fun tid => scaleAddr k (tensorId s k tid)).find? fun a => spanBad s a 32).getD 0

/-- The descriptor takes what it reads when it begins: seed, steps, scale table, profile (R92, R105, R107). -/
def takeStart (s : State) (k : Tk) : Tk :=
  let r := s.slots[dSlot k.desc]
  let rep := k.isReplay
  { k with phase := .running, began := true, profileId := (profileOn s (dSlot k.desc) (tkUnit s k)).2, seed := r.seed,
           streamStep := if rep then k.streamStep else r.streamStep, dataStep := if rep then k.dataStep else r.dataStep,
           scaleBase := r.scaleBase, scaleCount := r.scaleCount,
           badAt := poisonedScale s { k with scaleBase := r.scaleBase, scaleCount := r.scaleCount } }

/-- Opcode test. -/
def isFn (f : Family) (code : Nat) (d : Desc) : Bool := dFamily d == some f && dFunc d == code

/-- Table entries that a descriptor's unit reads when it begins (R296). -/
def entriesRead (k : Tk) : List (CodedTable × Nat) :=
  ((pops k.desc ++ pushes k.desc).map fun q => (.queueEnd k.ringDie, q)) ++ (if dVarEn k.desc then [(.variant, dVariant k.desc)] else [])
    ++ if isFn .flag 1 k.desc then [(.flag k.ringDie, (flFlag k.desc).toNat)] else []

/-- A unit's use of the control fields of a descriptor that it runs, or of entries of the coded tables, meets one that is wrong (R294,
R296). -/
def unitWrong (s : State) (k : Tk) (read : List (CodedTable × Nat)) : Bool := controlWrong s (tkUnit s k) read

/-- The control fault of the unit that runs a descriptor; its tickets stay in flight (R294). -/
def unitFault (s : State) (k : Tk) : State := controlFault s (tkUnit s k) (tkUnitByte k) (dSlot k.desc) k.ticket.val

/-- A descriptor meets a poisoned burst at an address: ECC_UNCORR, a cause that names no unit unless another came first (R293, R305), and
the address of the first for the integrity log (R314; DEDUCED, log entry 101). -/
def meetPoison (a : Nat) (k : Tk) : Tk :=
  { addCause .eccUncorr k with
    noUnit := k.noUnit || !k.causes.contains .eccUncorr, badAt := if k.badAt ≠ 0 || k.causes.contains .eccUncorr then k.badAt else a }

/-- Begins descriptor t when it is one that `mine` picks, issued, and its unit's turn has come. `ready` holds it back
further; `valid` false completes it with INVALID. -/
def beginTk (s : State) (t : TicketId) (mine : Desc → Bool) (ready valid : State → Tk → Bool) : Begun :=
  match getTk s t with
  | none => .wait
  | some k =>
    if s.power != .running || k.phase != .issued || !mine k.desc || !unitTurn s k || unitIsolated s (tkUnit s k)
        || !ready s k then .wait
    else if unitWrong s k (entriesRead k) then .ended (unitFault s k)
    else
      let s := switchUnit s (dSlot k.desc) (tkUnit s k)
      let k := takeStart s k
      let s := touchScales (setTk s k) k
      if dPchk k.desc && k.profileId != dProfile k.desc then .ended (refuse s t)
      else if !variantOk s k || !valid s k then .ended (refuse s t)
      else .ok s k

/-- Whether an engine is retired (R49). -/
def engRetired (s : State) (e : Eng) : Bool := (s.engines[e]).state == .retired

/-! ## Turns at a queue end (R149) -/

/-- No descriptor fetched earlier still pops this queue end. -/
def popTurn (s : State) (k : Tk) (q : Nat) : Bool :=
  !(tksOf s).any fun o => o.shelf == k.shelf && decide (o.inst < k.inst)
    && (o.phase == .fetched || o.phase == .issued || o.phase == .running) && (pops o.desc).contains q

/-- A STREAM that has claimed the strips of its last entry. -/
def claimedAll (o : Tk) : Bool :=
  match o.run with
  | .stream r => decide (r.entries ≤ r.entry + 1) && r.stage != .waitLead && r.stage != .waitStrips
  | _ => false

/-- No descriptor fetched earlier has still to claim an entry of this queue end. -/
def pushTurn (s : State) (k : Tk) (q : Nat) : Bool :=
  !(tksOf s).any fun o => o.shelf == k.shelf && decide (o.inst < k.inst)
    && (o.phase == .fetched || o.phase == .issued || o.phase == .running) && (pushes o.desc).contains q && !claimedAll o

/-! ## Writes to memory -/

/-- Bursts of a write: (burst address, data laid over the burst, mask; none for a whole burst). -/
def burstParts : Nat → Nat → List Byte → List (Nat × List Byte × Option (List Bool))
  | 0, _, _ => []
  | n + 1, a, l =>
    if l.isEmpty then []
    else
      let off := a % 256
      let k := min (256 - off) l.length
      let part := (a / 256, List.replicate off 0 ++ l.take k,
        if off = 0 && k = 256 then none else some ((List.range 256).map fun i => decide (off ≤ i ∧ i < off + k)))
      part :: burstParts n (a + k) (l.drop k)

/-- The signature of R307 of one output burst or contribution block under its fold word. -/
def signatureOf1 (fold : Nat) (bytes : List Byte) : BitVec 64 :=
  crc32c (leBytes 8 fold ++ bytes) ++ crc32c (bytes ++ leBytes 8 fold)

/-- Under Strict, folds an output burst or a contribution block into its CALL's entry of the signature table (R307, R316), or into the
replay's own signature; an entry of another data step starts at 0. -/
def foldSignature (s : State) (k : Tk) (fold : Nat) (bytes : List Byte) : State :=
  let r := s.slots[dSlot k.desc]
  match k.parent with
  | some c =>
    if k.isReplay then foldReplay s (dSlot k.desc) c (signatureOf1 fold bytes)
    else if r.inForce.integrity != .strict || r.sigEntries = 0 then s
    else
      let a := r.sigBase.toNat + 16 * (4 * c.2.toNat + (tkDie c.1).val)
      let old : BitVec 64 := if memNat s (a + 8) 4 = k.dataStep.toNat then BitVec.ofNat 64 (memNat s a 8) else 0
      (writeSpan s a (wordBytes 8 (old ^^^ signatureOf1 fold bytes) ++ wordBytes 4 k.dataStep ++ leBytes 4 0)).1
  | none => s

/-- A descriptor issues the writes of a byte string at a local address to their homes (R142, R212); a replay performs none (R307). -/
def queueWrites (s : State) (k : Tk) (a : Nat) (l : List Byte) : State :=
  let parts := burstParts (l.length + 1) a l
  let s := parts.foldl (fun s p => foldSignature s k (globalOf s (256 * p.1)) p.2.1) s
  let reqs := parts.map fun p =>
    match p.2.2 with
    | none => HomeReq.write k.inst k.ticket p.1 p.2.1
    | some m => HomeReq.masked k.inst k.ticket p.1 p.2.1 m
  if k.isReplay then s else { s with homeQueue := s.homeQueue ++ reqs }

/-- Writes to another module go out as WRITE flits of whole bursts, one request each (R210, R268); one that the module's own
router drops is answered INVALID (R266). A replay sends none (R307). -/
def sendWrites (s : State) (k : Tk) (vc : Nat) (g : Nat) (bursts : List (List Byte)) : State :=
  if k.isReplay then s
  else ((List.range bursts.length).zip bursts).foldl (fun (s : State) p =>
    match sendRequest s (.put k.inst k.ticket) (ownFlit s 0x01 vc (globalModule g) (globalLocal g + 256 * p.1) p.2) with
    | (s', true) => s'
    | (s', false) => modTk s' k.ticket (addCause .invalid)) s

/-- A memory target of n bytes that a descriptor may write: populated and clear of the head region here, whole bursts on
another module (R210, log entry 33). -/
def targetOk (s : State) (g n : Nat) : Bool :=
  if isLocal s g then namedRange (globalLocal g) n else n % 256 == 0 && g % 256 == 0

/-- Issues a byte string to a memory target, on a VC where the target is another module's. -/
def writeOn (s : State) (k : Tk) (vc g : Nat) (l : List Byte) : State :=
  if isLocal s g then queueWrites s k (globalLocal g) l
  else
    let bs := pieces 256 l
    let s := ((List.range bs.length).zip bs).foldl (fun s p => foldSignature s k (g + 256 * p.1) p.2) s
    sendWrites s k vc g bs

/-- Issues a byte string to a memory target. -/
def writeOut (s : State) (k : Tk) (g : Nat) (l : List Byte) : State := writeOn s k 1 g l

end Sys2Proof.Machine
end

