-- ==== Sys2Proof/Machine/Integrity.lean ====
section
/-! DEFINITION. What a cause of R302 does: suspect steps, observation of engines and retirement (R302, R305, R310 to R314). -/

namespace Sys2Proof.Machine

/-- Whether a descriptor's causes come of a poisoned burst alone, which names no array-die unit. -/
def burstOnly (k : Tk) : Bool := k.noUnit && !k.causes.contains .checksum && !k.causes.contains .residue

/-- A cause on a poisoned burst or in the collective engine names no array-die unit. -/
def causePair (s : State) (k : Tk) : Option (Fin 2) :=
  if burstOnly k then none
  else match tkUnit s k with
    | .engine e => some (diePair (engDie e))
    | .vector e => some (diePair (engDie e))
    | .stream d _ => some (diePair d)
    | _ => none

/-- The engine that a cause names, if it names one or its accumulation or vector unit. -/
def causeEngine (s : State) (k : Tk) : Option Eng :=
  if burstOnly k then none
  else match tkUnit s k with
    | .engine e => some e
    | .vector e => some e
    | _ => none

/-- Asks for the retirement of a physical row or column (R48 step 1), once. -/
def requestRetire (s : State) (e : Eng) (column : Bool) (n : Fin 520) : State :=
  let r := s.engines[e]
  let have_ := if column then r.retiredCols else r.retiredRows
  if have_.contains n || r.retireQ.contains (column, n) then s else modEng s e fun r => { r with retireQ := r.retireQ ++ [(column, n)] }

/-- An engine runs a descriptor: one in its array or its Carousel, or a DRAIN or an ACCEPT of its accumulation unit (R48, R344). -/
def engWorks (s : State) (e : Eng) : Bool :=
  (s.engines[e]).run.isSome || (s.engines[e]).load.isSome || (tksOf s).any fun k => k.phase == .running && tkUnit s k == .engine e

/-- An engine between descriptors (R48 step 2). -/
def engIdle (s : State) (e : Eng) : Bool := !engWorks s e && (s.engines[e]).swapTok.isNone

/-- An engine is retired (R49, R50, R312): its repair map keeps it so, both records get an entry, and its descriptors complete with INVALID (R335). -/
def retireEngine (s : State) (e : Eng) (kind : Nat) : State :=
  if engRetired s e then s
  else
    let mine := (tksOf s).filter fun k => (k.phase == .issued || k.phase == .running) && tkUnit s k == .engine e
    let s := mine.foldl (fun s k => refuse s k.ticket) s
    let s := modEng s e fun r =>
      { r with state := .retired, retireQ := [], retireDue := false, active := none, shadow := none, shadowLost := none, load := none, run := none, ahead := none, swapTok := none }
    let s := { s with nv := { s.nv with retired := s.nv.retired.set e true } }
    failEntry (logEntry s 0x0F (unitByte 1 e.val) 0 0 0 0) kind (unitByte 1 e.val) 0 0 0

/-- Asks for the retirement of an engine: it takes effect between descriptors, at once where it stands so, else as its repair
(R48, R49). -/
def dueRetirement (s : State) (e : Eng) : State :=
  if engRetired s e then s else if engIdle s e then retireEngine s e 0x03 else modEng s e fun r => { r with retireDue := true }

/-- Where a CALL's tiles are counted, behind those of the 16 slots' rings H (R40). -/
def callPlace (c : CallId) : Nat := 16 + c.1.val * 65536 + c.2.toNat

/-- A key's count raised by 1. -/
def hit (l : Sparse Nat) (k : Nat) : Sparse Nat := sparseSet 0 l k (sparseGet 0 l k + 1)

/-- Adds one cause that names engine e, found under a slot, a ticket (0 for none) and a data step, with the columns and chunks of its
logged failures (R310, R312, R314). -/
def observe (s : State) (e : Eng) (j : Slot) (ticket : Nat) (step : BitVec 32) (cols chunks : List Nat) : State :=
  let r := s.engines[e]
  if r.state = .retired then s
  else
    let s := if r.state = .active then
        modEng (logStep s 0x0B (unitByte 1 e.val) j ticket step 0 0) e fun r =>
          { r with state := .observed, detections := 1, cleanTiles := 0 }
      else modEng s e fun r => { r with detections := r.detections + 1, cleanTiles := 0 }
    let s := modEng s e fun r =>
      { r with run := r.run.map (fun a => { a with cause := true }), engCauses := r.engCauses + 1, colHits := cols.eraseDups.foldl hit r.colHits,
               chunkHits := if cols.isEmpty then chunks.eraseDups.foldl hit r.chunkHits else r.chunkHits }
    let r := s.engines[e]
    if s.integrity.engineLimit.toNat ≤ r.engCauses then dueRetirement s e
    else
      let bad := cols.eraseDups.filter fun c => decide (s.integrity.columnLimit.toNat ≤ sparseGet 0 r.colHits c)
      let s := bad.foldl (fun s c => requestRetire s e true (Fin.ofNat 520 c)) s
      let twice := if cols.isEmpty then chunks.eraseDups.filter fun c => decide (2 ≤ sparseGet 0 r.chunkHits c) else []
      modEng s e fun r => { r with diagnostics := twice.foldl addOnce r.diagnostics }

/-- A checked tile without a cause; after CLEAN_TILES of them the engine is ACTIVE again (R313). -/
def cleanTile (s : State) (e : Eng) : State :=
  let r := s.engines[e]
  if r.state != .observed then s
  else if s.integrity.cleanTiles.toNat ≤ r.cleanTiles + 1 then
    modEng (logEntry s 0x0C (unitByte 1 e.val) 0 0 0 0) e fun r =>
      { r with state := .active, detections := 0, cleanTiles := 0, engCauses := 0, colHits := [], chunkHits := [] }
  else modEng s e fun r => { r with cleanTiles := r.cleanTiles + 1 }

/-- A residue failure of a unit's conversion or transfer: cause RESIDUE, counted and logged (R293, R314). -/
def residueSeen (s : State) (k : Tk) (bad : Bool) : State :=
  if bad then
    let s := logTk s 0x03 (tkUnitByte k) k 0 0
    let s := { s with integrity := { s.integrity with residueFailures := countUp s.integrity.residueFailures } }
    modTk s k.ticket (addCause .residue)
  else s

/-- A cause after the member's gate, in a descriptor of the update, asks for its repeat; under Strict it is resolved at the next gate
(R309). -/
def repeatDue (s : State) (k : Tk) : Bool :=
  let r := s.slots[dSlot k.desc]
  r.gated && r.inForce.integrity != .strict && k.dataStep == r.dataStep && dFamily k.desc != some .collective && !k.isRepeat

/-- What the completion of a descriptor with cause statuses does to its step and its engine (R302, R309, R310). -/
def completionCauses (s : State) (k : Tk) : State :=
  if !(k.causes.any suspectStatus) then s
  else
    let s := if k.causes.contains .eccUncorr then logTk s 0x06 (tkUnitByte k) k 0 k.badAt else s
    let s := markTk s k (causePair s k)
    let s := if repeatDue s k then { s with repeats := s.repeats ++ [k] } else s
    match causeEngine s k with
    | some e => observe s e (dSlot k.desc) k.ticket.val k.dataStep k.hitCols k.hitChunks
    | none => s

end Sys2Proof.Machine
end

