-- ==== Sys2Proof/Machine/Chunks.lean ====
section
/-! DEFINITION. What an array computes: a stationary tile's values and checksums, chunk sums, and their promotion (R33 to R40,
R53, R83, R85, R86, R108, R113, R117). -/

namespace Sys2Proof.Machine

/-! ## Physical places (R47) -/

/-- The k-th physical index, counted from 0, that has not been retired. -/
def physIndex (retired : List (Fin 520)) (k : Nat) : Nat :=
  (((List.range 520).filter fun p => !retired.any fun r => r.val == p)[k]?).getD 0

/-! ## Exact values -/

/-- A finite value in units of 2^q; 0 for a special one (R85). -/
def valUnits (q : Int) : Val → Int
  | .fin s m e => Val.coeff q s m e
  | _ => 0

/-- An integer number of units of 2^q. -/
def ofUnits (q : Int) (x : Int) : Val := Val.ofCoeff false x q

/-- The value of nibble h of a cell byte: 0 the low element, 1 the high one (R67, R80). -/
def nibbleVal (b : Byte) (h : Nat) : Val := l4wVal (if h = 0 then b.toNat % 16 else b.toNat / 16) 0

/-- The value of a cell byte in an 8-bit format. -/
def cellVal (fmt : Nat) (b : Byte) : Val := ((Fmt.ofCode fmt).map fun f => fmtVal f b.toNat).getD .zero

/-! ## The stationary tile (R27, R35, R37, R71) -/

/-- The bytes of a logical row; a row that has not been loaded is clear. -/
def tileRow (t : Tile) (k : Nat) : List Byte := sparseGet [] t.rows k
def tileByte (t : Tile) (k n : Nat) : Byte := (tileRow t k).getD n 0
def tileExp (t : Tile) (e i : Nat) : Int := ((sparseGet [] t.exps e).getD i 0).toInt

/-- The logical row whose cells hold operand row k: in S16 the even row of quad pair k (R24). -/
def operandCellRow (shape k : Nat) : Nat := if shape = 8 then 2 * k else k

/-- Element (k, n) of the half h: in W4 and W4T the low and the high element of a cell, in S16 the L16s value of quad (k, n),
which the model keeps in the two cells of the quad's even row (R24; log entry 67). W4T elements carry their segment's exponent
(R35, R71). -/
def tileVal (t : Tile) (h k n : Nat) : Val :=
  if t.shape = 6 then nibbleVal (tileByte t k n) h
  else if t.shape = 7 then
    (nibbleVal (tileByte t k n) h).scale (tileExp t (k / 16) (32 * (k % 16) + 16 * h + n / 32))
  else if t.shape = 8 then fmtVal .l16s (leNat (((tileRow t (operandCellRow 8 k)).drop (2 * n)).take 2))
  else cellVal t.fmt.toNat (tileByte t k n)

/-- A value as a whole number of units of 2^q; none where it is not one. -/
def exactUnits (q : Int) (v : Val) : Option Int :=
  match v with
  | .fin s m e =>
    if q ≤ e then some (Val.coeff q s m e)
    else if m % 2 ^ (q - e).toNat = 0 then some (Val.coeff q s (m / 2 ^ (q - e).toNat) q) else none
  | _ => none

/-- A checksum value after the L16s values of some cells: exact where the 42-bit cell holds the sum, else free (R37, R70; log
entry 67). -/
def addWide (acc : Int) (bytes : List Byte) : Int :=
  match exactUnits (-16) (((codesOf .l16s bytes).map (fmtVal .l16s)).foldl Val.add (ofUnits (-16) acc)) with
  | some x => if -2 ^ 41 ≤ x ∧ x < 2 ^ 41 then x else Config.wideCheck acc bytes
  | none => Config.wideCheck acc bytes

/-- The two checksum-column values of a row of cell bytes: left and right columns, or low and high elements in W4 and W4T, which
count before their exponents (R37). In W4 and W4T each of the two is compared with its own 16 chunks: R37 says only that the cell
holds sums over both halves, and R38 names one r_k (DESIGN CHOICE, log entry 95). -/
def rowChecks (shape fmt : Nat) (row : List Byte) : Int × Int :=
  if shape = 6 || shape = 7 then
    row.foldl (fun (a : Int × Int) b => (a.1 + valUnits (-16) (nibbleVal b 0), a.2 + valUnits (-16) (nibbleVal b 1))) (0, 0)
  else if shape = 8 then (addWide 0 (row.take 256), addWide 0 (row.drop 256))
  else
    let s (l : List Byte) : Int := l.foldl (fun a b => a + valUnits (-16) (cellVal fmt b)) 0
    (s (row.take 256), s (row.drop 256))

/-- What a row of cell bytes adds to the checksum row (R37). In S16 the value of a quad counts in its even column. -/
def colChecks (shape fmt : Nat) (sums : List Int) (row : List Byte) : List Int :=
  (List.range 512).map fun n =>
    let b := row.getD n 0
    if shape = 8 then (if n % 2 = 0 then addWide (sums.getD n 0) [b, row.getD (n + 1) 0] else sums.getD n 0)
    else sums.getD n 0 + (if shape = 6 || shape = 7 then valUnits (-16) (nibbleVal b 0) + valUnits (-16) (nibbleVal b 1)
      else valUnits (-16) (cellVal fmt b))

/-- Whether a tile holds a special value (R86). -/
def tileSpecial (t : Tile) : Bool :=
  t.shape != 6 && t.shape != 7 && t.shape != 8 && t.rows.any fun p => p.2.any fun b => (cellVal t.fmt.toNat b).special

/-! ## Streamed values (R65) -/

/-- The values that meet the logical rows: those of the low and those of the high byte of the row buses. `ins` holds one
operand row per input, laid out as R65 says (RG16: value 32c + m of chunk c at place 32c + m). -/
def streamed (shape param fmt : Nat) (ins : List (List Byte)) : List Val × List Val :=
  let byte (i k : Nat) : Val := cellVal fmt ((ins.getD i []).getD k 0)
  let rows (f : Nat → Val) : List Val := (List.range 512).map f
  match shape with
  | 1 => (rows fun k => byte (k / 256) (k % 256), [])
  | 2 => (rows fun k => byte (k / 128) (k % 128), [])
  | 3 => (rows fun k => if k % 32 < param then byte 0 k else .zero, [])
  | 4 => (rows fun k => byte (2 * (k / 256)) (k % 256), rows fun k => byte (2 * (k / 256) + 1) (k % 256))
  | 5 => (rows fun k => byte (2 * (k / 256)) (k % 256), rows fun k => byte (2 * (k / 256) + 1) (k % 256))
  | 6 => (rows fun k => byte 0 k, rows fun k => byte 0 (k + 512))
  | 7 => (rows fun k => byte 0 k, rows fun k => byte 0 (k + 512))
  | 8 => ((List.range 256).map fun v => fmtVal .l16s (leNat (((ins.getD 0 []).drop (2 * v)).take 2)), [])
  | _ => (rows fun k => byte 0 k, [])

/-! ## Chunk sums (R33 to R35, R85) -/

/-- The class of a chunk's products: a special value, none where all are finite. -/
def chunkClass (ps : List Val) : Option Val :=
  if ps.any (· == .nan) || (ps.any (· == .inf true) && ps.any (· == .inf false)) then some .nan
  else if ps.any (· == .inf true) then some (.inf true)
  else if ps.any (· == .inf false) then some (.inf false)
  else none

/-- An exact chunk sum, in units of 2⁻³² (R34). -/
def fixedChunk (ps : List Val) (diff : Int) : Val :=
  match chunkClass ps with
  | some v => v
  | none => ofUnits (-32) (ps.foldl (fun a p => a + valUnits (-32) p) diff)

/-- A chunk sum in the window of R35 and its sticky bit: products of at least 2⁻¹³⁴ times the largest enter exactly, every smaller
one counts in the sticky bit only, as R35 says. Its last sentence bounds the loss by 2⁻¹⁵⁰ times the largest product, which this
does not give (DEDUCED, log entry 68). -/
def windowChunk (ps : List Val) (diff : Int) : Val × Bool :=
  match chunkClass ps with
  | some v => (v, false)
  | none =>
    let top := ps.foldl (fun (a : Val) p => if a.magLt p then p.abs else a) .zero
    let small (p : Val) : Bool := !p.isZero && p.magLt (top.scale (-134))
    ((ps.filter fun p => !small p).foldl Val.add (ofUnits (-32) diff), ps.any small)

/-- Whether a shape's chunks use the window of R35. -/
def windowed (shape : Nat) : Bool := shape == 7 || shape == 8

/-- Half and first logical row of chunk j, and whether column n reads the high bytes: W4 and W4T take chunks 16 to 31 from
the high elements (R33), QUAD and VSEL columns 256 to 511 from the high byte (R65). -/
def chunkHalf (shape j n : Nat) : Nat :=
  if shape = 6 || shape = 7 then j / 16 else if shape = 4 || shape = 5 then n / 256 else 0

/-- The 32 products of chunk j of column n. -/
def chunkProducts (t : Tile) (xs : List Val × List Val) (j n : Nat) : List Val :=
  let h := chunkHalf t.shape.toNat j n
  let x := if h = 0 then xs.1 else xs.2
  (List.range 32).map fun i =>
    let k := 32 * (j % 16) + i
    (tileVal t (j / 16) k n).mul (x.getD k .zero)

/-- The differences that the physical array adds to chunk j of column n. -/
def treeDiff (tree : List (Nat × Nat × Int)) (n j : Nat) : Int :=
  (tree.filter fun f => f.1 == n && f.2.1 == j).foldl (fun a f => a + f.2.2) 0

/-- The chunk value of chunk j of column n before promotion (R108): `x` is σa + σb, in W4 with the block exponent. -/
def chunkValue (t : Tile) (xs : List Val × List Val) (tree : List (Nat × Nat × Int)) (x : Int) (j n : Nat) : Val × Bool :=
  let ps := chunkProducts t xs j n
  let d := treeDiff tree n j
  let r := if windowed t.shape.toNat then windowChunk ps d else (fixedChunk ps d, false)
  (r.1.scale (x + (if t.shape = 6 then tileExp t j n else 0)), r.2)

/-- Chunks of a column in a shape (R33, R51). -/
def columnChunks (shape : Nat) : Nat := if shape = 6 || shape = 7 then 32 else if shape = 8 then 8 else 16

/-- Output columns of a shape (R113). -/
def shapeCols (shape : Nat) : Nat := if shape = 8 then 256 else 512

/-! ## Checks (R38, R39, R292) -/

/-- Whether chunk j fails the comparison of R38 in the columns [a, b) of one half; `side` picks the checksum-column value and
the tree's difference at column 512. -/
def chunkFails (t : Tile) (xs : List Val × List Val) (tree : List (Nat × Nat × Int)) (j a b side : Nat) : Bool :=
  let cols := (List.range (b - a)).map fun i =>
    ((chunkProducts t xs j (a + i)).foldl (fun x p => x + valUnits (-32) p) 0) + treeDiff tree (a + i) j
  let x := if chunkHalf t.shape.toNat j a = 0 then xs.1 else xs.2
  let r (k : Nat) : Int :=
    let v := sparseGet (0, 0) t.rowSums k
    if t.shape = 6 then (if j / 16 = 0 then v.1 else v.2)
    else if t.shape = 4 || t.shape = 5 then (if side = 0 then v.1 else v.2) else v.1 + v.2
  let col := (List.range 32).foldl (fun z i =>
    let k := 32 * (j % 16) + i
    z + valUnits (-16) (x.getD k .zero) * r k) 0
  cols.foldl (· + ·) 0 != col + (if side = 0 then treeDiff tree 512 j else 0)

/-- The chunks that fail R38 in a wavefront, ascending. -/
def failingChunks (t : Tile) (xs : List Val × List Val) (tree : List (Nat × Nat × Int)) : List Nat :=
  if xs.1.any Val.special || xs.2.any Val.special then []
  else (List.range (columnChunks t.shape.toNat)).filter fun j =>
    if t.shape = 4 || t.shape = 5 then chunkFails t xs tree j 0 256 0 || chunkFails t xs tree j 256 512 1
    else chunkFails t xs tree j 0 512 0

/-- The columns that fail the check wavefront (R39), ascending; column 512 is the checksum column. -/
def failingColumns (t : Tile) (tree : List (Nat × Nat × Int)) : List Nat :=
  let diff (n : Nat) : Int := (tree.filter fun f => f.1 == n).foldl (fun a f => a + f.2.2) 0
  let data (n : Nat) : Int := (List.range 512).foldl (fun a k =>
    a + valUnits (-32) (tileVal t 0 k n) + (if t.shape = 6 then valUnits (-32) (tileVal t 1 k n) else 0)) 0
  let total := t.rowSums.foldl (fun a p => a + p.2.1 + p.2.2) 0 - t.colSums.foldl (· + ·) 0
  ((List.range 512).filter fun n => data n - t.colSums.getD n 0 * 65536 + diff n != 0)
    ++ (if total * 65536 + diff 512 != 0 then [512] else [])

/-- The (column, chunk) pairs whose sum's residue modulo 2¹⁵ − 1 does not match (R292). -/
def failingResidues (tree : List (Nat × Nat × Int)) : List (Nat × Nat) :=
  ((tree.map fun f => (f.1, f.2.1)).eraseDups).filter fun p => treeDiff tree p.1 p.2 % 32767 != 0

/-- Whether a tile of a shape is ever checked (R40, R42). -/
def checkable (shape : Nat) : Bool := shape != 7 && shape != 8

/-! ## Owners (R53, R72, R195) -/

/-- Key of an owner: the chunk in RG16, 32 × quadrant + group in VSEL. -/
def ownerKey (quadrant group : Nat) : Nat := 32 * quadrant + group

/-- A sideband slot: VALID, GROUP, VARIANT (R195). -/
def slotValid (x : BitVec 16) : Bool := bitOf x 15
def slotGroup (x : BitVec 16) : Nat := bitsOf x 13 9
def slotVariant (x : BitVec 16) : BitVec 9 := x.extractLsb' 0 9

/-- Whether a token's variant owns its chunk or group. -/
def ownedBy (t : Tile) (key : Nat) (x : BitVec 16) : Bool :=
  !slotValid x || sparseGet none t.owners key == some (slotVariant x)

/-- Whether every token of a wavefront meets its own variant's weights; `sides` holds each input's sideband. -/
def ownersOk (t : Tile) (sides : List (List (BitVec 16))) : Bool :=
  if t.shape = 3 then (List.range 16).all fun c => ownedBy t c ((sides.getD 0 []).getD c 0)
  else if t.shape = 5 then (List.range 4).all fun q =>
    let x := (sides.getD q []).getD 0 0
    ownedBy t (ownerKey q (slotGroup x)) x
  else true

/-- Whether a column of row group h is kept: in VSEL those of the token's column group only, in RG16 those of a chunk with a token
(R53, R195; log entry 70). -/
def columnKept (t : Tile) (sides : List (List (BitVec 16))) (h n : Nat) : Bool :=
  if t.shape = 3 then slotValid ((sides.getD 0 []).getD h 0)
  else if t.shape = 5 then
    let x := (sides.getD (2 * h + n / 256) []).getD 0 0
    slotValid x && n % 256 / t.param.toNat == slotGroup x
  else true

/-! ## Promotion (R110, R113, R117) -/

/-- Promotes chunk values, in order, into one entry; a poisoned entry stays poisoned. -/
def promoteEntry (s : State) (e : Eng) (row col : Nat) (cs : List (Val × Bool)) : State :=
  if bankPoison s e row col then s
  else bankPut s e row col (cs.foldl (fun l c => promote l c.1 c.2) (bankGet s e row col)) false

/-- Chunks of row group h, ascending (R33, R113). -/
def groupChunks (shape h : Nat) : List Nat := (List.range (shapeChunks shape)).map (h * shapeChunks shape + ·)

/-- The entries that a wavefront reaches: row group and column. -/
def reached (t : Tile) (sides : List (List (BitVec 16))) : List (Nat × Nat) :=
  (List.range (shapeG t.shape.toNat)).flatMap fun h =>
    ((List.range (shapeCols t.shape.toNat)).filter fun n => columnKept t sides h n).map fun n => (h, n)

/-- Promotes a wavefront's chunk values into a set whose range starts at `base`; `row` is the token's row in its group and
`rows` the rows of a group. -/
def promoteWave (s : State) (e : Eng) (t : Tile) (xs : List Val × List Val) (sides : List (List (BitVec 16)))
    (tree : List (Nat × Nat × Int)) (x : Int) (base rows row : Nat) : State :=
  (reached t sides).foldl (fun s p =>
    promoteEntry s e (base + p.1 * rows + row) p.2
      ((groupChunks t.shape.toNat p.1).map fun j => chunkValue t xs tree x j p.2)) s

/-- Marks the entries that a wavefront would reach poisoned (R436). -/
def poisonWave (s : State) (e : Eng) (t : Tile) (sides : List (List (BitVec 16))) (base rows row : Nat) : State :=
  (reached t sides).foldl (fun s p => bankPut s e (base + p.1 * rows + row) p.2 0 true) s

/-- What the code finds at one entry of the bank (R110). The count of poisoned entries takes double-bit errors of the bank alone (DESIGN
CHOICE, log entry 105). -/
def bankFinding (s : State) (e : Eng) (code : Ecc) (row col : Nat) : State :=
  match code with
  | .clean => s
  | .corrected => modAcc s e fun r => { r with corrected := countUp r.corrected }
  | .uncorrectable =>
    if bankPoison s e row col then s
    else modAcc (bankPut s e row col 0 true) e fun r => { r with uncorrectable := countUp r.uncorrectable }

/-- What a read of the bank finds at the entries that it reads. -/
def bankFindings (s : State) (e : Eng) (reads : Nat → Nat → Bool) (fs : List BankFault) : State :=
  fs.foldl (fun s f => if reads f.row.val f.col.val then bankFinding s e f.code f.row.val f.col.val else s) s

/-- What a drain's read of the given rows of the bank finds. -/
def drainFindings (s : State) (e : Eng) (first rows : Nat) (fs : List BankFault) : State :=
  bankFindings s e (fun r _ => decide (first ≤ r ∧ r < first + rows)) fs

/-- The promotions into entries that a promotion reached whose residue does not match keep what the hardware formed (R292, R293). -/
def failPromotions (s : State) (e : Eng) (fs : List PromoFault) : State :=
  fs.foldl (fun s f => if bankPoison s e f.row.val f.col.val then s else bankPut s e f.row.val f.col.val f.total false) s

end Sys2Proof.Machine
end

