-- ==== Sys2Proof/Machine/Array.lean ====
section
/-! DEFINITION. Array engines and their Carousels: LOADSTAT, LOAD_STEP, SWAP, SWAP_EXECUTE, ADMISSION_TOKEN, WAVEFRONT,
CAROUSEL_ROUND, CORRECTED_WRITEBACK (R25 to R75, R295, R302, R310). -/

namespace Sys2Proof.Machine

open Host

/-- Two halves of a block column, joined operand row by operand row (R62). -/
def joinHalves (a b : List OpRow) : List OpRow :=
  if a.isEmpty then b
  else (a.zip b).map fun p => { p.2 with bytes := p.1.bytes ++ p.2.bytes, poison := p.1.poison || p.2.poison }

/-- An engine that works: powered, neither retired nor isolated. -/
def engRuns (s : State) (e : Eng) : Bool := s.power == .running && !engRetired s e && !unitIsolated s (.engine e)

/-- The slot of a ticket in flight. -/
def slotOfTk (s : State) (t : TicketId) : Slot := match getTk s t with | some k => dSlot k.desc | none => 0

/-! ## Findings in stationary sets (R45, R310) -/

/-- A corrected error of a stationary set at a logical row, for the ticket that uses the set. -/
def statCorrected (s : State) (e : Eng) (t : TicketId) (row : Nat) : State :=
  let j := slotOfTk s t
  let s := modEng s e fun r => { r with corrected := countUp r.corrected }
  let step := match getTk s t with | some k => k.dataStep | none => (s.slots[j]).dataStep
  let s := logStep s 0x05 (unitByte 1 e.val) j t.val step (physIndex (s.engines[e]).retiredRows row) 0
  let s := match getTk s t with
    | some k => markTk s k (some (diePair (engDie e)))
    | none => s
  observe s e j t.val step [] []

/-- A double-bit error empties a stationary set. -/
def statEmptied (s : State) (e : Eng) (active : Bool) : State :=
  modEng s e fun r =>
    { r with uncorrectable := countUp r.uncorrectable, active := if active then none else r.active,
             shadow := if active then r.shadow else none }

/-! ## Inputs (R58, R64 to R66, R148) -/

/-- An input is a queue end that the descriptor may pop, in the storage of its own engine. -/
def inputUsable (s : State) (k : Tk) (i : Nat) : Bool :=
  match dInQ k.desc i with
  | some q => qeUsable s k q false && namedEngine k.ringDie (qEntry s k.shelf q) == dUnit k.desc
  | none => false

def colWise (d : Desc) (i : Nat) : Bool := dOrient d / 4 ^ i % 2 = 1
def keeps (d : Desc) (i : Nat) : Bool := dOrient d / (2 * 4 ^ i) % 2 = 1

/-- Bytes of an element as queue storage holds it. -/
def codeBytes (fmt : Nat) : Nat := ((Fmt.ofCode fmt).map Fmt.bytes).getD 1

/-- Operand rows that a round yields (R62): 8, and 4 for L16s read column-wise. -/
def roundRows (fmt : Nat) (col : Bool) : Nat := if col && codeBytes fmt = 2 then 4 else 8

/-- Stored column c of an entry's first n rows. -/
def entryCol (e : Entry) (fmt c n : Nat) : List Byte :=
  (List.range n).flatMap fun i => entryBytes e (i * e.pitch + codeBytes fmt * c) (codeBytes fmt)

/-- Operand rows of an entry (R62): column-wise the stored columns, which the padding has no part in (R57). -/
def operandRows (e : Entry) (fmt : Nat) (col : Bool) : Nat := if col then e.width / codeBytes fmt else e.rows

/-- A round of an entry can be read (R73): its block row, or column-wise every block row, is valid. -/
def roundReady (e : Entry) (col : Bool) (round : Nat) : Bool := if col then entryComplete e else e.valid.contains round

/-- A column-wise operand row: stored column c of n stored rows; +0 past the width of the rows (log entry 71). -/
def operandCol (e : Entry) (fmt c n : Nat) : List Byte :=
  if c < e.width / codeBytes fmt then entryCol e fmt c n else List.replicate (n * codeBytes fmt) 0

/-- Rounds of one block column, each of up to 64 block rows (R62); a block row is one round. -/
def colRounds (col : Bool) (n : Nat) : Nat := if col then max ((n + 511) / 512) 1 else 1

/-- The operand rows of a round; `n` is the number of stored rows that a column-wise read takes, 512 to a round (R62). The padding
of a stored row is not read (R57). A sideband goes with stored rows, so a column-wise wavefront has none (R72; log entry 70). -/
def readRound (e : Entry) (fmt : Nat) (col : Bool) (n round : Nat) : List OpRow :=
  let per := roundRows fmt col
  let parts := colRounds col n
  let lo := round % parts * 512
  (List.range per).map fun i =>
    let r := round / parts * per + i
    if col then
      { bytes := (operandCol e fmt r n).drop (lo * codeBytes fmt) |>.take (512 * codeBytes fmt), side := [],
        poison := e.poison.any fun x => decide (lo ≤ x ∧ x < min n (lo + 512)) }
    else { bytes := (entryRow e r).take e.width, side := sparseGet [] e.side r, poison := e.poison.contains r }

/-- The words that a round reads: of a block row row-wise, of up to 64 block rows of a block column column-wise (R62). -/
def roundReads (e : Entry) (col : Bool) (n round : Nat) (r j : Nat) : Bool :=
  let parts := colRounds col n
  inWidth e j && (if col then decide (r < n) && r / 512 == round % parts && j == round / parts else r / 8 == round)

/-- The word of a round that a count names, row by row. -/
def roundWord (e : Entry) (col : Bool) (n round w : Nat) : Nat :=
  if col then
    let parts := colRounds col n
    let lo := round % parts * 512
    entryWord e (lo + w % max (min n (lo + 512) - lo) 1) (round / parts)
  else
    let per := max ((e.width + 7) / 8) 1
    entryWord e (8 * round + w / per % 8) (w % per)

/-- A double-bit error poisons every operand row that shares its word: the stored row's own row-wise, all rows of the round
column-wise (R45, R60). -/
def markRows (m : Met) (col : Bool) (round : Nat) (l : List OpRow) : List OpRow :=
  if col then (if m.doubles.isEmpty then l else l.map fun o => { o with poison := true })
  else m.doubles.foldl (fun l p => listMod l (p.1 - 8 * round) fun o => { o with poison := true }) l

/-- What a Carousel read's code finds does to the engine and to the ticket (R45, R60, R202). -/
def roundFinding (s : State) (e : Eng) (t : TicketId) (m : Met) (bad : Bool) : State :=
  let s := m.singles.foldl (fun s w => dueWriteback (modEng s e fun r => { r with corrected := countUp r.corrected }) e w) s
  if !m.doubles.isEmpty then modTk s t fun k => { addCause .eccUncorr k with noUnit := false }
  else if bad then modTk s t fun k => { addCause .eccUncorr k with noUnit := k.noUnit || !k.causes.contains .eccUncorr }
  else s

/-- A round as the Carousel reads it: wrong bits arise in the word that `word` counts, every word's code is decoded, and the
operand rows go to a transpose buffer (R43, R60, R62). -/
def carouselRead (s : State) (e : Eng) (t : TicketId) (en : Entry) (fmt : Nat) (col : Bool) (n round word : Nat) (code : Ecc)
    : State × List OpRow :=
  let s := upsetQueue s e (roundWord en col n round word) code
  let m := meetWords s e en (roundReads en col n round)
  let rows := markRows m col round (readRound en fmt col n round)
  (roundFinding s e t m (rows.any (·.poison)), rows)

/-! ## LOADSTAT (R27, R30, R66, R67, R69, R71) -/

/-- What does not depend on the entry: usable input, shape and format. -/
def loadOk (s : State) (k : Tk) : Bool :=
  let d := k.desc
  !engRetired s (tkEng s k) && inputUsable s k 0 && paramOk (dShape d) (dParam d) &&
  match dIn d 0 with
  | some f => shapeFmtsOk (dShape d) f (if dShape d = 8 then .l16s else .l8f)
  | none => false

/-- The entry fits the tile (R66, R67). -/
def loadEntryOk (d : Desc) (e : Entry) : Bool :=
  let col := colWise d 0
  let w := if dShape d = 8 then 256 else 512
  if dShape d = 6 || dShape d = 7 then e.rows == 544 && e.pitch == 512 && e.colPacked == col
  else if col then e.rows == w
  else e.pitch == 512 && e.rows == (if dShape d = 3 then 16 * dParam d else w)

/-- LOADSTAT: an issued load begins once the shadow set is free and its entry stands at the head of its queue end. -/
def execLoadstat (t : TicketId) (s : State) : Outcome State Fault Refusal :=
  let entry (s : State) (k : Tk) : Option Entry := (dInQ k.desc 0).bind fun q => headEntry s k.shelf q
  match beginTk s t (isFn .loadstat 0)
      (fun s k =>
        let r := s.engines[tkEng s k]
        !loadOk s k || (r.shadow.isNone && r.load.isNone && (entry s k).isSome
          && ((dInQ k.desc 0).any fun q => popTurn s k q)))
      (fun s k => loadOk s k && ((entry s k).any fun e => loadEntryOk k.desc e)) with
  | .wait => .next s
  | .ended s1 => .next (settle s s1)
  | .ok s1 k =>
    let d := k.desc
    let own := match entry s1 k with | some e => e.owners | none => []
    let tile : Tile :=
      { slot := dSlot d, epoch := dEpoch d, shape := BitVec.ofNat 4 (dShape d), param := BitVec.ofNat 8 (dParam d),
        fmt := BitVec.ofNat 4 (dFmtIn d 0), col0 := colWise d 0, rows := [], rowSums := [], colSums := List.replicate 512 0,
        exps := [], owners := own, ready := false,
        source := match dInQ d 0, entry s1 k with
          | some q, some e => (k.shelf.val, q, e.id)
          | _, _ => (0, 0, 0) }
    let run : LoadRun :=
      { ticket := t, step := 0, total := loadSteps (dShape d) (dParam d), inp := {}, reloaded := false, poisoned := false }
    .next (settle s (modEng s1 (tkEng s1 k) fun r => { r with shadow := some tile, shadowLost := none, load := some run }))

/-- Logical row that load step i writes, in S16 the even row of the quad pair that it fills (R24); exponent rows follow the element
rows of an L4w tile. -/
def stepRow (shape param i : Nat) : Nat := if shape = 3 then 32 * (i / param) + i % param else operandCellRow shape i

/-- The tile after load step i with the bytes of its operand row (R27, R70, R71). -/
def loadRow (t : Tile) (i : Nat) (bytes : List Byte) : Tile :=
  let shape := t.shape.toNat
  if (shape = 6 || shape = 7) && 512 ≤ i then { t with exps := sparseSet [] t.exps (i - 512) bytes }
  else
    let k := stepRow shape t.param.toNat i
    { t with rows := sparseSet [] t.rows k bytes, rowSums := sparseSet (0, 0) t.rowSums k (rowChecks shape t.fmt.toNat bytes),
             colSums := colChecks shape t.fmt.toNat t.colSums bytes }

/-- A load ends: the entry is freed unless kept, and the ticket ends. The load may read its entry once more for the reload of R45
until its last row has been checked, so its last round has been read for certain only now (R68; DEDUCED, log entry 69). -/
def endLoad (s : State) (e : Eng) (k : Tk) (causes : List Status) : State :=
  let s := modEng s e fun r => { r with load := none }
  let s := match dInQ k.desc 0, (dInQ k.desc 0).bind fun q => headEntry s k.shelf q with
    | some q, some en => if keeps k.desc 0 then s else freeEntry s k.shelf q en.id
    | _, _ => s
  modTk s k.ticket (endTk causes 0)

/-- The shadow scrubber's finding on the row of the step before (R44, R45): one reload, then ECC_UNCORR. The second part
tells whether the load goes on with its next step. -/
def shadowFinding (s : State) (e : Eng) (l : LoadRun) (k : Tk) (code : Ecc) : State × Bool :=
  match code with
  | .clean => (s, true)
  | .corrected =>
    let row := match (s.engines[e]).shadow with
      | some t => stepRow t.shape.toNat t.param.toNat (l.step - 1)
      | none => 0
    (statCorrected s e k.ticket row, true)
  | .uncorrectable =>
    let blank : Option Tile := (s.engines[e]).shadow.map fun t =>
      { t with rows := [], rowSums := [], colSums := List.replicate 512 0, exps := [] }
    let s := statEmptied s e false
    if l.reloaded then (endLoad s e k [.eccUncorr], false)
    else
      let s := observe (markTk s k (some (diePair (engDie e)))) e (dSlot k.desc) k.ticket.val k.dataStep [] []
      (modEng s e fun r => if r.state = .retired then r else
        { r with shadow := blank, load := some { l with step := 0, inp := {}, reloaded := true, poisoned := false } }, false)

/-- LOAD_STEP: the Carousel performs one load step with an admission token (R69); `scrub` is what the shadow scrubber finds in
the row of the step before. The step after the last row makes the set swap-ready (R27), with the owners that the entry's tag has by
then (R195, R200). -/
def execLoadStep (e : Eng) (scrub : Ecc) (s : State) : Outcome State Fault Refusal :=
  let r := s.engines[e]
  match r.load, r.shadow with
  | some l, some tile =>
    if !engRuns s e || r.loadTokens = 0 then .next s
    else match getTk s l.ticket with
      | none => .next s
      | some k =>
        if l.step < l.total && l.inp.buf.isEmpty then .next s
        else if unitWrong s k [] then .next (settle s (unitFault s k))
        else
          let s1 := modEng s e fun r => { r with loadTokens := r.loadTokens - 1 }
          let f := if l.step = 0 then (s1, true) else shadowFinding s1 e l k scrub
          if !f.2 then .next (settle s f.1)
          else if engRetired f.1 e then .next (settle s f.1)
          else if l.step < l.total then
            match l.inp.buf with
            | [] => .next s
            | o :: rest =>
              .next (settle s (modEng f.1 e fun r =>
                { r with shadow := some (loadRow tile l.step o.bytes),
                         load := some { l with step := l.step + 1, inp := { l.inp with buf := rest },
                                               poisoned := l.poisoned || o.poison } }))
          else if l.poisoned then .next (settle s (endLoad (modEng f.1 e fun r => { r with shadow := none }) e k [.eccUncorr]))
          else
            let own := match (dInQ k.desc 0).bind fun q => headEntry f.1 k.shelf q with | some x => x.owners | none => tile.owners
            .next (settle s (endLoad (modEng f.1 e fun r => { r with shadow := some { tile with ready := true, owners := own } }) e k []))
  | _, _ => .next s

/-! ## SWAP (R28, R29, R39, R40) -/

/-- A LOADSTAT for the engine that has been issued and has not ended. -/
def loadOutstanding (s : State) (e : Eng) : Bool :=
  (tksOf s).any fun k => dFamily k.desc == some .loadstat && (k.phase == .issued || k.phase == .running)
    && tkUnit s k == .engine e

/-- The shadow set is swap-ready under an epoch, or its tile was so and has been lost since: then the swap leaves the active set
empty, for the next MATMUL to meet (R29, R45; log entry 92). -/
def swapReady (s : State) (e : Eng) (ep : BitVec 16) : Bool :=
  ((s.engines[e]).shadow.any fun t => t.ready && t.epoch == ep) || (s.engines[e]).shadowLost.any fun p => p.2 == ep

/-- SWAP: the token reaches the engine. With the shadow set empty and no load outstanding it ends with INVALID at once; so it does
where the set stands filled under another epoch, for which R29 has no case (DEDUCED, log entry 65). -/
def execSwap (t : TicketId) (s : State) : Outcome State Fault Refusal :=
  match beginTk s t (isFn .swap 0)
      (fun s k => (s.engines[tkEng s k]).swapTok.isNone)
      (fun s k =>
        let e := tkEng s k
        !engRetired s e && (swapReady s e (dEpoch k.desc) || loadOutstanding s e)) with
  | .wait => .next s
  | .ended s1 => .next (settle s s1)
  | .ok s1 k => .next (settle s (modEng s1 (tkEng s1 k) fun r => { r with swapTok := some t }))

/-- Where tiles are counted for R40: by CALL and UNIT, or by slot and UNIT for ring H. -/
def tileKey (k : Tk) : Nat :=
  8 * (match k.parent with | some c => callPlace c | none => (dSlot k.desc).val) + (dUnit k.desc).val

/-- Whether the tile that a SWAP starts is checked (R40, R42, R311). -/
def tileChecks (s : State) (e : Eng) (k : Tk) (shape : Nat) : Bool :=
  checkable shape &&
  ((s.engines[e]).state == .observed ||
   match (profileOn s (dSlot k.desc) (.engine e)).1.integrity with
   | .lean => (sparseGet 0 s.tileCounts (tileKey k) + k.dataStep.toNat) % 8 == 0
   | _ => true)

/-- SWAP_EXECUTE: between wavefronts, the shadow set becomes the active set. -/
def execSwapExecute (e : Eng) (s : State) : Outcome State Fault Refusal :=
  let r := s.engines[e]
  match r.swapTok with
  | none => .next s
  | some t =>
    match getTk s t with
    | none => .next s
    | some k =>
      if !engRuns s e || r.run.isSome then .next s
      else if unitWrong s k [] then .next (settle s (unitFault s k))
      else match r.shadow with
        | some tile =>
          if !swapReady s e (dEpoch k.desc) then .next s
          else
            let checks := tileChecks s e k tile.shape.toNat
            let s1 := modEng s e fun r =>
              { r with active := some tile, shadow := none, swapTok := none, emptied := false, freshSwap := true, tileChecked := checks, scrubRow := 0 }
            let s2 := { s1 with tileCounts := hit s1.tileCounts (tileKey k) }
            .next (settle s (modTk s2 t (endTk [] 0)))
        | none =>
          if r.shadowLost.any (fun p => p.2 == dEpoch k.desc) then
            .next (settle s (modTk (modEng s e fun r =>
              { r with active := none, emptied := true, shadowLost := none, swapTok := none, freshSwap := true }) t (endTk [] 0)))
          else if loadOutstanding s e then .next s
          else .next (settle s (refuse (modEng s e fun r => { r with swapTok := none }) t))

/-! ## Tokens (R26, R69, R344) -/

/-- ADMISSION_TOKEN: the pace limiter grants an engine that runs a descriptor one token; no more than 8 stand unused. A pending
load may use each token for one step too. -/
def execAdmissionToken (e : Eng) (s : State) : Outcome State Fault Refusal :=
  if !engRuns s e || !engWorks s e then .next s
  else
    let up (x : Fin 9) : Fin 9 := if x = 8 then 8 else x + 1
    .next (settle s (modEng s e fun r =>
      { r with tokens := up r.tokens, loadTokens := if r.load.isSome then up r.loadTokens else 0 }))

/-! ## Rounds (R60 to R68, R73) -/

/-- A MATMUL under way ends with INVALID. -/
def refuseRun (s : State) (e : Eng) (t : TicketId) : State := modEng (refuse s t) e fun r => { r with run := none }

/-- The entry that input i of a MATMUL reads: the head. With KEEP 1b the entries that it has read stay, and it reads on behind them
and keeps them all: which entry comes next where T needs more than one the manual does not say (R68; DESIGN CHOICE, log entry 93). -/
def inputEntry (s : State) (k : Tk) (i : Nat) (ir : InRun) : Option (Nat × Entry) :=
  (dInQ k.desc i).bind fun q =>
    (((entriesOf s k.shelf q).filter fun e => !e.freed)[if keeps k.desc i then ir.entries else 0]?).map fun e => (q, e)

/-- A streamed entry keeps R66 and ends within the T rows (R154). -/
def streamEntryOk (d : Desc) (i : Nat) (e : Entry) (left : Nat) : Bool :=
  let fmt := dFmtIn d 0
  (if colWise d i then e.rows == shapeInBytes (dShape d) (dParam d) / codeBytes fmt else e.pitch == shapePitch (dShape d))
    && decide (operandRows e fmt (colWise d i) ≤ left)

/-- RG16 values read column-wise lie together; on the row buses value m of chunk c takes place 32c + m (R65; log entry 42). -/
def spreadRow (d : Desc) (i : Nat) (o : OpRow) : OpRow :=
  if dShape d = 3 && colWise d i then
    { o with bytes := (List.range 512).map fun v => if v % 32 < dParam d then o.bytes.getD (v / 32 * dParam d + v % 32) 0 else 0 }
  else o

/-- A round is the last of its entry. -/
def lastRound (en : Entry) (fmt : Nat) (col : Bool) (round : Nat) : Bool :=
  decide (operandRows en fmt col * colRounds col en.rows ≤ (round + 1) * roundRows fmt col)
    && round % colRounds col en.rows + 1 == colRounds col en.rows

/-- An input once the rows of its next round are there: they are in hand once every round of their block column has been read. -/
def roundTaken (d : Desc) (i : Nat) (en : Entry) (ir : InRun) (rows : List OpRow) : InRun :=
  let fmt := dFmtIn d 0
  let col := colWise d i
  let parts := colRounds col en.rows
  let last := lastRound en fmt col ir.round
  let whole := joinHalves ir.half rows
  let r : InRun := { ir with round := if last then 0 else ir.round + 1, entries := if last then ir.entries + 1 else ir.entries }
  if ir.round % parts + 1 = parts then
    { r with half := [], buf := ir.buf ++ (whole.take (operandRows en fmt col - ir.round / parts * roundRows fmt col)).map (spreadRow d i) }
  else { r with half := whole }

/-- A round of a MATMUL's input. -/
def streamRound (s : State) (e : Eng) (i : Fin 4) (word : Nat) (code : Ecc) : Option State :=
  match (s.engines[e]).run with
  | none => none
  | some a =>
    match getTk s a.ticket with
    | none => none
    | some k =>
      let d := k.desc
      let ir := a.ins[i]
      let fmt := dFmtIn d 0
      let col := colWise d i.val
      let per := roundRows fmt col
      let seen := a.done + ir.buf.length
      if shapeInputs (dShape d) ≤ i.val || a.t ≤ seen || per < ir.buf.length then none
      else match inputEntry s k i.val ir with
        | none => none
        | some (q, en) =>
          if ir.round = 0 && !popTurn s k q then none
          else if ir.round = 0 && !streamEntryOk d i.val en (a.t - seen) then some (refuseRun s e a.ticket)
          else if !roundReady en col ir.round then none
          else
            let x := carouselRead s e a.ticket en fmt col en.rows ir.round word code
            let s2 := if lastRound en fmt col ir.round && !keeps d i.val then freeEntry x.1 k.shelf q en.id else x.1
            some (modEng s2 e fun r => { r with run := r.run.map fun a => { a with ins := a.ins.set i (roundTaken d i.val en ir x.2) } })

/-- The MATMUL that has the array next: of those issued to an engine and not begun, the one issued first. -/
def nextMatmul (s : State) (e : Eng) : Option Tk :=
  ((tksOf s).filter fun k => dFamily k.desc == some .matmul && dAccMode k.desc != .accept && k.phase == .issued && tkUnit s k == .engine e).foldl
    (fun (a : Option Tk) k => match a with | none => some k | some b => if k.issueNo < b.issueNo then some k else some b) none

/-- What has been read ahead for a MATMUL. -/
def aheadOf (r : EngineR) (k : Tk) : Vector InRun 4 :=
  match r.ahead with
  | some (inst, ins) => if inst = k.inst then ins else Vector.replicate 4 {}
  | none => Vector.replicate 4 {}

/-- A round of the first rows of the next MATMUL's tile, read as soon as they can be, ahead of the swap token: two rounds are in hand
for each input, those of the MATMUL under way with them. Its first entry alone is read so, and stays where it is until it begins
(R63). -/
def aheadRound (s : State) (e : Eng) (i : Fin 4) (word : Nat) (code : Ecc) : Option State :=
  match nextMatmul s e with
  | none => none
  | some k =>
    let d := k.desc
    let ins := aheadOf s.engines[e] k
    let ir := ins[i]
    let fmt := dFmtIn d 0
    let col := colWise d i.val
    let held := ((s.engines[e]).run.map fun a => (a.ins[i]).buf.length).getD 0
    if shapeInputs (dShape d) ≤ i.val || !inputUsable s k i.val || ir.entries != 0 || dT d ≤ ir.buf.length || roundRows fmt col < held + ir.buf.length
    then none
    else match inputEntry s k i.val ir with
      | none => none
      | some (q, en) =>
        if !popTurn s k q || !streamEntryOk d i.val en (dT d) || !roundReady en col ir.round then none
        else
          let x := carouselRead s e k.ticket en fmt col en.rows ir.round word code
          some (modEng x.1 e fun r => { r with ahead := some (k.inst, ins.set i (roundTaken d i.val en ir x.2)) })

/-- A round of the stationary load. An L4w tile's exponent rows are read row-wise in either orientation (R71). -/
def loadRound (s : State) (e : Eng) (word : Nat) (code : Ecc) : Option State :=
  match (s.engines[e]).load with
  | none => none
  | some l =>
    match getTk s l.ticket with
    | none => none
    | some k =>
      let d := k.desc
      let fmt := dFmtIn d 0
      let l4w := decide (dShape d = 6 ∨ dShape d = 7)
      let seen := l.step + l.inp.buf.length
      let col := colWise d 0 && !(l4w && 512 ≤ seen)
      let per := roundRows fmt col
      if l.total ≤ seen || per < l.inp.buf.length then none
      else match dInQ d 0, (dInQ d 0).bind fun q => headEntry s k.shelf q with
        | some _, some en =>
          let round := seen / per
          if !roundReady en col round then none
          else
            let x := carouselRead s e l.ticket en fmt col (if l4w && col then 512 else en.rows) round word code
            some (modEng x.1 e fun r => { r with load := r.load.map fun l =>
              { l with inp := { l.inp with round := l.inp.round + 1, buf := l.inp.buf ++ x.2 } } })
        | _, _ => none

/-- CAROUSEL_ROUND: the Carousel reads one round of an input, or of the stationary load (`input` 4), into a transpose buffer;
`code` is what has arisen in the word of the round that `word` counts. -/
def execCarouselRound (e : Eng) (input : Fin 5) (word : Fin 1024) (code : Ecc) (s : State) : Outcome State Fault Refusal :=
  if !engRuns s e then .next s
  else
    let r := if h : input.val < 4 then
        match streamRound s e ⟨input.val, h⟩ word.val code with
        | some s1 => some s1
        | none => aheadRound s e ⟨input.val, h⟩ word.val code
      else loadRound s e word.val code
    match r with
    | some s1 => .next (settle s s1)
    | none => .next s

/-- CORRECTED_WRITEBACK: the corrected word of queue storage whose write-back has been due longest is written back (R60). -/
def execCorrectedWriteback (e : Eng) (s : State) : Outcome State Fault Refusal :=
  match (s.engines[e]).writebacks with
  | [] => .next s
  | w :: _ => if !engRuns s e then .next s else .next (settle s (renewWords s e (· == w.val)))

/-! ## WAVEFRONT (R25, R38, R39, R41, R44 to R46, R291 to R295) -/

/-- Failures of a MATMUL on engine e, each with its cause, WHERE and DETAIL: they are logged up to 16, `start` of them before, and
counted only from there on; residue failures have a counter of their own. The ticket notes the columns and chunks that the log names
(R293, R295, R310, R314). -/
def noteFails (s : State) (e : Eng) (k : Tk) (start : Nat) (items : List (Nat × Nat × Nat)) : State :=
  let room := items.take (16 - start)
  let residues := items.filter fun i => i.1 = 0x03
  let s := room.foldl (fun s i => logTk s i.1 (unitByte 1 e.val) k i.2.1 i.2.2) s
  let s := { s with integrity := { s.integrity with residueFailures := residues.foldl (fun x _ => countUp x) s.integrity.residueFailures } }
  modTk s k.ticket fun q =>
    { (if residues.isEmpty then id else addCause .residue) ((if residues.length = items.length then id else addCause .checksum) q) with
      hitCols := q.hitCols ++ ((room.filter fun i => i.1 != 0x01).map fun i => i.2.1)
      hitChunks := q.hitChunks ++ ((room.filter fun i => i.1 != 0x02).map fun i => if i.1 = 0x01 then i.2.1 else i.2.2) }

/-- The failures of one wavefront: columns of a check wavefront, chunks of R38, residues of R292 of chunk sums and of promotions. -/
structure WaveFails where
  cols : List Nat
  chunks : List Nat
  residues : List (Nat × Nat)
  deriving DecidableEq, Repr

/-- The failures of a wavefront, noted on the ticket and the run. The mismatch count takes the comparisons of R38 and R39 alone (R54;
log entry 53). The MATMUL goes on (R41). -/
def recordFails (s : State) (e : Eng) (k : Tk) (f : WaveFails) : State :=
  let phys (n : Nat) : Nat := physIndex (s.engines[e]).retiredCols n
  let items : List (Nat × Nat × Nat) :=
    f.cols.map (fun n => (0x02, phys n, 0)) ++ f.chunks.map (fun j => (0x01, j, 0)) ++ f.residues.map fun p => (0x03, phys p.1, p.2)
  let start := match (s.engines[e]).run with | some a => a.logged | none => 0
  let sums := f.cols.length + f.chunks.length
  noteFails (modEng s e fun r =>
    { r with
      mismatches := (List.range sums).foldl (fun x _ => countUp x) r.mismatches
      run := r.run.map fun a => { a with
        logged := start + items.length
        failed := match a.failed with
          | some x => some x
          | none => (f.cols ++ f.chunks).head? } }) e k start items

/-- A MATMUL's array work ends: guard count, end token, record data (R120, R122, R157). -/
def endMatmul (s : State) (e : Eng) (k : Tk) (causes : List Status) : State :=
  match (s.engines[e]).run with
  | none => s
  | some a =>
    let m := dAccSet k.desc
    let s := guardMatmul (modEng s e fun r => { r with run := none }) e k
    let clean := a.checked && !a.cause && decide (a.t < a.wavefronts) && causes.isEmpty && !((getTk s k.ticket).any fun q => q.causes.any suspectStatus)
    let s := if clean then cleanTile s e else s
    let s := passToken s e m
    modTk s k.ticket (endTk causes (a.failed.getD 0 * 2 ^ 32 + a.wavefronts))

/-- The scrubbers advance with an admitted wavefront (R44, R311). The queue-storage scrubber corrects the word that it reads: its
write-back is due, and a push may overtake it (R61). A double-bit error waits there for the pop that meets it (log entry 66). -/
def advanceScrub (s : State) (e : Eng) : State :=
  let w := (s.engines[e]).scrubWord.val
  let s := if wordFinding s e w = .corrected then dueWriteback s e w else s
  modEng s e fun r =>
    { r with scrubRow := r.scrubRow + (if r.state = .observed then 2 else 1), scrubWord := r.scrubWord + 1 }

/-- Whether the active scrubber reads a row with this wavefront. -/
def scrubs (r : EngineR) (row : Fin 513) : Bool := row == r.scrubRow || (r.state == .observed && row == r.scrubRow + 1)

/-- The operand rows at hand of the inputs that the shape uses; none while one is missing. -/
def waveRows (a : ArrayRun) (shape : Nat) : Option (List OpRow) :=
  ((List.finRange 4).take (shapeInputs shape)).foldr (fun i acc =>
    match (a.ins[i]).buf, acc with
    | o :: _, some l => some (o :: l)
    | _, _ => none) (some [])

/-- The operand rows with free bytes in the place of poisoned ones. -/
def unpoison : List OpRow → State → State × List OpRow
  | [], s => (s, [])
  | o :: l, s =>
    let r := if o.poison then freeBytes o.bytes.length s else (s, o.bytes)
    let t := unpoison l r.1
    (t.1, { o with bytes := r.2 } :: t.2)

/-- The last bank row that a wavefront reaches within its set, for a SEED that waits for its totals (R128). -/
def lastReached (d : Desc) (t row : Nat) : Nat := 8 * dOff8 d + (shapeG (dShape d) - 1) * t + row

/-- The totals that a SEED still waits for keep a wavefront back. -/
def seedWaits (s : State) (e : Eng) (d : Desc) (a : ArrayRun) : Bool :=
  match (accSet s e (dAccSet d)).incoming with
  | some i => i.seed && decide (i.arrived ≤ lastReached d a.t a.done)
  | none => false

/-- The check wavefront of R39: its sums go to the check logic only. Its column totals alone are compared: whether the chunk
comparison of R38 runs on it too the manual does not say (DESIGN CHOICE, log entry 94). -/
def checkWave (s : State) (e : Eng) (k : Tk) (tile : Tile) (f : ArrayFault) : State :=
  let fails : WaveFails :=
    { cols := if tileSpecial tile then [] else failingColumns tile f.tree, chunks := [], residues := failingResidues f.tree }
  let s := modEng s e fun r => { r with run := r.run.map fun a => { a with checkDue := false, wavefronts := a.wavefronts + 1 } }
  recordFails s e k fails

/-- A wavefront of streamed rows: chunk sums are checked and promoted. The checksum cells of an unchecked tile stay idle (R40). -/
def dataWave (s : State) (e : Eng) (k : Tk) (a : ArrayRun) (tile : Tile) (rows : List OpRow) (f : ArrayFault) : State :=
  let d := k.desc
  let m := dAccSet d
  let s := modEng s e fun r => { r with run := r.run.map fun a =>
    { a with done := a.done + 1, wavefronts := a.wavefronts + 1,
             ins := a.ins.map fun i => { i with buf := i.buf.drop 1 } } }
  let tree := f.tree.filter fun p => a.checked || decide (p.1 < 512)
  let sides := rows.map (·.side)
  if !ownersOk tile sides then refuseRun s e a.ticket
  else
    let r := unpoison rows s
    let s := r.1
    let xs := streamed tile.shape.toNat tile.param.toNat (dFmtIn d 0) (r.2.map (·.bytes))
    let fails : WaveFails :=
      { cols := [], chunks := if a.checked && !tileSpecial tile then failingChunks tile xs tree else [],
        residues := failingResidues tree }
    let s := recordFails s e k fails
    let set := accSet s e m
    let s :=
      if set.state != .opened then s
      else
        let base := set.base + 8 * dOff8 d
        if a.scalePoison then poisonWave s e tile sides base a.t a.done
        else
          let at_ (r c : Nat) : Bool := (reached tile sides).any fun p => base + p.1 * a.t + a.done == r && p.2 == c
          let s := promoteWave (bankFindings s e at_ f.bank) e tile xs sides tree (a.sigmaA + a.sigmaB) base a.t a.done
          let wrong := f.promo.filter fun p => at_ p.row.val p.col.val
          recordFails (failPromotions s e wrong) e k { cols := [], chunks := [], residues := wrong.map fun p => (p.col.val, p.chunk.val) }
    if a.t ≤ a.done + 1 then endMatmul s e k (if a.scalePoison then [.eccUncorr] else []) else s

/-- WAVEFRONT: the engine admits one wavefront with a token; `fault` is what the physical array adds to it. -/
def execWavefront (e : Eng) (fault : ArrayFault) (s : State) : Outcome State Fault Refusal :=
  let r := s.engines[e]
  match r.run, r.active with
  | some a, some t0 =>
    match getTk s a.ticket with
    | none => .next s
    | some k =>
      if !engRuns s e || r.tokens = 0 then .next s
      else if unitWrong s k [] then .next (settle s (unitFault s k))
      else
        let tile := { t0 with shape := BitVec.ofNat 4 (dShape k.desc), param := BitVec.ofNat 8 (dParam k.desc) }
        let rows := waveRows a (dShape k.desc)
        if !a.checkDue && (rows.isNone || seedWaits s e k.desc a) then .next s
        else
          let hitRow := scrubs r fault.scrubRow
          let s1 := advanceScrub (modEng s e fun r => { r with tokens := r.tokens - 1 }) e
          if hitRow && fault.scrub == .uncorrectable then
            let s2 := modEng (statEmptied s1 e true) e fun r => { r with run := r.run.map fun a => { a with wavefronts := a.wavefronts + 1 } }
            .next (settle s (endMatmul s2 e k [.eccUncorr]))
          else
            let s2 := modEng (if hitRow && fault.scrub == .corrected then statCorrected s1 e a.ticket fault.scrubRow.val else s1) e fun r => { r with freshSwap := false }
            if (s2.engines[e]).run.isNone then .next (settle s s2)
            else .next (settle s (if a.checkDue then checkWave s2 e k tile fault else dataWave s2 e k a tile (rows.getD []) fault))
  | _, _ => .next s

end Sys2Proof.Machine
end

