-- ==== Sys2Proof/Machine/Lane.lean ====
section
/-! DEFINITION. What a lane computes: the functions of R103 within their bound, and the element functions and row sums of R156
built on them in binary32 (R102, R103, R156). -/

namespace Sys2Proof.Machine

def f32Zero : BitVec 32 := 0
def f32Half : BitVec 32 := 0x3F000000
def f32One : BitVec 32 := 0x3F800000
def f32Two : BitVec 32 := 0x40000000
def f32NaN : BitVec 32 := 0x7FC00000

def f32Neg (x : BitVec 32) : BitVec 32 := x ^^^ 0x80000000

/-! ## Reference values (R103)

The real value of a function, as a `Val` that is off by far less than a unit in the last place of binary32. The work is done in
whole numbers of 2⁻⁵¹². -/

/-- Fraction bits of the work. -/
def workBits : Nat := 512

/-- A finite magnitude in units of 2⁻⁵¹². -/
def workOf (m : Nat) (e : Int) : Nat := floorUnits m e (-512)

/-- Σ x^k / k! from the term t of index k − 1 on, n terms. -/
def expTerms (x : Nat) : Nat → Nat → Nat → Nat
  | 0, _, _ => 0
  | n + 1, k, t =>
    let t := t * x / 2 ^ workBits / k
    t + expTerms x n (k + 1) t

/-- e^x − 1 for x ≥ 0. -/
def expLess1 (x : Nat) : Nat := expTerms x 300 1 (2 ^ workBits)

/-- e^a: by its series where a ≥ 0, as the reciprocal below, and past binary32's range from a magnitude of 128 on. -/
def expRef : Val → Val
  | .nan => .nan
  | .inf s => if s then .fin false 0 0 else .inf false
  | .fin s m e =>
    if !Val.magLt (.fin false m e) (.fin false 128 0) then .fin false 1 (if s then -200 else 200)
    else
      let y := 2 ^ workBits + expLess1 (workOf m e)
      .fin false (if s then 2 ^ (2 * workBits) / y else y) (-512)

/-- tanh of a magnitude below 16: (e^2x − 1) ÷ (e^2x + 1). -/
def tanhWork (x : Nat) : Nat :=
  let y := expLess1 (2 * x)
  y * 2 ^ workBits / (y + 2 * 2 ^ workBits)

/-- The terms x^(2k+1) / (k! (2k+1)) of the series of erf, those of even and those of odd k summed apart; t is x^(2k+1) / k!. -/
def erfTerms (x2 : Nat) : Nat → Nat → Nat → Nat × Nat
  | 0, _, _ => (0, 0)
  | n + 1, k, t =>
    let r := erfTerms x2 n (k + 1) (t * x2 / 2 ^ workBits / (k + 1))
    let a := t / (2 * k + 1)
    if k % 2 = 0 then (r.1 + a, r.2) else (r.1, r.2 + a)

/-- 2 ÷ √π in units of 2⁻¹²⁸. -/
def twoOverRootPi : Nat := 0x120dd750429b6d11ae3a914fed7fd8688

/-- erf of a magnitude below 6. -/
def erfWork (x : Nat) : Nat :=
  let r := erfTerms (x * x / 2 ^ workBits) 400 0 x
  (r.1 - r.2) * twoOverRootPi / 2 ^ 128

/-- An odd function with limit 1: its work below `bound`, ±1 from there on, where it is off by less than 2⁻⁵⁰. -/
def oddRef (work : Nat → Nat) (bound : Nat) : Val → Val
  | .nan => .nan
  | .inf s => .fin s 1 0
  | .fin s m e =>
    if m = 0 then .fin s 0 0
    else if Val.magLt (.fin false m e) (.fin false bound 0) then .fin s (work (workOf m e)) (-512)
    else .fin s 1 0

def tanhRef : Val → Val := oddRef tanhWork 16
def erfRef : Val → Val := oddRef erfWork 6

/-- 1 ÷ √(m × 2^e) for m > 0: the square root of 2²⁰⁰ ÷ m. -/
def rsqrtPos (m : Nat) (e : Int) : Val :=
  let r := (e % 2).toNat
  let q := 2 ^ 200 / (m * 2 ^ r)
  .fin false (sqrtBits (q.log2 / 2 + 1) q 0) (-100 - (e - r) / 2)

/-! ## Within two units in the last place (R103) -/

/-- A binary32 word moved by k places in the order of its values, the sign kept. -/
def moveUlps (x : BitVec 32) (k : Int) : BitVec 32 :=
  let n : Int := (x.toNat % 2 ^ 31 : Nat)
  BitVec.ofNat 32 (x.toNat / 2 ^ 31 * 2 ^ 31 + (max 0 (min 0x7F7FFFFF (n + k))).toNat)

/-- Two units in the last place of binary32 at a value. -/
def twoUlps : Val → Val
  | .fin _ m e => .fin false 2 (gridAt 24 (-149) m e)
  | v => v

/-- A finite non-zero result within two units in the last place of its reference value: the word that is free within that bound
(R103; log entry 5). -/
def nearRef (code : BitVec 8) (a : BitVec 32) (ref : Val) : BitVec 32 :=
  let y := f32Of ref
  let z := moveUlps y ((Config.laneError code a).val - 2)
  if Val.magLt (twoUlps ref) ((f32Val z).add ref.neg) then y else z

/-- A function of R103: its reference value where that is not finite or is 0, and within the bound elsewhere. -/
def laneFn (code : BitVec 8) (ref : Val → Val) (a : BitVec 32) : BitVec 32 :=
  match ref (f32Val a) with
  | .fin s m e => if m = 0 then f32Of (.fin s 0 0) else nearRef code a (.fin s m e)
  | v => f32Of v

/-- tanh, erf and reciprocal square root, by their codes for the free error. 1 ÷ √a is formed as such where a is not a positive
number. -/
def f32Tanh (a : BitVec 32) : BitVec 32 := laneFn 0 tanhRef a
def f32Erf (a : BitVec 32) : BitVec 32 := laneFn 1 erfRef a
def f32Rsqrt (a : BitVec 32) : BitVec 32 :=
  match f32Val a with
  | .fin false (m + 1) e => nearRef 2 a (rsqrtPos (m + 1) e)
  | _ => f32Div f32One (f32Sqrt a)

/-- e^a. R103 bounds exp2, which forms it; its bound is taken for e^a (DEDUCED, log entry 5). -/
def f32Exp (a : BitVec 32) : BitVec 32 := laneFn 3 expRef a

/-! ## Element functions (R156) -/

/-- RELU of a binary32 value. -/
def f32Relu (a : BitVec 32) : BitVec 32 :=
  match f32Val a with
  | .nan => f32NaN
  | v => if Val.lt .zero v then a else f32Zero

/-- a × ½(1 + erf(a ÷ √2)). -/
def f32Gelu (a : BitVec 32) : BitVec 32 :=
  f32Mul a (f32Mul f32Half (f32Add f32One (f32Erf (f32Div a (f32Sqrt f32Two)))))

/-- a ÷ (1 + e^−a). -/
def f32Silu (a : BitVec 32) : BitVec 32 := f32Div a (f32Add f32One (f32Exp (f32Neg a)))

/-- The element functions of one input, codes 01h to 08h. -/
def elementFn (code : Nat) (k0 a : BitVec 32) : BitVec 32 :=
  match code with
  | 2 => f32Relu a
  | 3 => f32Gelu a
  | 4 => f32Silu a
  | 5 => f32Tanh a
  | 6 => f32Exp a
  | 7 => f32Rsqrt a
  | 8 => f32Mul k0 a
  | _ => a

/-- The functions of two and three inputs that work element by element. -/
def elementFn3 (code : Nat) (a b c : BitVec 32) : BitVec 32 :=
  match code with
  | 0x10 => f32Add a b
  | 0x11 => f32Mul a b
  | 0x12 => f32Fma a b c
  | 0x13 => f32Mul (f32Silu a) b
  | _ => a

/-! ## Sums across a row (R156) -/

/-- Two places i and j of a list give way to the sum of what they hold, which goes to the end. -/
def mergeAt (l : List (BitVec 32)) (i j : Nat) : List (BitVec 32) :=
  let i := i % max l.length 1
  let rest := l.eraseIdx i
  let j := j % max rest.length 1
  rest.eraseIdx j ++ [f32Add (l.getD i 0) (rest.getD j 0)]

/-- A sum across a row of n values: n − 1 additions in a fixed order that depends on n alone and is not stated (R156; log entry
6). -/
def rowSum (l : List (BitVec 32)) : BitVec 32 :=
  ((List.range (l.length - 1)).foldl (fun r i => mergeAt r (Config.sumOrder l.length i).1 (Config.sumOrder l.length i).2) l).headD 0

end Sys2Proof.Machine
end

