-- ==== Sys2Proof/Machine/Convert.lean ====
section
/-! DEFINITION. What DRAIN, VEC and CONVERT share: elements of popped entries, conversion into an output format with its
capture, and outputs to queue ends and memory (R87 to R95, R102, R104, R123, R124, R434, R436). -/

namespace Sys2Proof.Machine

/-! ## Reading entries (R434) -/

/-- The stored rows of an entry's data, with free bytes in the place of poisoned rows (R45; log entry 12). -/
def entryImage : List Nat → Entry → State → State × List (List Byte)
  | [], _, s => (s, [])
  | r :: l, e, s =>
    let x := if e.poison.contains r then freeBytes e.pitch s else (s, entryRow e r)
    let t := entryImage l e x.1
    (t.1, x.2 :: t.2)

/-- Elements of an L4w entry as its logical tile, each with its block exponent (R67, R71, R192): row-paired 1,024 rows of 512,
column-paired 512 rows of 1,024. -/
def l4wElements (packed : Bool) (rows : List (List Byte)) : List Val :=
  let byte (r c : Nat) : Byte := (rows.getD r []).getD c 0
  let ex (r c : Nat) : Int := (byte (512 + r) c).toInt
  if packed then
    (List.range 512).flatMap fun k => (List.range 1024).map fun n =>
      let c := n % 512
      (nibbleVal (byte k c) (n / 512)).scale (ex (c / 16) (32 * (c % 16) + 16 * (n / 512) + k / 32))
  else
    (List.range 1024).flatMap fun k => (List.range 512).map fun n =>
      (nibbleVal (byte (k % 512) n) (k / 512)).scale (ex (k / 32) n)

/-- Elements that an entry holds in a format. -/
def entryCount (e : Entry) (f : Fmt) : Nat := if f = .l4w then 524288 else e.rows * (e.pitch / f.bytes)

/-- The elements of an entry, in order; rows beyond the `n` elements wanted are not read. -/
def entryElements (s : State) (e : Entry) (f : Fmt) (n : Nat) : State × List Val :=
  if f = .l4w then
    let r := entryImage (List.range e.rows) e s
    (r.1, l4wElements e.colPacked r.2)
  else
    let per := e.pitch / f.bytes
    let r := entryImage (List.range (min e.rows ((n + per - 1) / max per 1))) e s
    (r.1, (r.2.flatMap fun b => codesOf f b).map (fmtVal f))

/-- The whole entries from the head on that cover n elements; none while one is missing or incomplete. -/
def coverEntries (f : Fmt) : List Entry → Nat → Option (List Entry)
  | _, 0 => some []
  | [], _ => none
  | e :: l, n => if entryComplete e then (coverEntries f l (n - entryCount e f)).map (e :: ·) else none

/-- What an input yields: the state after the entries are freed, the elements, whether a row was poisoned, and whether a
double-bit error of queue storage poisoned one. -/
structure Taken where
  s : State
  vals : List Val
  bad : Bool
  lost : Bool

/-- An entry as a pop finds it: a double-bit error poisons its stored row (R45). -/
def poppedEntry (s : State) (d : Shelf) (q : Nat) (e : Entry) : Entry :=
  { e with poison := ((meetWords s (qEngine s d (qEntry s d q)) e fun _ j => inWidth e j).doubles.map (·.1)).foldl addOnce e.poison }

/-- The n elements that popped entries hold, with free values in the place of poisoned ones. -/
def entriesVals (s : State) (f : Fmt) (n : Nat) (es : List Entry) : State × List Val :=
  let r := es.foldl (fun (a : State × List Val) e =>
    let x := entryElements a.1 e f (n - a.2.length)
    (x.1, a.2 ++ x.2)) (s, [])
  (r.1, r.2.take n)

/-- Entries that a descriptor has popped are noted with it, for its repeat (R309). -/
def notePopped (s : State) (k : Tk) (q : Nat) (es : List Entry) : State :=
  if k.away then s else modTk s k.ticket fun x => { x with popped := x.popped ++ es.map fun e => (q, e) }

/-- Pops the entries that cover n elements of input i. -/
def takeInput (s : State) (k : Tk) (i n : Nat) : Option Taken :=
  match dInQ k.desc i, dIn k.desc i with
  | some q, some f =>
    let live := (entriesOf s k.shelf q).filter fun e => !e.freed
    match coverEntries f live n with
    | none => none
    | some held =>
      let es := held.map (poppedEntry s k.shelf q)
      let r := entriesVals s f n es
      let s := notePopped (es.foldl (fun s e => freeEntry s k.shelf q e.id) r.1) k q es
      some { s := s, vals := r.2, bad := es.any entryPoisoned, lost := (es.zip held).any fun p => p.1.poison != p.2.poison }
  | _, _ => none

/-- What several inputs yield. -/
structure TakenAll where
  s : State
  vals : List (List Val)
  bad : Bool
  lost : Bool

/-- Inputs 0 to m − 1, in order. -/
def takeInputs (s : State) (k : Tk) (n : Nat) : Nat → Option TakenAll
  | 0 => some { s := s, vals := [], bad := false, lost := false }
  | m + 1 =>
    match takeInputs s k n m with
    | none => none
    | some a =>
      match takeInput a.s k m n with
      | none => none
      | some t => some { s := t.s, vals := a.vals ++ [t.vals], bad := a.bad || t.bad, lost := a.lost || t.lost }

/-- Elements of input i that the entries popped so far hold. -/
def gotCount (d : Desc) (r : VecRun) (i : Nat) : Nat :=
  match dIn d i with
  | some f => (r.got.getD i []).foldl (fun a e => a + entryCount e f) 0
  | none => 0

/-- Every one of m inputs has n elements in hand. -/
def gotAllInputs (d : Desc) (r : VecRun) (n m : Nat) : Bool := (List.range m).all fun i => decide (n ≤ gotCount d r i)

/-- Pops the head entry of input i where it is wanted and complete (R434). -/
def drawEntry (s : State) (k : Tk) (n i : Nat) (r : VecRun) : Option (State × VecRun) :=
  match dInQ k.desc i with
  | none => none
  | some q =>
    match headEntry s k.shelf q with
    | none => none
    | some e =>
      if n ≤ gotCount k.desc r i || !entryComplete e then none
      else
        let p := poppedEntry s k.shelf q e
        some (notePopped (freeEntry s k.shelf q e.id) k q [p],
          { r with got := (List.range (max r.got.length (i + 1))).map fun x => r.got.getD x [] ++ (if x = i then [p] else []),
                   lost := r.lost || p.poison != e.poison })

/-- Pops what there is to pop of m inputs; `fuel` bounds the entries. -/
def drawEntries (k : Tk) (n m : Nat) : Nat → State × VecRun → State × VecRun
  | 0, x => x
  | fuel + 1, x =>
    match (List.range m).findSome? fun i => drawEntry x.1 k n i x.2 with
    | some y => drawEntries k n m fuel y
    | none => x

/-- The inputs as the entries popped give them. -/
def drawnInputs (s : State) (k : Tk) (n m : Nat) (r : VecRun) : TakenAll :=
  let x := (List.range m).foldl (fun (a : State × List (List Val)) i =>
    let y := match dIn k.desc i with
      | some f => entriesVals a.1 f n (r.got.getD i [])
      | none => (a.1, [])
    (y.1, a.2 ++ [y.2])) (s, [])
  { s := x.1, vals := x.2, bad := r.got.any fun l => l.any entryPoisoned, lost := r.lost }

/-- Every consumer fetched earlier has popped (R149). -/
def popsTurn (s : State) (k : Tk) : Bool := (pops k.desc).all fun q => popTurn s k q

/-! ## Converting (R87, R95, R104, R123, R124) -/

/-- An output tensor of a descriptor: format, scale exponent, tensor ID, domain, and whether its scale entry is poisoned. -/
structure Target where
  fmt : Fmt
  sigma : Int
  tid : Nat
  domain : Nat
  b : Nat
  /-- The 16 bits of a draw replace RNE where the format takes SR, unless an import chose RNE (R88). -/
  sr : Bool
  poison : Bool
  deriving DecidableEq, Repr

/-- Codes, capture and whether a NaN or an infinity was written or turned into 0. -/
structure Written where
  codes : List Nat
  capture : Byte
  nonfinite : Bool
  deriving DecidableEq, Repr

/-- One element's code: its real value scaled and rounded; a poisoned one is the target's NaN, 0 in L4w. -/
def elementCode (key : BitVec 64) (t : Target) (index : Nat) (v : Option Val) : Nat :=
  match v with
  | none => fmtNan t.fmt
  | some v => fmtCode t.fmt (if t.sr then drawFor t.fmt { key := key, b := t.b } index else none) (v.scale (-t.sigma))

/-- Whether an element counts as a NaN or an infinity written (R104). -/
def elementBad (t : Target) (code : Nat) (v : Option Val) : Bool :=
  match v with
  | none => true
  | some v => v.special || (t.fmt != .l4w && (fmtVal t.fmt code).special)

/-- Converts elements given by logical index and real value, none for a poisoned one; `capPoison` lets a poisoned element
enter the capture as a non-finite value (R124). -/
def convertAll (key : BitVec 64) (t : Target) (capPoison : Bool) (l : List (Nat × Option Val)) : Written :=
  let l := if t.poison then l.map fun p => (p.1, none) else l
  let codes := l.map fun p => elementCode key t p.1 p.2
  let seen := l.filterMap fun p => if p.2.isNone && capPoison then some Val.nan else p.2
  { codes := codes, capture := captureOf seen, nonfinite := (codes.zip l).any fun p => elementBad t p.1 p.2.2 }

/-- Folds the capture of a converted tensor, if it has a scale entry that is not poisoned (R95, R436). -/
def foldTarget (s : State) (k : Tk) (t : Target) (w : Written) : State :=
  if t.fmt.scaled && !t.poison then foldCapture s k t.tid w.capture else s

/-- Whether a logical index range leaves the 40 bits of an SR draw (R92). -/
def indexOk (t : Target) (last : Nat) : Bool := !t.sr || !(t.fmt == .l8g || t.fmt == .l16s) || last < 2 ^ 40

/-- L4w elements of n columns: one block of R81 is 32 consecutive rows of a column. Codes row by row, and the block exponents
by block row. -/
def l4wBlocks (cols : Nat) (l : List (Option Val)) : List Nat × List (List Int) :=
  let rows := pieces cols l
  let at_ (r c : Nat) : Val := (((rows.getD r []).getD c none).getD .nan)
  let ex (e c : Nat) : Int :=
    l4wExponent ((List.range 32).filterMap fun i => if 32 * e + i < rows.length then some (at_ (32 * e + i) c) else none)
  ((List.range rows.length).flatMap fun r => (List.range cols).map fun c => l4wCode (ex (r / 32) c) (at_ r c),
   (List.range ((rows.length + 31) / 32)).map fun e => (List.range cols).map fun c => ex e c)

/-- Nibbles as bytes, the first in bits [3:0] (R80). -/
def nibbleBytes : List Nat → List Byte
  | [] => []
  | [a] => [BitVec.ofNat 8 (a % 16)]
  | a :: b :: l => BitVec.ofNat 8 (a % 16 + 16 * (b % 16)) :: nibbleBytes l

/-! ## Outputs (R148, R149, R197, R434) -/

/-- A queue end that the descriptor may push into. -/
def outQueueOk (s : State) (k : Tk) (q : Nat) : Bool := qeUsable s k q true

/-- Whether entries of n stored rows fit the queue end at all. -/
def pushFits (s : State) (k : Tk) (q n pitch : Nat) : Bool :=
  entryStrips (min n 4096) pitch ≤ qeStrips (qEntry s k.shelf q)

/-- Claims and fills entries with rows of bytes; none while strips or tags are missing. -/
def pushRows (s : State) (k : Tk) (q pitch width fmt : Nat) : List Nat → List (List Byte) → Option State
  | [], _ => some s
  | n :: l, rows =>
    match claimEntry s k.shelf q (blankEntry k n pitch width fmt false) with
    | none => none
    | some (s, id) =>
      let bytes := ((List.range n).map fun i => fitBytes pitch (rows.getD i [])).flatten
      let s := pushedRows (modEntry s k.shelf q id fun e => filledEntry e bytes) k.shelf q id (List.range n)
      pushRows s k q pitch width fmt l (rows.drop n)

/-- Pushes elements, 512 to a stored row, the rows rounded up to a multiple of 8 and filled with +0. -/
def pushElements (s : State) (k : Tk) (q : Nat) (f : Fmt) (codes : List Nat) : Option State :=
  let rows := (pieces 512 codes).map (bytesOfCodes f)
  let n := (rows.length + 7) / 8 * 8
  if pushTurn s k q then pushRows s k q (pushPitch f) (pushPitch f) f.code (entryRows (n + 1) n) rows else none

/-- The entries that hold rows of bytes, in order. -/
def pushJobs (q pitch fmt : Nat) : List Nat → List (List Byte) → List PushJob
  | [], _ => []
  | n :: l, rows =>
    { queue := q, pitch := pitch, width := pitch, fmt := fmt, rows := n, bytes := rows.take n } :: pushJobs q pitch fmt l (rows.drop n)

/-- Elements as entries that wait with the descriptor for their strips, each for its own (R149). -/
def holdElements (s : State) (k : Tk) (q : Nat) (f : Fmt) (codes : List Nat) : State :=
  let rows := (pieces 512 codes).map (bytesOfCodes f)
  let n := (rows.length + 7) / 8 * 8
  let more := pushJobs q (pushPitch f) f.code (entryRows (n + 1) n) rows
  modTk s k.ticket fun x => match x.run with
    | .vec r => { x with run := .vec { r with jobs := r.jobs ++ more } }
    | _ => x

/-- The held entries go out, in order, while each finds its strips. -/
def pushHeld (k : Tk) : List PushJob → State → State × List PushJob
  | [], s => (s, [])
  | j :: l, s =>
    if !pushTurn s k j.queue then (s, j :: l)
    else match pushRows s k j.queue j.pitch j.width j.fmt [j.rows] j.bytes with
      | none => (s, j :: l)
      | some s1 => pushHeld k l (modTk s1 k.ticket fun q => { q with wrote := true })

/-- A descriptor with its results held: what finds its strips goes out, and behind the last entry it ends as its results say;
until then it runs (R149). -/
def goOnPushing (s : State) (k : Tk) : State :=
  match (getTk s k.ticket).bind fun q => match q.run with | .vec r => some r | _ => none with
  | none => s
  | some r =>
    let x := pushHeld k r.jobs s
    modTk x.1 k.ticket fun q => { q with run := .vec { r with jobs := x.2 }, phase := if x.2.isEmpty then .ended else .running }

/-- Whether an output of a descriptor goes to memory. -/
def writesMemory (d : Desc) : Bool := (List.range 2).any fun i => match dOutW d i with | .memory _ => true | _ => false

/-- A VEC or CONVERT of m inputs of n elements as far as it comes now: it pops the entries that are complete; with all of them in hand
it runs as `whole` says, or, where strips are missing, holds its results as `held` says and pushes entry by entry (R149, R434). -/
def stageRun (n m : Nat) (whole held : State → TakenAll → Option State) (s : State) (k : Tk) (r : VecRun) : State :=
  let x := drawEntries k n m 65536 (s, r)
  let s1 := modTk x.1 k.ticket fun q => { q with run := .vec x.2 }
  if !gotAllInputs k.desc x.2 n m then s1
  else
    let a := drawnInputs s1 k n m x.2
    match whole s1 a with
    | some s2 => s2
    | none =>
      match held s1 a with
      | none => s1
      | some s2 =>
        goOnPushing (modTk s2 k.ticket fun q => match q.run with
          | .vec r => { q with run := .vec { r with computed := true }, wrote := k.wrote || writesMemory k.desc }
          | _ => q) k

/-- A VEC or CONVERT that has begun goes on from where it waits. -/
def stageGoesOn (n m : Nat) (whole held : Tk → State → TakenAll → Option State) (mine : Desc → Bool) (t : TicketId) (s : State) : Option State :=
  match getTk s t with
  | none => none
  | some k =>
    match k.run with
    | .vec r =>
      if s.power != .running || k.phase != .running || !mine k.desc || unitIsolated s (tkUnit s k) then none
      else if unitWrong s k (entriesRead k) then some (unitFault s k)
      else some (if r.computed then goOnPushing s k else stageRun n m (whole k) (held k) s k r)
    | _ => none

/-- An input's entry can be popped now. -/
def canDraw (s : State) (k : Tk) (n m : Nat) : Bool :=
  (List.range m).any fun i => (drawEntry s k n i { got := [], lost := false, computed := false, jobs := [] }).isSome

/-- Results held with the descriptor. -/
def holdPush (s : State) (k : Tk) (q : Nat) (f : Fmt) (codes : List Nat) : Option State := some (holdElements s k q f codes)

/-- Writes rows of bytes `pitch` apart from a global address. -/
def writeRows (s : State) (k : Tk) (g pitch : Nat) (rows : List (List Byte)) : State :=
  modTk (((List.range rows.length).zip rows).foldl (fun s p => writeOut s k (g + p.1 * pitch) p.2) s) k.ticket
    fun q => { q with wrote := true }

/-- Every row of n bytes may be written (R210). -/
def rowsOk (s : State) (g pitch n rows last : Nat) : Bool :=
  (List.range rows).all fun r => targetOk s (g + r * pitch) (if r + 1 = rows then last else n)

/-- The causes of a conversion's end: a poisoned element or scale entry, a NaN or an infinity. -/
def convertCauses (bad nonfinite : Bool) : List Status := (if bad then [.eccUncorr] else []) ++ if nonfinite then [.nonfinite] else []

/-- Ends a descriptor whose causes may come of poisoned bursts only. -/
def endConvert (s : State) (k : Tk) (causes : List Status) (detail : Nat) (burst : Bool) : State :=
  modTk s k.ticket fun q => { endTk causes detail q with noUnit := q.noUnit || burst }

end Sys2Proof.Machine
end

