-- ==== Sys2Proof/Machine/StreamRows.lean ====
section
/-! DEFINITION. The source rows of a STREAM and the stored rows they fill (R191 to R195, R201). -/

namespace Sys2Proof.Machine

/-! ## Index entries (R193) -/

def ixPad (w : BitVec 64) : Bool := bitOf w 63
def ixVariant (w : BitVec 64) : BitVec 9 := w.extractLsb' 54 9
def ixGroup (w : BitVec 64) : Nat := bitsOf w 53 49
def ixReserved (w : BitVec 64) : Nat := bitsOf w 48 40
def ixRow (w : BitVec 64) : Nat := bitsOf w 39 0
def padWord : BitVec 64 := 0x8000000000000000

/-- Global address and length of source row r; none for a PAD. -/
def sourceAt (d : Desc) (index : List (BitVec 64)) (r : Nat) : Option (Nat × Nat) :=
  if isL4wStream d then
    if r < l4wRows d then some (stSrc d + r * stPitch d, stRowBytes d)
    else some (stIndexAddr d + (r - l4wRows d) * (2 * stPitch d), if stPack d then 1024 else 512)
  else if stIndexed d then
    let w := index.getD r padWord
    if ixPad w then none else some (stSrc d + ixRow w * stPitch d, stRowBytes d)
  else some (stSrc d + r * stPitch d, stRowBytes d)

/-- A row of this module lies in a populated range clear of the head region (R196); another module answers for its own, and past
2⁵⁶ there is none. -/
def sourceOk (s : State) (g n : Nat) : Bool := decide (g + n ≤ 2 ^ 56) && (!isLocal s g || jobRange (globalLocal g) n)

/-- Where a burst's data is kept while the STREAM waits for it: by local burst, or past 2⁶⁰ by global burst. -/
def burstKey (s : State) (g : Nat) : Nat := if isLocal s g then globalLocal g / 256 else 2 ^ 60 + g / 256

/-- The burst keys of n bytes at a global address. -/
def rowKeys (s : State) (g n : Nat) : List Nat :=
  if n = 0 then [] else (List.range ((g % 256 + n - 1) / 256 + 1)).map (burstKey s g + ·)

/-- The burst keys that source row r needs. -/
def needs (s : State) (d : Desc) (index : List (BitVec 64)) (r : Nat) : List Nat :=
  match sourceAt d index r with
  | some (g, n) => if sourceOk s g n then rowKeys s g n else []
  | none => []

/-! ## Requests (R201) -/

/-- A request: first burst key, bursts, and its first index entry. -/
structure Req where
  lo : Nat
  n : Nat
  first : Nat
  deriving DecidableEq, Repr

/-- Where a burst key lies: the module (0 for this one, else 1 past its ID), the stack window or bridge range here, and whether its
owner reads it for a job: a peer is one home, but no row is read with one that the peer refuses (R196, R201). -/
def keyHome (key : Nat) : Nat × Option Home × Bool :=
  if key < 2 ^ 60 then (0, burstHome key, decide (headBase ≤ 256 * key))
  else
    let b := (key - 2 ^ 60) % 2 ^ 35
    ((key - 2 ^ 60) / 2 ^ 35 + 1, none, (burstHome b).isNone || decide (headBase ≤ 256 * b))

/-- Bursts that one home serves, at most 64 KiB to a request; `fuel` bounds their number. -/
def splitReq : Nat → Req → List Req
  | 0, _ => []
  | fuel + 1, r =>
    let m := ((List.range (min r.n 256)).takeWhile fun i => keyHome (r.lo + i) == keyHome r.lo).length
    if r.n ≤ m || m = 0 then [r] else { r with n := m } :: splitReq fuel { lo := r.lo + m, n := r.n - m, first := r.first }

/-- Joins the bursts of row i to the last request where the merge window, counted in index entries, and the gap allow it;
`window` 0 is no limit. -/
def joinReq (gap window : Nat) (l : List Req) (i lo n : Nat) : List Req :=
  match l with
  | [] => [{ lo := lo, n := n, first := i }]
  | q :: rest =>
    let a := min q.lo lo
    let b := max (q.lo + q.n) (lo + n)
    if decide (lo ≤ q.lo + q.n + gap) && decide (q.lo ≤ lo + n + gap) && decide (b - a ≤ 256) && keyHome a == keyHome (b - 1)
        && (window = 0 || i < q.first + window) then
      { lo := a, n := b - a, first := q.first } :: rest
    else { lo := lo, n := n, first := i } :: q :: rest

/-- The requests of a list of rows' burst keys, in order. -/
def requestsOf (gap window : Nat) (rows : List (List Nat)) : List Req :=
  ((((List.range rows.length).zip rows).foldl (fun l r => match r.2 with | [] => l | lo :: _ => joinReq gap window l r.1 lo r.2.length)
    []).reverse).flatMap fun q => splitReq (q.n + 1) q

/-! ## Landing (R191, R192, R194) -/

/-- Block rows of which every stored row has landed (R73). -/
def validBlocks (d : Desc) (landed : List Nat) : List Nat :=
  (List.range (stRows d / 8)).filter fun b => (List.range 8).all fun i => (sourcesOf d (8 * b + i)).all landed.contains

/-- Stored bytes of a source row: copied, or narrowed from L16s to L8f (R191). -/
def storedBytes (d : Desc) (sigma : Int) (l : List Byte) : List Byte :=
  if narrows d then (codesOf .l16s l).map fun c => BitVec.ofNat 8 (l8fCode ((fmtVal .l16s c).scale (-sigma))) else l

/-- The capture of a narrowed row (R95). -/
def rowCapture (l : List Byte) : Byte := captureOf ((codesOf .l16s l).map (fmtVal .l16s))

/-- Bytes of a stored row that the entry's rows fill (R194); the rest of the pitch is padding (R57). -/
def storedWidth (d : Desc) : Nat :=
  if isL4wStream d || dShape d = 3 || (dShape d = 5 && stStat d) then 512
  else if narrows d then stRowBytes d / 2 else stRowBytes d

/-- Stored row and byte offset at which index or row r lands (R194). -/
def landsAt (d : Desc) (r : Nat) : Nat × Nat :=
  if !stIndexed d then (r, 0)
  else
    let p := rowIndices d
    (r / p, if dShape d = 3 && !stStat d then 32 * (r % p) else if dShape d = 5 && stStat d then stParam d * (r % p) else 0)

/-- Element n of a source row of L4w elements. -/
def sourceNibble (l : List Byte) (n : Nat) : Nat := (l.getD (n / 2) 0).toNat / 16 ^ (n % 2) % 16

/-- A cell byte with nibble h set. -/
def withNibble (b : Byte) (h x : Nat) : Byte :=
  if h = 0 then BitVec.ofNat 8 (b.toNat / 16 * 16 + x) else BitVec.ofNat 8 (b.toNat % 16 + 16 * x)

/-- An entry with source row r of an L4w STREAM laid into its packing (R67, R71, R192). -/
def landL4w (d : Desc) (e : Entry) (r : Nat) (l : List Byte) : Entry :=
  let nib (e : Entry) (k n h x : Nat) : Entry :=
    let off := k * 512 + n
    entryPut e off [withNibble (sparseGet 0 e.data off) h x]
  if stPack d then
    if r < 512 then (List.range 1024).foldl (fun e n => nib e r (n % 512) (n / 512) (sourceNibble l n)) e
    else
      let g := r - 512
      (List.range 1024).foldl (fun e n =>
        let c := n % 512
        entryPut e ((512 + c / 16) * 512 + 32 * (c % 16) + 16 * (n / 512) + g) [l.getD n 0]) e
  else if r < 1024 then (List.range 512).foldl (fun e n => nib e (r % 512) n (r / 512) (sourceNibble l n)) e
  else entryPut e ((512 + (r - 1024)) * 512) (fitBytes 512 l)

/-- Stored rows that a source row has a part in: those that it poisons where it is poisoned. -/
def poisons (d : Desc) (r : Nat) : List Nat :=
  if isL4wStream d then
    if r < l4wRows d then [r % 512] else if stPack d then (List.range 32).map (512 + ·) else [512 + (r - 1024)]
  else [(landsAt d r).1]

/-- Sideband slot that index r fills in a streamed entry: stored row and slot (R194). -/
def sideAt (d : Desc) (r : Nat) : Option (Nat × Nat) :=
  if !stIndexed d || stStat d then none
  else if dShape d = 3 then some (r / 16, r % 16)
  else if dShape d = 5 then some (r, 0)
  else none

/-- A sideband slot from an index (R195). -/
def sideWord (w : BitVec 64) : BitVec 16 := BitVec.ofNat 16 (32768 + ixGroup w * 512 + (ixVariant w).toNat)

/-- Owner key of index r in a stationary entry: the chunk, or 32 × quadrant + group (R194). -/
def ownerAt (d : Desc) (r : Nat) : Option Nat :=
  if !stIndexed d || !stStat d then none
  else if dShape d = 3 then some (r / max (stParam d) 1)
  else if dShape d = 5 then
    let g := max (stParam d) 1
    let i := r % rowIndices d
    let k := r / rowIndices d
    some (32 * (2 * (k / 256) + i * g / 256) + i % (256 / g))
  else none

/-- The owner map of an entry's index words, and whether the indices of one chunk or group disagree (R195). -/
def ownersOf (d : Desc) (ws : List (BitVec 64)) : Sparse (Option (BitVec 9)) × Bool :=
  ((List.range ws.length).zip ws).foldl (fun (a : Sparse (Option (BitVec 9)) × Bool) p =>
    match ownerAt d p.1 with
    | none => a
    | some key =>
      if ixPad p.2 then a
      else match sparseGet none a.1 key with
        | none => (sparseSet none a.1 key (some (ixVariant p.2)), a.2)
        | some v => (a.1, a.2 || v != ixVariant p.2)) ([], false)

/-! ## What is in hand -/

/-- The STREAM of a ticket. -/
def streamOf (k : Tk) : Option StreamRun := match k.run with | .stream r => some r | _ => none

/-- Index words of the entry being filled that the STREAM has still to read (R198 step 4). -/
def indexPending (d : Desc) (r : StreamRun) : Bool := stIndexed d && r.index.isEmpty

/-- Global address of the first index word of the entry being filled, and the bytes of its index words. -/
def indexSpan (d : Desc) (r : StreamRun) : Nat × Nat :=
  let n := sourceCount d
  (stIndexAddr d + 8 * n * r.entry, 8 * n)

/-- Every burst of a list has come. -/
def gotAll (r : StreamRun) (keys : List Nat) : Bool := keys.all fun b => (sparseGet none r.got b).isSome

/-- Row r can land now: one of an old epoch is discarded (R204). -/
def rowLandable (s : State) (d : Desc) (r : StreamRun) (i : Nat) : Bool :=
  decide (i < sourceCount d) && dEpoch d == (s.slots[dSlot d]).epoch && r.stage == .reading && !indexPending d r && !r.landed.contains i && gotAll r (needs s d r.index i)

/-- Some row of a STREAM behind a TIMEOUT record can still land. -/
def streamLandable (s : State) (k : Tk) : Bool :=
  match streamOf k with
  | some r => (List.range (sourceCount k.desc)).any fun i => rowLandable s k.desc r i
  | none => false

/-- A STREAM that stops frees the entry it had claimed and not filled (R74, R75, R204). -/
def dropStream (s : State) (k : Tk) : State :=
  match streamOf k, dOutW k.desc 0 with
  | some r, .queue q => if r.stage == .reading then freeEntry s k.shelf q r.entryId else s
  | _, _ => s

end Sys2Proof.Machine
end

