-- ==== Sys2Proof/Machine/Descr.lean ====
section
/-! DEFINITION. Descriptors from fetch to record: DESCRIPTOR_FETCH, DESCRIPTOR_ISSUE, DESCRIPTOR_COMPLETION,
COMPLETION_RECORD, WAIT_CYCLE_SEARCH (R135 to R163). -/

namespace Sys2Proof.Machine

open Host

/-! ## Records (R157, R158) -/

def dOpcodeWord (d : Desc) : Nat := dOpcode d

/-- RING code and the record's 32 bytes. A descriptor that was never issued was completed by its dispatch unit (log entry 52). -/
def recordBytes (s : State) (seq : BitVec 32) (k : Tk) (status : Status) : List Byte :=
  let j := dSlot k.desc
  let prof := if k.began then k.profileId else (profileOn s j (.dispatch (tkHost s k))).2
  wordBytes 4 seq ++ leBytes 2 k.ticket.val ++ wordBytes 1 status.code ++ wordBytes 1 prof
    ++ leBytes 2 (j.val * 4096 + dOpcodeWord k.desc) ++ wordBytes 2 (dEpoch k.desc)
    ++ leBytes 4 (ringCode k.ring * 2 ^ 30 + k.idx.toNat)
    ++ wordBytes 1 (if k.issueNo ≠ 0 then tkUnitByte k else unitByte 0 k.ringDie.val)
    ++ leBytes 1 (128 * bnat k.suspect + 64 * bnat k.isReplay + 32 * bnat (k.wrote && !k.isReplay))
    ++ leBytes 2 (k.dataStep.toNat % 65536)
    ++ leBytes 4 (match k.parent with | some p => 32768 + p.1.val | none => 0)
    ++ wordBytes 8 k.detail

/-- A record at the tail of ring C of the descriptor's JOB_SLOT, whichever slot's ring it was fetched from (DESIGN CHOICE, log entry 107);
none while the ring is full. With the ring disabled the record is dropped (log entry 20). -/
def writeRecord (s : State) (k : Tk) (status : Status) : Option State :=
  let d := k.ringDie
  let j := dSlot k.desc
  let r := ringsOf s d j
  let n := r.c.size.toNat
  if n = 0 then some s
  else
    let next := (r.c.tail.toNat + 1) % n
    if next = r.c.head.toNat then none
    else
      let a := r.c.base.toNat + 32 * r.c.tail.toNat
      let s := if populated a 32 then (writeSpan s a (recordBytes s r.nextSeq k status)).1 else s
      some (modRings s d j fun r => { r with c := { r.c with tail := BitVec.ofNat 16 next }, nextSeq := nextSeq32 r.nextSeq })

/-! ## Waits (R151) -/

/-- The valid wait words of a descriptor, by place. -/
def waitWords (d : Desc) : List (Nat × WaitWord) := (List.range 4).filterMap fun i => (dWait d i).map fun w => (i, w)

/-- Whether flag conditions of wait word i hold now. -/
def waitHolds (s : State) (k : Tk) (w : WaitWord) : Bool := flagHolds s k w.flag w.target

/-- The wait words found satisfied so far and those satisfied now. -/
def waitedNow (s : State) (k : Tk) : BitVec 4 :=
  (waitWords k.desc).foldl (fun m w => if waitHolds s k w.2 then m ||| BitVec.ofNat 4 (2 ^ w.1) else m) k.waited

/-- A suspended context notes that its flag is satisfied (R151, R173). -/
def noteCtx (s : State) (x : Ctx) : Ctx :=
  match x.wait with
  | some (f, target) => { x with waitMet := x.waitMet || (getTk s x.ticket).any fun k => flagHolds s k f target }
  | none => x

/-- A wait that is satisfied stays satisfied: notes what holds now for every descriptor not issued and every suspended context. -/
def noteWaits (s : State) : State :=
  { s with
    tickets := s.tickets.map fun p =>
      (p.1, p.2.map fun k => if k.phase == .fetched then { k with waited := waitedNow s k } else k)
    ctxs := s.ctxs.map (Option.map (noteCtx s)) }

def waitsMet (k : Tk) : Bool := (waitWords k.desc).all fun w => k.waited.getLsbD w.1
/-- Every flag that the descriptor waits on is enabled and of its slot. -/
def waitsUsable (s : State) (k : Tk) : Bool := (waitWords k.desc).all fun w => flagUsable s k.ringDie w.2.flag (dSlot k.desc)

/-! ## Fetch (R135 to R140, R159) -/

def ringAt (s : State) (die : Die) (ring : RingKind) (slot : Slot) : Ring :=
  match ring with
  | .h => (ringsOf s die slot).h
  | .x => (ringsOf s die slot).x
  | .u => (s.dies[die]).u

def modRing (s : State) (die : Die) (ring : RingKind) (slot : Slot) (f : Ring → Ring) : State :=
  match ring with
  | .h => modRings s die slot fun r => { r with h := f r.h }
  | .x => modRings s die slot fun r => { r with x := f r.x }
  | .u => modDie s die fun r => { r with u := f r.u }

def ringEmpty (r : Ring) : Bool := r.size == 0 || r.head == r.tail

/-- The ticket rule of R139. -/
def ticketOk (die : Die) (ring : RingKind) (t : TicketId) : Bool :=
  t.val / 256 == die.val && ((t.val % 256 == 255) == (ring == .u))

/-- The descriptor at a ring's head: its bytes and whether its burst is poisoned or does not exist (log entry 36). -/
def headDesc (s : State) (r : Ring) : Desc × Bool :=
  let a := r.base.toNat + 128 * r.head.toNat
  (descOf (memBytes s a 128), !populated a 128 || spanBad s a 128)

/-- Ring U of a die has a descriptor that can be fetched. -/
def urgentReady (s : State) (die : Die) : Bool :=
  let r := (s.dies[die]).u
  !ringEmpty r &&
    (let t := dTicket (headDesc s r).1
     !ticketOk die .u t || (getTk s t).isNone)

/-- A place of the round robin: 2 × slot, plus 1 for ring X (R140; log entry 74). -/
def turnOf (ring : RingKind) (slot : Slot) : Nat := 2 * slot.val + (if ring == .x then 1 else 0)

/-- A ring H or X from which a descriptor can be fetched now: ring C enabled, not empty, its ticket not in flight (R136, R139,
R140). One whose descriptor has a bad ticket is ready while its record must still wait, and keeps its turn (DESIGN CHOICE, log entry
106). -/
def ringReady (s : State) (die : Die) (place : Nat) : Bool :=
  let slot : Slot := Fin.ofNat 16 (place / 2)
  let r := ringAt s die (if place % 2 = 1 then .x else .h) slot
  !ringEmpty r && (ringsOf s die slot).c.size != 0 &&
    (let t := dTicket (headDesc s r).1
     !ticketOk die .h t || (getTk s t).isNone)

/-- The turn of a ring in the round robin over rings H and X: no ring that comes before it from the die's place on can be fetched
from (R140). -/
def ringTurn (s : State) (die : Die) (place : Nat) : Bool :=
  let first := (s.dies[die]).turn.val
  (List.range ((place + 32 - first) % 32)).all fun i => !ringReady s die ((first + i) % 32)

/-- Records of a ring C that are due: they go before the record of a descriptor that ends now (R158). -/
def recordsDue (s : State) (die : Die) (j : Slot) : Bool :=
  (tksOf s).any fun o => o.phase == .completed && o.ringDie == die && dSlot o.desc == j && !(dNorec o.desc && statusOf o.causes == .ok)

/-- A ticket for a descriptor just fetched. -/
def freshTk (s : State) (d : Desc) (die : Die) (ring : RingKind) (slot : Slot) (idx : BitVec 16) : Tk :=
  let j := s.slots[dSlot d]
  { desc := d, inst := s.nextInst, ticket := dTicket d, ring := ring, ringDie := die, ringSlot := slot, idx := idx,
    parent := match ring with
      | .x => sparseGet none (ringsOf s die slot).xParent idx.toNat
      | _ => none,
    phase := .fetched, issueNo := 0, doneNo := 0, began := false, waited := 0, causes := [], detail := 0, wrote := false,
    suspect := false, noUnit := false, hitCols := [], hitChunks := [], isReplay := false, isRepeat := false, profileId := 0, seed := j.seed,
    streamStep := j.streamStep, dataStep := j.dataStep, scaleBase := j.scaleBase, scaleCount := j.scaleCount, merge := (64, 0), cover := [],
    run := .none }

/-- What the dispatch unit finds wrong with a descriptor at fetch: INVALID or CANCELLED (R4, R135, R139, R147, R151, R159,
R232). A slot that restores or has failed to restore takes none, a CANCEL included (R339). -/
def screenDesc (s : State) (k : Tk) (bad : Bool) : Option Status :=
  let f := dFamily k.desc
  let onEngine := f == some .matmul || f == some .loadstat || f == some .swap || f == some .drain || f == some .vec || f == some .convert
  if bad || !descOk k.desc then some .invalid
  else if k.ring == .u && f != some .cancel && f != some .flag then some .invalid
  else if onEngine && engDie (dUnit k.desc) != k.ringDie then some .invalid
  else if f == some .fence && feScope k.desc == 0 then some .invalid
  else if !waitsUsable s k then some .invalid
  else if (s.slots[dSlot k.desc]).slotState != .running then some .invalid
  else if dEpoch k.desc != (s.slots[dSlot k.desc]).epoch then some .cancelled
  else none

/-- Whether the dispatch unit that serves a die fetches and issues at all (R294, R305). -/
def dispatchRuns (s : State) (die : Die) : Bool :=
  s.power == .running && !s.isolated.contains (.dispatch (servedDie s die))

/-- Whether the dispatch unit that a descriptor has works. -/
def dispatches (s : State) (k : Tk) : Bool := s.power == .running && !s.isolated.contains (.dispatch (tkHost s k))

/-- DESCRIPTOR_FETCH: the dispatch unit takes the descriptor at a ring's head under its ticket. -/
def execDescriptorFetch (die : Die) (ring : RingKind) (slot : Slot) (fault : Bool) (s : State) : Outcome State Fault Refusal :=
  let r := ringAt s die ring slot
  if !dispatchRuns s die || (s.integrity.swapDue[diePair die]).isSome || ringEmpty r then .next s
  else if ring != .u && (urgentReady s die || (ringsOf s die slot).c.size == 0 || !ringTurn s die (turnOf ring slot)) then .next s
  else
    let (d, bad) := headDesc s r
    let k := freshTk s d die ring slot r.head
    let own := ticketOk die ring k.ticket
    if own && (getTk s k.ticket).isSome || !own && recordsDue s die (dSlot d) then .next s
    else
      let s1 := (readSpan s (r.base.toNat + 128 * r.head.toNat) 128).1
      let s1 := modRing s1 die ring slot fun r => { r with head := BitVec.ofNat 16 ((r.head.toNat + 1) % r.size.toNat) }
      let s1 := { s1 with nextInst := s1.nextInst + 1 }
      let s1 := if ring == .u then s1 else modDie s1 die fun r => { r with turn := Fin.ofNat 32 (turnOf ring slot + 1) }
      if !own then
        match writeRecord s1 k .invalid with
        | none => .next s
        | some t => .next (settle s (refuseSet t k))
      else if fault then .next (settle s (controlFault (setTk s1 k) (.dispatch (servedDie s die)) (unitByte 0 die.val) (dSlot d) k.ticket.val))
      else
        let s2 := noteWaits (setTk s1 k)
        match screenDesc s k bad with
        | none => .next (settle s s2)
        | some .invalid => .next (settle s (refuse s2 k.ticket))
        | some x => .next (settle s (modTk s2 k.ticket (failTk x)))

/-! ## Issue (R116, R141, R169, R299) -/

/-- Fetched earlier on the same die and not issued; a replay's descriptors have an order of their own. -/
def earlier (s : State) (k : Tk) : List Tk :=
  (tksOf s).filter fun o => o.shelf == k.shelf && decide (o.inst < k.inst) && o.phase == .fetched

/-- ACC_SEQ is next, or the set is INVALID with no START or SEED issued to reopen it and no descriptor for it fetched
earlier is unissued (R116). -/
def accTurn (s : State) (k : Tk) : Bool :=
  if dFamily k.desc == some .matmul || (dFamily k.desc == some .drain && !dForce k.desc) then
    let e := tkEng s k
    let m := dAccSet k.desc
    let a := accSet s e m
    if dormant a then !(earlier s k).any fun o => namesSet s o e m
    else a.nextSeq == dAccSeq k.desc
  else true

/-- Every earlier-fetched descriptor of the same queue end has issued (R141). -/
def queueTurn (s : State) (k : Tk) : Bool :=
  let l := earlier s k
  (pops k.desc).all (fun q => !l.any fun o => (pops o.desc).contains q)
    && (pushes k.desc).all (fun q => !l.any fun o => (pushes o.desc).contains q)

/-- Descriptors that a unit holds issued. -/
def heldBy (s : State) (u : ModUnit) : Nat :=
  ((tksOf s).filter fun o => (o.phase == .issued || o.phase == .running) && tkUnit s o == u).length

/-- The unit can accept another descriptor, and no repair holds it back (R48, R141, R169). -/
def unitRoom (s : State) (k : Tk) : Bool :=
  match tkUnit s k with
  | .engine e => heldBy s (.engine e) < 8 && (((s.engines[e]).retireQ.isEmpty && !(s.engines[e]).retireDue) || engRetired s e)
  | .vector e => heldBy s (.vector e) < 8
  | .stream d n => heldBy s (.stream d n) < 8
  | .ringmaster d => (List.finRange 8).any fun c => (ctxOf s d c).isNone
  | _ => true

/-- No CHECKARM fetched earlier from the same ring has still to arm (R299). -/
def armTurn (s : State) (k : Tk) : Bool :=
  !(tksOf s).any fun o => dFamily o.desc == some .checkarm && o.ringDie == k.ringDie && o.ring == k.ring
    && o.ringSlot == k.ringSlot && decide (o.inst < k.inst) && (o.phase == .fetched || o.phase == .issued)

/-- A COLLECTIVE is next on its channel, whose previous one has completed here (R271). A replayed one sends nothing on it (R307). -/
def cseqTurn (s : State) (k : Tk) : Bool :=
  dFamily k.desc != some .collective || k.isReplay
    || coCseq k.desc == (s.chans[coChannel k.desc]).nextCseq && !collOnChannel s (coChannel k.desc)

/-- A dispatch unit's use of a descriptor's control fields, or of flags' entries, meets one that is wrong: a control fault of the unit,
and the ticket stays in flight (R294, R296). -/
def dispatchFault (s : State) (k : Tk) : State :=
  controlFault s (.dispatch (tkHost s k)) (unitByte 0 (tkHost s k).val) (dSlot k.desc) k.ticket.val

def dispatchWrong (s : State) (k : Tk) (flags : List (Die × BitVec 12)) : Bool :=
  controlWrong s (.dispatch (tkHost s k)) (flags.map fun f => (.flag f.1, f.2.toNat))

/-- The flags that a descriptor waits on, and those of this module that it sets. -/
def waitFlags (k : Tk) : List (Die × BitVec 12) := (waitWords k.desc).map fun w => (k.ringDie, w.2.flag)
def setFlags (s : State) (k : Tk) : List (Die × BitVec 12) :=
  (List.range 2).flatMap fun i =>
    match dSet k.desc i with
    | none => []
    | some w =>
      if w.remote && w.module_ != s.fabric.moduleId.setWidth 13 then []
      else if dFamily k.desc == some .collective && isNormColl k.desc && i == 0 then (List.finRange 4).map fun d => (d, w.flag)
      else [(if w.remote then w.die else k.ringDie, w.flag)]

/-- No replay on a die holds back its next CALL (R308). -/
def replayTurn (s : State) (k : Tk) : Bool := dFamily k.desc != some .call || k.isReplay || !replayOn s k.ringDie

/-- Every condition of issue holds (R48, R116, R141, R271, R299, R308). -/
def issueReady (s : State) (k : Tk) : Bool :=
  k.phase == .fetched && waitsMet k && accTurn s k && queueTurn s k && cseqTurn s k && unitRoom s k && armTurn s k && replayTurn s k
    && !unitIsolated s (tkUnit s k)

/-- The descriptor is ready to issue, and no descriptor of its die that was fetched before it is (R141). -/
def issueTurn (s : State) (k : Tk) : Bool := issueReady s k && !(earlier s k).any (issueReady s)

/-- The bank a new CALL enters. -/
def activeBank (r : DieR) : Bank := if r.activeB then r.bankB else r.bankA

/-- Whether a bank holds a routine (R178, R182). The boot library, whose bytes the manual does not give, holds the five of
Ndotas (log entry 28). -/
def routinePresent (b : Bank) (n : Nat) : Bool :=
  n ≤ 0xFF && (0x80 ≤ n || (1 ≤ n && n ≤ 5)) && (if b.code.isEmpty then n ≤ 5 else fieldNat b.code (4 * n) 4 != 0)

/-- A CALL that may occupy a context (R136, R169). -/
def callOk (s : State) (k : Tk) : Bool :=
  let a := globalLocal (caArg k.desc)
  let n := caArgBytes k.desc
  k.ring == .h && (ringsOf s k.ringDie (dSlot k.desc)).x.size != 0
    && routinePresent (activeBank s.dies[tkHost s k]) (caRoutine k.desc)
    && isLocal s (caArg k.desc) && n ≤ 65536 && n % 8 == 0
    && (if n = 0 then inDieStacks k.ringDie a 1 else inDieStacks k.ringDie a n)

/-- The integer registers at a routine's entry: sp, a0 to a3 and 0 in every other (R170). -/
def entryRegs (a0 a1 a2 a3 sp : Nat) : Vector (BitVec 64) 32 :=
  ((((Vector.replicate 32 (0 : BitVec 64)).set 2 (BitVec.ofNat 64 sp)).set 10 (BitVec.ofNat 64 a0)).set 11 (BitVec.ofNat 64 a1)).set 12
    (BitVec.ofNat 64 a2) |>.set 13 (BitVec.ofNat 64 a3)

/-- A context starts at a routine's entry (R170). The places of INLINE and of the stack in private memory are the model's
(log entry 29). -/
def startCtx (s : State) (k : Tk) (d : Die) (c : CtxId) (bankB : Bool) : State :=
  let a2 := privBase + 0x20000 + 32 * c.val
  let word := k.ticket.val * 2 ^ 48 + (dEpoch k.desc).toNat * 2 ^ 32 + (dSlot k.desc).val * 2 ^ 16 + c.val
  let s := privPut s d a2 (caInline k.desc)
  let s := { s with tileCounts := sparseClear s.tileCounts (8 * callPlace (k.ticket, k.idx)) (8 * callPlace (k.ticket, k.idx) + 8) }
  putCtx s d c (some
    { ticket := k.ticket, inst := k.inst, slot := dSlot k.desc, epoch := dEpoch k.desc, bankB := bankB,
      regs := entryRegs (globalLocal (caArg k.desc)) (caArgBytes k.desc) a2 word (privBase + 0x4000 * (c.val + 1)),
      wait := none, waitMet := false, held := false, published := false, flagRead := 0, reservation := none, phase := 0, todo := [],
      used := 0, ret := none })

/-- Under Strict a CALL is kept, with what its expansion reads beside memory, until its step is final (R175, R307). -/
def logCall (s : State) (k : Tk) (d : Die) : State :=
  modSlot s (dSlot k.desc) fun r =>
    if r.inForce.integrity != .strict || k.isReplay then r
    else { r with callLog := r.callLog ++ [{ call := (k.ticket, k.idx), desc := k.desc, bankB := (s.dies[d]).activeB, flags := s.flags, due := r.mirrorDue }] }

/-- What issue does beyond the ticket: the set's next sequence (R116), a CALL's context (R169), a FENCE's cover (R155). -/
def issueEffects (s : State) (k : Tk) : State :=
  match dFamily k.desc with
  | some .call =>
    let d := tkHost s k
    let s := logCall s k d
    match (List.finRange 8).find? fun c => (ctxOf s d c).isNone with
    | some c => startCtx s k d c (s.dies[d]).activeB
    | none => s
  | some .fence =>
    let cov := (((tksOf s).filter fun o => o.ringDie == k.ringDie && dSlot o.desc == dSlot k.desc && o.phase == .completed)
      ++ s.lingering.filter fun o => o.ringDie == k.ringDie && dSlot o.desc == dSlot k.desc).map (·.inst)
    modTk s k.ticket fun q => { q with cover := cov }
  | some .stream =>
    let r := s.dies[tkHost s k]
    modTk s k.ticket fun q => { q with merge := (r.window.toNat, r.gap.toNat) }
  | f =>
    if f == some .matmul || (f == some .drain && !dForce k.desc) then
      let e := tkEng s k
      modSet s e (dAccSet k.desc) fun a =>
        if dormant a then
          if opensSet k.desc && dAccSeq k.desc = 0 then { a with nextSeq := 1 } else a
        else { a with nextSeq := a.nextSeq + 1 }
    else s

/-- A DRAIN that has no end token to wait for, at ACC_SEQ 0 or for an INVALID set, is judged at issue: its set is not OPEN
(R122, R127). -/
def judgedAtIssue (s : State) (k : Tk) : Bool :=
  let a := accSet s (tkEng s k) (dAccSet k.desc)
  dFamily k.desc == some .drain && !dForce k.desc && a.state != .opened && (dAccSeq k.desc == 0 || dormant a)

/-- DESCRIPTOR_ISSUE: the dispatch unit hands a fetched descriptor to its unit. A COLLECTIVE issues by COLLECTIVE_ISSUE. -/
def execDescriptorIssue (t : TicketId) (fault : Bool) (s : State) : Outcome State Fault Refusal :=
  match getTk s t with
  | none => .next s
  | some k =>
    if k.phase != .fetched || dFamily k.desc == some .collective || !dispatches s k then .next s
    else if dispatchWrong s k (waitFlags k) then .next (settle s (dispatchFault s k))
    else if dEpoch k.desc != (s.slots[dSlot k.desc]).epoch then .next (settle s (modTk s t (failTk .cancelled)))
    else if !waitsUsable s k then .next (settle s (refuse s t))
    else if dFamily k.desc == some .call && waitsMet k && !callOk s k then .next (settle s (refuse s t))
    else if !issueTurn s k then .next s
    else if fault then
      .next (settle s (controlFault s (tkUnit s k) (tkUnitByte k) (dSlot k.desc) t.val))
    else
      let n := s.nextIssue
      let s1 := modTk { s with nextIssue := n + 1 } t fun q => { q with phase := .issued, issueNo := n }
      let s2 := issueEffects s1 k
      .next (settle s (if judgedAtIssue s k then modTk s2 t (failTk .invalid) else s2))

/-! ## Completion (R142, R152) -/

/-- SET0 of the norm collective is performed on the same flag of all four dies, whose entries must all be REMOTE (R282); none
where the sets are refused. -/
def setFourDies (s : State) (k : Tk) (w : SetWord) : Option State :=
  (List.finRange 4).foldl (fun (a : Option State) d =>
    a.bind fun s => if feRemote (flagEntry s d w.flag) then setFlagAt s d w.flag (dSlot k.desc) (some k.ringDie) k.ticket w.inc else none) (some s)

/-- A replayed descriptor's set: on the replay's copy of its die's flags, and nowhere else (R307). -/
def replaySet (s : State) (k : Tk) (i : Nat) (w : SetWord) : State :=
  let four := dFamily k.desc == some .collective && isNormColl k.desc && i == 0
  if w.remote && !(w.module_ == s.fabric.moduleId.setWidth 13 && (four || w.die == k.ringDie)) then s
  else noteWaits (withFlags s k fun s =>
    (setFlagAt s k.ringDie w.flag (dSlot k.desc) (some k.ringDie) k.ticket w.inc).getD (modTk s k.ticket (addCause .invalid)))

/-- Performs set word i: at a flag of this module, or as a FLAGSET to another. -/
def performSet (s : State) (k : Tk) (i : Nat) (w : SetWord) : State :=
  if k.isReplay then replaySet s k i w else
  let j := dSlot k.desc
  let inv (s : State) : State := refuseSet (modTk s k.ticket (addCause .invalid)) k
  if !w.remote || w.module_ = s.fabric.moduleId.setWidth 13 then
    let d := if w.remote then w.die else k.ringDie
    let four := dFamily k.desc == some .collective && isNormColl k.desc && i == 0
    match if four then setFourDies s k w else setFlagAt s d w.flag j (some k.ringDie) k.ticket w.inc with
    | some s' => noteWaits s'
    | none => inv s
  else
    let vc := if dFamily k.desc = some .putget then pgVc k.desc else 1
    let rest := w.flag.toNat * 2 ^ 36 + w.die.val * 2 ^ 34 + w.scope * 2 ^ 31 + w.inc.toNat
    match sendRequest s (.flagSet k.inst k.ticket) (ownFlit s 0x05 vc w.module_.toNat rest []) with
    | (s', true) => s'
    | (s', false) => inv s'

def setWords (d : Desc) : List (Nat × SetWord) := (List.range 2).filterMap fun i => (dSet d i).map fun w => (i, w)

/-- Sets on their way to other modules. -/
def setsOut (s : State) (inst : Nat) : Bool :=
  (reqsOf s).any fun r => match r with | .flagSet i _ => i == inst | _ => false

/-- The collective in flight that a descriptor runs. -/
def collOf (s : State) (k : Tk) : Option Coll := (s.chans[coChannel k.desc]).op.filter fun o => o.k.inst == k.inst

/-- A norm collective has completed. With OK under Strict its data step is final, and the copy of that step is decided under the
interval that the collective before agreed (R322, R326); with INVALID it makes no pace epoch (R351). -/
def closeNorm (s : State) (k : Tk) : State :=
  if dFamily k.desc != some .collective || !isNormColl k.desc || k.isReplay then s
  else
    let j := dSlot k.desc
    let before := (collOf s k).bind (·.before)
    match statusOf k.causes with
    | .ok =>
      if (s.slots[j]).inForce.integrity != .strict then s
      else decideCopy (makeFinal s j k.dataStep) j k.dataStep.toNat (match before with | some b => b.2.2 | none => (s.slots[j]).jobExponent)
    | .invalid =>
      match before with
      | some b => modSlot s j fun r => { r with jobPace := b.1, paceEpoch := b.2.1 }
      | none => s
    | _ => s

/-- A collective whose part is played is no longer in flight once it has completed (R271, R287). -/
def leaveChannel (s : State) (k : Tk) : State :=
  if dFamily k.desc != some .collective then s
  else modChan s (coChannel k.desc) fun c =>
    if c.op.any fun o => o.k.inst == k.inst && o.played then
      { c with op := none, last := some (coCseq k.desc, dSlot k.desc, k.ticket, k.dataStep) }
    else c

/-- What a repeat leaves in the queue ends of the other die goes with it. -/
def dropRepeat (s : State) (k : Tk) : State :=
  { s with queues := s.queues.filterMap fun p =>
      let l := if p.1 / 4096 = k.shelf.val then p.2.filter fun x => x.producer != k.inst && !k.popped.any fun y => y.2.id == x.id else p.2
      if l.isEmpty then none else some (p.1, l) }

/-- A repeat has ended: clean, or with a second cause, a unit fault, after which the step does not commit (R309, R321). -/
def endRepeat (s : State) (k : Tk) : State :=
  if !k.isRepeat then s
  else
    let s := dropRepeat { s with repeats := s.repeats.filter fun o => o.ticket != k.ticket || dSlot o.desc != dSlot k.desc } k
    if k.causes.any suspectStatus then
      failEntry (modSlot { s with failedCause := true } (dSlot k.desc) fun r => { r with repeatFailed := true }) 0x0B (tkUnitByte k) 0 0 (dSlot k.desc)
    else s

/-- The step of a descriptor became suspect (R157, R302). -/
def stepSuspect (s : State) (k : Tk) : Bool :=
  let r := s.slots[dSlot k.desc]
  (r.suspect && k.dataStep == r.dataStep) || (r.suspectPrev && k.dataStep + 1 == r.dataStep)

/-- The descriptor has completed: its place in the order of completion, and its causes. -/
def finishTk (s : State) (t : TicketId) : State :=
  let n := s.nextIssue
  match getTk s t with
  | none => s
  | some k =>
    let s := endRepeat (completionCauses { leaveChannel (closeNorm s k) k with nextIssue := n + 1 } k) k
    modTk s t fun k => { k with phase := .completed, doneNo := n, suspect := k.suspect || stepSuspect s k }

/-- A descriptor whose reads and writes have all been answered, or that has timed out. -/
def settledTk (s : State) (k : Tk) : Bool := !instBusy s k.inst || k.causes.contains .timeout

/-- DESCRIPTOR_COMPLETION: the sets of an ended descriptor are performed, then it is complete. A set that goes to another
module is awaited. -/
def execDescriptorCompletion (t : TicketId) (s : State) : Outcome State Fault Refusal :=
  match getTk s t with
  | none => .next s
  | some k =>
    if unitIsolated s (tkUnit s k) || !dispatches s k then .next s
    else if k.phase == .setting then
      if setsOut s k.inst then .next s else .next (settle s (finishTk s t))
    else if k.phase != .ended || !settledTk s k then .next s
    else if setsWithheld (statusOf k.causes) || k.isRepeat then .next (settle s (finishTk s t))
    else if dispatchWrong s k (setFlags s k) then .next (settle s (dispatchFault s k))
    else
      let s1 := (setWords k.desc).foldl (fun s p => performSet s k p.1 p.2) s
      if setsOut s1 k.inst then .next (settle s (modTk s1 t fun q => { q with phase := .setting }))
      else .next (settle s (finishTk s1 t))

/-- No completed descriptor of the same ring C completed before. -/
def recordTurn (s : State) (k : Tk) : Bool :=
  !(tksOf s).any fun o => o.phase == .completed && o.ringDie == k.ringDie && dSlot o.desc == dSlot k.desc
    && decide (o.doneNo < k.doneNo)

/-- A descriptor behind a TIMEOUT record whose requests have all been answered: its LATE record is due (R158). -/
def lateDue (s : State) (t : TicketId) : Option Tk :=
  s.lingering.find? fun k => k.ticket == t && !instBusy s k.inst && !streamLandable s k

/-- What completed with a TIMEOUT among its causes and has requests in flight goes on behind its record (R203, R269). A status
above TIMEOUT in R164's order leaves no LATE record due, since LATE follows a TIMEOUT, and a MIRROR has none (R330): its copy here is at
phase ended. -/
def lingerOn (s : State) (k : Tk) : State :=
  if !k.causes.contains .timeout then s
  else
    let late := statusOf k.causes == .timeout && dFamily k.desc != some .mirror
    { s with lingering := s.lingering ++ [if late then k else { k with phase := .ended }] }

/-- COMPLETION_RECORD: the record of a completed descriptor, which frees its ticket, or the LATE record that follows a
TIMEOUT. -/
def execCompletionRecord (t : TicketId) (s : State) : Outcome State Fault Refusal :=
  match lateDue s t with
  | some k =>
    if !dispatches s k then .next s
    else match if k.phase = .completed then writeRecord s k .late else some s with
      | none => .next s
      | some s1 => .next (settle s { s1 with lingering := s1.lingering.filter fun q => q.inst != k.inst })
  | none =>
    match getTk s t with
    | none => .next s
    | some k =>
      let x := statusOf k.causes
      if k.phase != .completed || !recordTurn s k || !dispatches s k then .next s
      else if dispatchWrong s k [] then .next (settle s (dispatchFault s k))
      else if x == .ok && dNorec k.desc then .next (settle s (freeTk s t))
      else match writeRecord s k x with
        | none => .next s
        | some s1 =>
          .next (settle s (lingerOn (freeTk s1 t) k))

/-! ## Stopping issued work (R160, R163) -/

/-- Takes a descriptor's work off its unit and ends it with a status. -/
def stopWork (s : State) (k : Tk) (x : Status) : State :=
  let t := k.ticket
  let e := tkEng s k
  let s := noteProgress s k
  let s := match dFamily k.desc with
    | some .matmul =>
      let s := if (s.engines[e]).run.any fun a => a.ticket == t then guardMatmul (modEng s e fun r => { r with run := none }) e k else s
      let s := modSet s e (dAccSet k.desc) fun a => if a.incoming.any fun i => i.inst == k.inst then { a with incoming := none } else a
      passToken s e (dAccSet k.desc)
    | some .drain => passToken s e (dAccSet k.desc)
    | some .stream => dropWaiting (dropStream s k) k.inst
    | some .putget => dropWaiting s k.inst
    | some .loadstat =>
      modEng s e fun r => if r.load.any fun a => a.ticket == t then { r with load := none, shadow := none } else r
    | some .swap => modEng s e fun r => if r.swapTok = some t then { r with swapTok := none } else r
    | some .collective =>
      modChan s (coChannel k.desc) fun c => if c.op.any fun o => o.k.inst == k.inst then { c with op := none } else c
    | some .checkarm =>
      modCvu s (chCvu k.desc) fun c => if c.armed && c.ticket == t then { c with armed := false, tap := 0xFF } else c
    | some .call =>
      let d := tkHost s k
      (ctxsOf s d).foldl (fun s p => if p.2.ticket == t then settleBanks (putCtx s d p.1 none) d else s) s
    | _ => s
  modTk s t fun q => { addCause x q with phase := .ended, run := .none }

/-- Whether issued work still gives way to a CANCEL or a DEADLOCK: not once its first output write is out, a collective's
contribution has left, or a copy's MIRROR has begun (R126, R160, R288). Of the DRAINs that wait for a channel's collective, the one
issued first supplies the collective that has left, and the others give way. -/
def givesWay (s : State) (k : Tk) : Bool :=
  match dFamily k.desc with
  | some .drain =>
    if dTarget k.desc = 2 then
      (let c := s.chans[drChannel k.desc]
       let behind := (tksOf s).any fun o => dFamily o.desc == some .drain && dTarget o.desc == 2 && drChannel o.desc == drChannel k.desc
         && dSlot o.desc == dSlot k.desc && o.isReplay == k.isReplay && (o.phase == .issued || o.phase == .running)
         && decide (o.issueNo < k.issueNo)
       behind || !c.op.any fun o => o.left && !o.played && o.contrib.isNone && coSrcDrain o.k.desc && o.slot == dSlot k.desc) && !k.wrote
    else !k.wrote
  | some .vec => !k.wrote
  | some .convert => !k.wrote
  | some .putget => !k.wrote
  | some .collective =>
    let c := s.chans[coChannel k.desc]
    !c.op.any fun o => o.k.inst == k.inst && o.left
  | some .mirror => k.phase == .issued
  | _ => true

/-! ## Wait cycles (R162, R163) -/

/-- Whether a descriptor waits for strips of the queue end that its output i names, or, as a STREAM, for its LEAD (R162, R199). -/
def stripsWait (s : State) (k : Tk) (i q : Nat) : Bool :=
  let d := k.desc
  let pitch := match dOut d i with | some f => pushPitch f | none => 512
  match k.run with
  | .stream r =>
    (r.stage == .waitStrips && !claimsAll s k q (stPitchOut d) [stRows d])
      || (r.stage == .waitLead && stLead d != 0 && decide (stLead d ≤ outstanding s k.shelf q))
  | .drain r => r.judged && !claimsAll s k q pitch [(accSet s (tkEng s k) (dAccSet d)).rows]
  | .vec r => (r.jobs.head?).any fun j => j.queue == q && !claimsAll s k q j.pitch [j.rows]
  | .xfer r => (r.todo.head?).any fun n => !claimsAll s k q 512 [n]
  | .none => k.phase == .issued && dFamily d == some .putget && !claimsAll s k q 512 ((entryRows (getRows d + 1) (getRows d)).take 1)

/-- Issued work that has still to pop from a queue end (R162): before it begins all its inputs, then those of which it has not
read every row. -/
def stillPops (s : State) (k : Tk) (q : Nat) : Bool :=
  (pops k.desc).contains q &&
  (k.phase == .issued ||
    let e := tkEng s k
    match dFamily k.desc with
    | some .matmul => (s.engines[e]).run.any fun a => a.ticket == k.ticket && (List.finRange 4).any fun i =>
        dInQ k.desc i.val == some q && decide (a.done + (a.ins[i]).buf.length < a.t)
    | some .loadstat => (s.engines[e]).load.any fun l => l.ticket == k.ticket && decide (l.step + l.inp.buf.length < l.total)
    | _ => match k.run with
      | .vec r => !r.computed && (List.range 4).any fun i => dInQ k.desc i == some q && decide (gotCount k.desc r i < vcCount k.desc)
      | _ => true)

/-- The tickets that a waiting ticket waits for, by the edges of R162; a ticket is in flight up to its record (R139), and one may be its
own queue end's oldest producer or consumer. -/
def waitEdges (s : State) (k : Tk) : List TicketId :=
  let onDie := (tksOf s).filter fun o => o.shelf == k.shelf
  let oldest (p : Tk → Bool) : List TicketId :=
    match (onDie.filter p).foldl
        (fun (a : Option Tk) o => match a with | none => some o | some b => if o.inst < b.inst then some o else some b) none with
    | some o => [o.ticket]
    | none => []
  match k.phase with
  | .fetched =>
    let flags := (waitWords k.desc).filterMap fun w =>
      let e := flagEntry s k.ringDie w.2.flag
      if k.waited.getLsbD w.1 || feRemote e then none
      else if (getTk s (feProducer e)).any fun o => o.ringDie == k.ringDie then some (feProducer e) else none
    let seqs :=
      if accTurn s k then []
      else
        let e := tkEng s k
        let m := dAccSet k.desc
        let a := accSet s e m
        (onDie.filter fun o => o.phase == .fetched && namesSet s o e m && o.ticket != k.ticket
          && (if dormant a then decide (o.inst < k.inst) else dAccSeq o.desc == a.nextSeq)).map (·.ticket)
    let order := ((earlier s k).filter fun o =>
      (pops k.desc).any (fun q => (pops o.desc).contains q) || (pushes k.desc).any (fun q => (pushes o.desc).contains q)).map (·.ticket)
    flags ++ seqs ++ order
  | _ =>
    if k.phase == .issued || k.phase == .running then
      let pop := ((pops k.desc).filter fun q => stillPops s k q && (headEntry s k.shelf q).isNone).flatMap fun q =>
        oldest fun o => (pushes o.desc).contains q
      let push := (List.range 2).flatMap fun i => match dOutW k.desc i with
        | .queue q => if stripsWait s k i q then oldest fun o => (pops o.desc).contains q else []
        | _ => []
      pop ++ push
    else []

/-- Tickets reachable from a list in n rounds. -/
def waitReach (s : State) : Nat → List TicketId → List TicketId
  | 0, l => l
  | n + 1, l =>
    let more := (l.flatMap fun t => match getTk s t with | some k => waitEdges s k | none => []).eraseDups.filter fun t => !l.contains t
    if more.isEmpty then l else waitReach s n (l ++ more)

def waitNext (s : State) (t : TicketId) : List TicketId :=
  match getTk s t with | some k => (waitEdges s k).eraseDups | none => []

/-- Members of a wait cycle among the tickets reachable from t. -/
def cycleMembers (s : State) (t : TicketId) : List TicketId :=
  (waitReach s 256 [t]).filter fun u => (waitReach s 256 (waitNext s u)).contains u

/-- Cycles among members: those that reach one another count as one (log entry 24). -/
def cycleCount (s : State) : Nat → List TicketId → Nat
  | 0, _ => 0
  | n + 1, l =>
    match l with
    | [] => 0
    | u :: _ =>
      let mine := waitReach s 256 [u]
      1 + cycleCount s n (l.filter fun v => !(mine.contains v && (waitReach s 256 [v]).contains u) && v != u)

/-- WAIT_CYCLE_SEARCH: the stall interval of a ticket has passed. -/
def execWaitCycleSearch (t : TicketId) (s : State) : Outcome State Fault Refusal :=
  match getTk s t with
  | none => .next s
  | some k =>
    if !dispatches s k then .next s
    else
      let ms := cycleMembers s t
      let n := cycleCount s 256 ms
      let s1 := ms.foldl (fun s u => match getTk s u with
        | none => s
        | some q =>
          if q.phase == .fetched then modTk s u (failTk .deadlock)
          else if givesWay s q then stopWork s q .deadlock else s) s
      let s2 := modDie s1 k.ringDie fun r => { r with deadlocks := (List.range n).foldl (fun x _ => countUp x) r.deadlocks }
      .next (settle s s2)

end Sys2Proof.Machine
end

