-- ==== Sys2Proof/Machine/Commit.lean ====
section
/-! DEFINITION. Commits and their undoing: scale history, commit images, STEP_COMMIT, DIE_SWAP, REPLAY, CANCEL and
CANCEL_COMPLETE (R97, R98, R160, R305 to R309, R320 to R327). -/

namespace Sys2Proof.Machine

open Host

/-! ## The scale history (R97, R98) -/

def clampI (lo hi x : Int) : Int := max lo (min hi x)

/-- σ of an entry from its history (R97); a capture of 7Fh is passed over (R99). -/
def chooseSigma (e : List Byte) : Byte :=
  let byte (i : Nat) : Byte := BitVec.ofNat 8 (fieldNat e i 1)
  let init := byte 2
  let margin := fieldNat e 1 1 % 8
  let hist := ((List.range 16).map fun i => byte (8 + i)).filter fun b => b != 0x80 && b != 0x7F
  if bitOf (byte 1) 6 then init
  else match hist with
    | [] => init
    | b :: l =>
      let top := (l.foldl captureMax b).toInt
      i8 (clampI (-127) 127 (top - (if fieldNat e 0 1 = 0 then 8 else 15) + margin))

/-- An entry after the commit of data step t (R98). LAST_STEP takes t, the step that commits, and not the count that follows
it (R100; DEDUCED, log entry 59). -/
def commitEntry (t : Nat) (e : List Byte) : List Byte :=
  let par := t % 2
  let head := fieldNat e 3 1 % 16
  let e := overlay e 31 (sliceBytes e (4 + par) 1)
  let e := overlay e (8 + head) (sliceBytes e (6 + par) 1)
  let e := overlay e 3 (leBytes 1 (fieldNat e 3 1 / 16 * 16 + (head + 1) % 16))
  let e := overlay e (4 + par) [chooseSigma e]
  let e := overlay e (6 + par) [(0x80 : Byte)]
  overlay e 24 (leBytes 4 t)

/-- An entry with both capture slots empty, as a commit image holds it (R320). -/
def emptyCaptures (e : List Byte) : List Byte := overlay e 6 [(0x80 : Byte), 0x80]

/-! ## Blocks of memory -/

/-- A burst takes the poison pattern in place of data (R217, R436); no failure mark of it is cleared. -/
def putPoison (s : State) (b : Nat) : State :=
  if burstTripped s b then s
  else
    let s := freshCheck { s with poison := sparseSet false s.poison b true, writebacks := sparseSet false s.writebacks b false } b
    tapHome (dropReservations s b) true b true

/-- Writes whole bursts from burst b on: data and whether the source was poisoned; a poisoned one carries the poison pattern
on (R436). -/
def putBursts (s : State) (b : Nat) (l : List (List Byte × Bool)) : State :=
  ((List.range l.length).zip l).foldl (fun s p => if p.2.2 then putPoison s (b + p.1) else (writeWhole s (b + p.1) p.2.1).1) s

/-- Reads the bursts that hold n bytes from burst b on, past the read taps of their homes, with the entries of 32 bytes
among the n bytes changed by f; the second part is each burst with whether it came poisoned. -/
def takeBursts (s : State) (b n : Nat) (f : List Byte → List Byte) : State × List (List Byte × Bool) :=
  let ix := List.range ((n + 255) / 256)
  (ix.foldl (fun s i => touchBurst s (b + i)) s,
   ix.map fun i =>
    let bad := burstBad s (b + i)
    let es := pieces 32 (burstBytes s (b + i))
    let k := if bad then 0 else (n - 256 * i + 31) / 32
    (((es.take k).map f ++ es.drop k).flatten, bad))

/-- Bursts with zeros past their first n bytes. -/
def padBursts (n : Nat) (l : List (List Byte × Bool)) : List (List Byte × Bool) :=
  ((List.range l.length).zip l).map fun p => (fitBytes 256 (p.2.1.take (n - 256 * p.1)), p.2.2)

/-- Bursts whose bytes past the first n are those that the memory holds from burst b on: what shares a table's last burst
stays, and the burst is still written whole (R436; log entry 58). -/
def mergeTail (s : State) (b n : Nat) (l : List (List Byte × Bool)) : List (List Byte × Bool) :=
  ((List.range l.length).zip l).map fun p =>
    let k := min 256 (n - 256 * p.1)
    (p.2.1.take k ++ (burstBytes s (b + p.1)).drop k, p.2.2)

def up4k (n : Nat) : Nat := (n + 4095) / 4096 * 4096

/-! ## Headers and images (R320, R325) -/

def scalePart (r : SlotR) : Nat := up4k (32 * r.scaleCount.toNat)
def recordPart (r : SlotR) : Nat := up4k r.recordBytes.toNat
def imageSize (r : SlotR) : Nat := 4096 + scalePart r + recordPart r
def imageAddr (r : SlotR) (t : Nat) : Nat := r.imageBase.toNat + t % 2 * imageSize r

/-- Payload of a copy: the image without its header, then every region (R324). -/
def payloadBytes (s : State) (j : Slot) : Nat :=
  imageSize s.slots[j] - 4096 + ((regionsOf s j).map (·.bytes)).foldl (· + ·) 0

/-- Size of a half (R324). -/
def halfBytes (s : State) (j : Slot) : Nat := 4096 + up4k (payloadBytes s j)

/-- A checkpoint header of data step t, whose commit ran under a profile (R325). -/
def headerBytes (s : State) (j : Slot) (profile : Byte) (kind t stream check : Nat) (stepRecord : List Byte) : List Byte :=
  let r := s.slots[j]
  let h := leBytes 4 headerMagic ++ leBytes 2 1 ++ wordBytes 2 (s.fabric.moduleId.setWidth 16) ++ [profile]
    ++ leBytes 1 j.val ++ leBytes 1 kind ++ leBytes 1 0 ++ leBytes 4 t ++ wordBytes 8 r.seed ++ leBytes 4 stream
    ++ wordBytes 4 r.scaleCount ++ wordBytes 4 r.recordBytes ++ leBytes 4 (regionsOf s j).length ++ leBytes 8 (payloadBytes s j)
    ++ leBytes 4 check ++ leBytes 12 0 ++ fitBytes 64 stepRecord ++ leBytes 124 0
  h ++ wordBytes 4 (crc32c h)

/-- Copy t mod 2 of the slot's step record, as a read of its burst delivers it. -/
def stepRecord (s : State) (j : Slot) (t : Nat) : List Byte := memBytes s (stepRecordAddr s.slots[j] t) 64
def readRecord (s : State) (j : Slot) (t : Nat) : State := (readSpan s (stepRecordAddr s.slots[j] t) 64).1

/-- Writes image t mod 2 for data step t (R320, R321 step 5). -/
def writeImage (s : State) (j : Slot) (t : Nat) : State :=
  let r := s.slots[j]
  let a := imageAddr r t / 256
  let blank (n : Nat) : List (List Byte × Bool) := List.replicate n (List.replicate 256 0, false)
  let head := [(headerBytes s j r.inForceId 0 t r.streamStep.toNat 0 (stepRecord s j t), false)] ++ blank 15
  let n := 32 * r.scaleCount.toNat
  let x := takeBursts (readRecord s j t) (r.scaleBase.toNat / 256) n emptyCaptures
  let scales := padBursts n x.2
  let y := takeBursts x.1 (r.recordBase.toNat / 256) r.recordBytes.toNat id
  let recs := y.2
  let s := putBursts y.1 a (head ++ scales ++ blank (scalePart r / 256 - scales.length) ++ recs ++ blank (recordPart r / 256 - recs.length))
  modSlot s j fun r => { r with images := (r.images.filter fun p => p.1.val != t % 2) ++ [(Fin.ofNat 2 t, BitVec.ofNat 32 t)] }

/-- The record region of die d (R319). -/
def recordBaseOf (r : SlotR) (d : Nat) : Nat := r.recordBase.toNat + 2 * d * stackSpan

/-- Writes the scale table and the record regions of the four dies back from an image (R323). -/
def restoreImage (s : State) (j : Slot) (t : Nat) : State :=
  let r := s.slots[j]
  let a := imageAddr r t / 256 + 16
  let n := 32 * r.scaleCount.toNat
  let x := takeBursts s a n id
  let y := takeBursts x.1 (a + scalePart r / 256) r.recordBytes.toNat id
  let b := r.scaleBase.toNat / 256
  let s := putBursts y.1 b (mergeTail y.1 b n x.2)
  (List.range 4).foldl (fun s d => putBursts s (recordBaseOf r d / 256) y.2) s

/-- Sets VALUE of the slot's committed flag on all four dies. -/
def setCommitted (s : State) (j : Slot) (t : Nat) : State :=
  let f := (s.slots[j]).committedFlag
  (List.finRange 4).foldl (fun s d =>
    if flagUsable s d f j then putFlag s d f (feSetValue (flagEntry s d f) (BitVec.ofNat 16 t)) else s) s

/-- Rebases the commit flag's target (R323). -/
def rebase (s : State) (j : Slot) : State :=
  modSlot s j fun r => { r with commitBase := feValue (flagEntry s 0 r.commitFlag) }

/-! ## The interval proposal (R327) -/

/-- Failure entries that count under R327. -/
def countingKind (k : BitVec 8) : Bool := k != 0x0D && k != 0x0E && 1 ≤ k.toNat && k.toNat ≤ 0x0F

/-- ⌈log₂ n⌉ for n ≥ 1. -/
def log2Up (n : Nat) : Nat := if n ≤ 1 then 0 else Nat.log2 (n - 1) + 1

/-- The member's proposal k_p (R327). -/
def proposal (s : State) (j : Slot) : Nat :=
  let r := s.slots[j]
  let f := (s.nv.failures.filter fun e =>
    countingKind e.kind && decide ((s.commits - e.commits).toNat ≤ s.rateWindow.toNat)).length
  min (max (kMax r - log2Up (f + 1)) (kMin r)) (kMax r)

/-! ## STEP_COMMIT (R321, R322) -/

/-- What the start of a new step clears and hands on. Under Strict a cause that no replay covers leaves the step unresolved (R306,
R307). -/
def nextStep (r : SlotR) : SlotR :=
  let strict := decide (r.inForce.integrity = .strict)
  { r with
    suspect := false, suspectPair := none, gated := false, chains := [], replayCalls := [], noReplay := false, callLog := [], replaying := none, repeatFailed := false,
    suspectPrev := strict && r.suspect, pairPrev := if strict then r.suspectPair else none,
    replayPrev := if strict then joinedCalls r.chains r.chains.length r.replayCalls else [],
    chainsPrev := if strict then r.chains else [], callLogPrev := if strict then r.callLog else [],
    resolutionFailed := strict && r.noReplay }

/-- A slot that returns to a committed step starts it with nothing in doubt. -/
def dropDoubts (s : State) (j : Slot) : State :=
  modSlot { s with repeats := s.repeats.filter fun k => dSlot k.desc != j } j fun r =>
    { r with
      suspect := false, suspectPair := none, gated := false, chains := [], replayCalls := [], noReplay := false, callLog := [], replaying := none, repeatFailed := false,
      suspectPrev := false, pairPrev := none, replayPrev := [], chainsPrev := [], callLogPrev := [], resolutionFailed := false,
      rollback := false, parts := [], variantParts := [] }

/-- Clears a die swap that the slot's aborted step set; one that has still to take effect is withdrawn (R305). -/
def unswap (s : State) (j : Slot) : State :=
  (List.finRange 2).foldl (fun (s : State) (p : Fin 2) =>
    if s.integrity.swapSlot[p] != j then s
    else if s.integrity.swap[p] then { s with integrity := { s.integrity with swapDue := s.integrity.swapDue.set p (some false) } }
    else { s with integrity := { s.integrity with swapDue := s.integrity.swapDue.set p none } }) s

/-- The tiles of ring H are counted from 0 again: a step of the slot starts (R40). -/
def clearTiles (s : State) (j : Slot) : State := { s with tileCounts := sparseClear s.tileCounts (8 * j.val) (8 * (j.val + 1)) }

/-- Whether the slot's commit is due and may proceed. -/
def commitReady (s : State) (j : Slot) : Bool :=
  let r := s.slots[j]
  let t := r.dataStep.toNat + 1
  s.power == .running && flagUsable s 0 r.commitFlag j
    && flagReached (feValue (flagEntry s 0 r.commitFlag)) (r.commitBase + r.commitInc.setWidth 16)
    && !(s.repeats.any fun k => dSlot k.desc == j) && !r.repeatFailed && !r.rollback
    && !(r.copy.any fun c => c.step.toNat % 2 == t % 2)
    && (r.inForce.integrity != .strict || r.finalStep == r.dataStep) && r.slotState == .running

/-- The flags that a commit reads: the commit flag on AD0, and the committed flag of every die (R296, R321). -/
def commitEntries (s : State) (j : Slot) : List (CodedTable × Nat) :=
  (.flag 0, (s.slots[j]).commitFlag.toNat) :: (List.finRange 4).map fun d => (.flag d, (s.slots[j]).committedFlag.toNat)

/-- STEP_COMMIT: the commit of slot j's step. An entry that cannot be read is a control fault of the resilience logic, which commits
nothing further (R294, R296). -/
def execStepCommit (j : Slot) (s : State) : Outcome State Fault Refusal :=
  if unitIsolated s .mirror || !commitReady s j then .next s
  else if controlWrong s .mirror (commitEntries s j) then .next (settle s (controlFault s .mirror (unitByte 6 0) j 0))
  else
    let r := s.slots[j]
    let strict := r.inForce.integrity == .strict
    let t := r.dataStep.toNat + 1
    let n := s.commits + 1
    let s1 := { s with commits := n, nv := if n.toNat % 4096 = 0 then { s.nv with commits := n } else s.nv }
    let x := takeBursts s1 (r.scaleBase.toNat / 256) (32 * r.scaleCount.toNat) (commitEntry r.dataStep.toNat)
    let s1 := putBursts x.1 (r.scaleBase.toNat / 256) x.2
    let s1 := modSlot s1 j fun r => nextStep { r with dataStep := r.dataStep + 1, streamStep := r.streamStep + 1,
                                                      commitBase := r.commitBase + r.commitInc.setWidth 16 }
    let s1 := clearTiles s1 j
    let s1 := clearFailures s1 fun e => (e.kind = 0x0C && e.slot.toNat == j.val) || e.kind = 0x0F
    let s2 := writeImage s1 j t
    let s3 := if strict then s2 else decideCopy (makeFinal s2 j (BitVec.ofNat 32 t)) j t r.jobExponent
    let f := r.committedFlag
    let s4 := (List.finRange 4).foldl (fun s d => (setFlagAt s d f j none 0 1).getD s) s3
    .next (settle s (noteWaits (unswap s4 j)))

/-! ## DIE_SWAP (R305) -/

/-- Whether the pair has no ticket in flight. -/
def pairIdle (s : State) (p : Fin 2) : Bool := !(tksOf s).any fun k => diePair k.ringDie == p

/-- DIE_SWAP: a swap or its clearing that waits takes effect once every ticket of the pair has completed. -/
def execDieSwap (p : Fin 2) (s : State) : Outcome State Fault Refusal :=
  match s.integrity.swapDue[p] with
  | none => .next s
  | some b =>
    if !pairIdle s p then .next s
    else
      let g := s.integrity
      let s1 := { s with integrity := { g with swap := g.swap.set p b, swapDue := g.swapDue.set p none } }
      .next (settle s (if b then logEntry s1 0x11 (unitByte 0 0) g.swapSlot[p] 0 p.val 0 else s1))

/-! ## REPLAY and repeats (R307 to R309) -/

/-- The signature that the original run left for a CALL of data step t (R316). -/
def signatureOf (s : State) (j : Slot) (c : CallId) (t : BitVec 32) : Option (BitVec 64) :=
  let r := s.slots[j]
  let a := r.sigBase.toNat + 16 * (4 * c.2.toNat + (tkDie c.1).val)
  if r.sigEntries = 0 then none
  else if BitVec.ofNat 32 (memNat s (a + 8) 4) = t then some (BitVec.ofNat 64 (memNat s a 8)) else some 0

/-- A replay point of die d for slot j: between two CALLs of its ring H, no OPEN set on its engines, and no entry in the slot's queue
ends (R308). -/
def replayPoint (s : State) (d : Die) (j : Slot) : Bool :=
  !((tksOf s).any fun o => o.ringDie == d && dFamily o.desc == some .call && o.issueNo != 0 && o.phase != .completed)
    && !((List.finRange 8).any fun e => engDie e == d && (List.finRange 16).any fun m => (accSet s e m).state == .opened)
    && !s.queues.any fun p => p.1 / 4096 == d.val && p.2.any fun x => x.slot == j && !x.freed

/-- A descriptor that runs a second time, as if just fetched on its CALL's ring. -/
def againTk (s : State) (d : Desc) (c : CallId) (ring : RingKind) (idx : BitVec 16) : Tk :=
  let k := freshTk s d (tkDie c.1) ring (dSlot d) idx
  { k with parent := if ring == .x then some c else none, isReplay := true, streamStep := k.streamStep - 1, dataStep := k.dataStep - 1 }

/-- The CALL of a replay is issued to a context of the other die (R307). -/
def issueReplay (s : State) (l : CallLog) : State :=
  let n := s.nextIssue
  let k := { againTk s l.desc l.call .h l.call.2 with phase := .issued, issueNo := n }
  let s := setTk { s with nextInst := s.nextInst + 1, nextIssue := n + 1 } k
  let d := tkHost s k
  match (List.finRange 8).find? fun c => (ctxOf s d c).isNone with
  | some c => startCtx s k d c l.bankB
  | none => s

/-- A suspect CALL of the step before and those joined to it begin their replay at a replay point of every die it takes, once their
tickets and enough contexts are free (R307, R308). -/
def startReplay (s : State) (j : Slot) (c : CallId) : State :=
  let r := s.slots[j]
  let ids := joinedCalls r.chainsPrev r.chainsPrev.length [c]
  let logs := r.callLogPrev.filter fun l => ids.contains l.call
  let ready := logs.all fun l =>
    let d := dieXor (tkDie l.call.1)
    replayPoint s d j && (getTk s l.call.1).isNone
      && decide ((logs.filter fun o => dieXor (tkDie o.call.1) == d).length
        ≤ ((List.finRange 8).filter fun x => (ctxOf s (servedDie s d) x).isNone).length)
  if r.inForce.integrity != .strict || !ready then s
  else
    let run : ReplayRun :=
      { calls := ids.map fun i => (i, 0), descs := [], taken := 0, flags := match logs with | l :: _ => l.flags | [] => s.flags }
    noteWaits (logs.foldl issueReplay (modSlot s j fun r => { r with replaying := some run }))

/-- The dispatch unit of the other die takes the descriptors that a replay's CALLs expand to, in order, while their tickets are free
(R139, R307). -/
def takeReplayed : List (CallId × Desc) → Slot → State → State
  | [], _, s => s
  | p :: l, j, s =>
    if (getTk s (dTicket p.2)).isSome then s
    else
      let n := match (s.slots[j]).replaying with | some r => r.taken | none => 0
      let k := againTk s p.2 p.1 .x (BitVec.ofNat 16 n)
      let s := modReplay (setTk { s with nextInst := s.nextInst + 1 } k) j fun r => { r with taken := n + 1 }
      takeReplayed l j (match screenDesc s k (!ticketOk (tkDie p.1.1) .x k.ticket) with
        | none => s
        | some .invalid => refuse s k.ticket
        | some x => modTk s k.ticket (failTk x))

/-- A replay ends with its last descriptor: the signatures are compared, logged and counted, and the step's resolution fails where
they differ (R307). -/
def endReplay (s : State) (j : Slot) (run : ReplayRun) : State :=
  let r := s.slots[j]
  let same (p : CallId × BitVec 64) : Bool := signatureOf s j p.1 (r.dataStep - 1) == some p.2
  let s := run.calls.foldl (fun s p =>
    let g := s.integrity
    let s := { s with integrity := { g with replays := countUp g.replays,
                                            replayMismatches := if same p then g.replayMismatches else countUp g.replayMismatches } }
    logEntry s (if same p then 0x09 else 0x0A) (unitByte 0 (tkDie p.1.1).val) j p.1.1.val 0 0) s
  let rest := r.replayPrev.filter fun c => !run.calls.any fun p => p.1 == c
  let failed := r.resolutionFailed || !run.calls.all same
  modSlot { s with queues := s.queues.filterMap fun p =>
      let l := if p.1 / 4096 < 4 then p.2 else p.2.filter fun x => x.slot != j
      if l.isEmpty then none else some (p.1, l) } j fun r =>
    { r with replaying := none, replayPrev := rest, resolutionFailed := failed, suspectPrev := r.suspectPrev && (failed || !rest.isEmpty) }

/-- An entry that a flagged descriptor has popped stands in the queue ends of the other die again, for its repeat. -/
def returnEntry (s : State) (d : Shelf) (q : Nat) (e : Entry) : State := putEntries s d q (entriesOf s d q ++ [{ e with freed := false }])

/-- A flagged update descriptor is reissued on the other die of its pair, over the same inputs (R309): the entries that it popped are
there again, its waits have been satisfied, and its sets are not performed again. -/
def reissue (s : State) (k : Tk) : State :=
  let s := k.popped.foldl (fun s p => returnEntry s { k with isRepeat := true }.shelf p.1 p.2) s
  noteWaits (setTk { s with nextInst := s.nextInst + 1 }
    { k with inst := s.nextInst, phase := .fetched, issueNo := 0, doneNo := 0, began := false, waited := BitVec.allOnes 4, causes := [], detail := 0,
             wrote := false, noUnit := false, badAt := 0, hitCols := [], hitChunks := [], isRepeat := true, run := .none })

/-- REPLAY: what the resilience logic does next about the CALL, or the update descriptor, that a ticket names: a flagged update
descriptor is reissued (R309); a suspect CALL of the step before starts its replay; the descriptors of a replay under way are taken
up, and a replay whose work is done ends (R307, R308). What the replayed descriptors do is done by the commands of their families. -/
def execReplay (j : Slot) (die : Die) (number : Fin 256) (s : State) : Outcome State Fault Refusal :=
  let t := dieTk die number
  let r := s.slots[j]
  if s.power != .running then .next s
  else match s.repeats.find? fun k => dSlot k.desc == j && k.ticket == t with
    | some k => if (getTk s t).isSome then .next s else .next (settle s (reissue s k))
    | none =>
      match r.replaying with
      | some run =>
        if run.taken < run.descs.length then .next (settle s (noteWaits (takeReplayed (run.descs.drop run.taken) j s)))
        else if (slotTks s j).any (·.isReplay) then .next s
        else .next (settle s (endReplay s j run))
      | none =>
        match r.replayPrev.find? fun c => c.1 == t with
        | some c => .next (settle s (startReplay s j c))
        | none => .next s

/-! ## CANCEL (R32, R74, R126, R160, R161, R177, R330) -/

/-- Empties what the engines hold of slot j under an epoch other than the slot's own (R32). -/
def emptyTiles (s : State) (j : Slot) : State :=
  let ep := (s.slots[j]).epoch
  let stale (t : Tile) : Bool := t.slot == j && t.epoch != ep
  { s with engines := s.engines.map fun r =>
      { r with active := if r.active.any stale then none else r.active, shadow := if r.shadow.any stale then none else r.shadow,
               shadowLost := if r.shadowLost.any fun p => p.1 == j && p.2 != ep then none else r.shadowLost } }

/-- OPEN sets of slot j under an old epoch become EMPTY, but for one whose DRAIN still supplies its rows, and which that DRAIN
leaves EMPTY (R126). The counts of sets for which a START or SEED of the slot has issued that will never open them return to 0:
R116 says so of a set that becomes EMPTY or INVALID, and is silent on one that was never opened (DESIGN CHOICE, log entry 100).
`stopped` are the descriptors as the CANCEL found them. -/
def emptySets (s : State) (j : Slot) (stopped : List Tk) : State :=
  let ep := (s.slots[j]).epoch
  let opening (e : Eng) (m : Fin 16) : Bool := stopped.any fun k => k.phase == .issued && namesSet s k e m && opensSet k.desc
  let drained (e : Eng) (m : Fin 16) : Bool := (tksOf s).any fun k => namesSet s k e m && drainAtWork k
  (List.finRange 8).foldl (fun s e => (List.finRange 16).foldl (fun s m =>
    let a := accSet s e m
    if a.state == .opened && a.slot == j && a.epoch != ep then (if drained e m then s else emptySet s e m)
    else if a.state != .opened && a.nextSeq != 0 && opening e m then modSet s e m fun a => { a with nextSeq := 0 }
    else s) s) s

/-- Entries of slot j under an old epoch are freed (R74). -/
def freeStale (s : State) (j : Slot) : State :=
  let ep := (s.slots[j]).epoch
  { s with queues := s.queues.filterMap fun p =>
      let l := dropFreed (p.2.map fun x => if x.slot == j && x.epoch != ep then { x with freed := true } else x)
      if l.isEmpty then none else some (p.1, l) }

/-- Head to tail on a slot's rings H and X of every die; the second part counts the descriptors skipped (R160 step 4). -/
def skipRings (s : State) (j : Slot) : State × Nat :=
  (List.finRange 4).foldl (fun (a : State × Nat) d =>
    let r := ringsOf a.1 d j
    let left (x : Ring) : Nat := if x.size = 0 then 0 else (x.tail.toNat + x.size.toNat - x.head.toNat) % x.size.toNat
    (modRings a.1 d j fun r => { r with h := { r.h with head := r.h.tail }, x := { r.x with head := r.x.tail } },
     a.2 + left r.h + left r.x)) (s, 0)

/-- Abandons a due copy whose first MIRROR has not begun, when the slot is already committed past it (R330). -/
def abandonCopy (s : State) (j : Slot) : State :=
  modSlot s j fun r =>
    match r.mirrorDue with
    | some t => if r.copy.isNone && t != r.dataStep then { r with mirrorDue := none, copyForced := true } else r
    | none => r

/-- Families whose work is their sets and their waits: until the sets are performed a CANCEL still stops them, unless a status has been
decided before (R160, R163). So it does a STREAM with reads still out (R204). -/
def setsOnly (d : Desc) : Bool := dFamily d == some .flag || dFamily d == some .fence || dFamily d == some .checkarm

/-- Ends the slot's work under the epochs that are not its own, the ticket `self` apart; the second part counts the tickets
that end with CANCELLED (R160 steps 3 to 7). -/
def stopSlot (s : State) (j : Slot) (self : Option TicketId) : State × Nat :=
  let ep := (s.slots[j]).epoch
  let mine := (slotTks s j).filter fun k => dEpoch k.desc != ep && some k.ticket != self
  let r := mine.foldl (fun (a : State × Nat) k =>
    match k.phase with
    | .fetched => (modTk a.1 k.ticket (failTk .cancelled), a.2 + 1)
    | .issued => if givesWay a.1 k then (stopWork a.1 k .cancelled, a.2 + 1) else a
    | .running => if givesWay a.1 k then (stopWork a.1 k .cancelled, a.2 + 1) else a
    | .ended =>
      if (setsOnly k.desc || (dFamily k.desc == some .stream && instBusy a.1 k.inst)) && statusOf k.causes == .ok
      then (modTk a.1 k.ticket (addCause .cancelled), a.2 + 1) else a
    | _ => a) (s, 0)
  (abandonCopy (freeStale (emptySets (emptyTiles r.1 j) j mine) j) j, r.2)

/-- CANCEL: an issued CANCEL bumps its slot's epoch and stops the slot's work (R160 steps 2 to 7). One that finds the epoch
already bumped completes with CANCELLED (R161). -/
def execCancel (t : TicketId) (s : State) : Outcome State Fault Refusal :=
  match beginTk s t (isFn .cancel 0) (fun _ _ => true) (fun _ _ => true) with
  | .wait => .next s
  | .ended s1 => .next (settle s s1)
  | .ok s1 k =>
    let j := dSlot k.desc
    if dEpoch k.desc != (s1.slots[j]).epoch then .next (settle s (modTk s1 t (failTk .cancelled)))
    else
      let s2 := modSlot s1 j fun r => { r with epoch := r.epoch + 1 }
      let (s3, skipped) := skipRings s2 j
      let (s4, n) := stopSlot s3 j (some t)
      let ep := (s4.slots[j]).epoch
      let det := ep.toNat * 2 ^ 48 + n % 65536 * 2 ^ 16 + skipped % 65536
      .next (settle s (modTk s4 t fun q => { q with detail := BitVec.ofNat 64 det }))

/-- The state that a CANCEL returns the slot to (R323): the image of F under a rollback mark, else of the last commit. A
slot without a commit image keeps what it has (log entry 34). -/
def returnToCommit (s : State) (j : Slot) : State :=
  let r := s.slots[j]
  let t := if r.rollback then r.finalStep else r.dataStep
  let s := if r.images.any fun p => p.2 == t then
      let s := restoreImage s j t.toNat
      setCommitted (modSlot s j fun r => { r with dataStep := t, streamStep := t }) j t.toNat
    else s
  let s := dropDoubts s j
  noteWaits (rebase (clearTiles s j) j)

/-- Old-epoch tickets of the slot, and its old-epoch reads (R160 step 8). -/
def slotDrained (s : State) (j : Slot) (self : TicketId) : Bool :=
  !((slotTks s j).any fun k => k.ticket != self && dEpoch k.desc != (s.slots[j]).epoch)
    && !(s.lingering.any fun k => dSlot k.desc == j && instBusy s k.inst)

/-- CANCEL_COMPLETE: once every old-epoch ticket has its record and every old-epoch read has drained, the slot returns to
its last commit and the CANCEL ends with OK. -/
def execCancelComplete (t : TicketId) (s : State) : Outcome State Fault Refusal :=
  match getTk s t with
  | none => .next s
  | some k =>
    let j := dSlot k.desc
    if dFamily k.desc != some .cancel || k.phase != .running || dEpoch k.desc = (s.slots[j]).epoch || !slotDrained s j t then .next s
    else .next (settle s (modTk (returnToCommit s j) t (endTk [] k.detail.toNat)))

end Sys2Proof.Machine
end

