-- ==== Sys2Proof/Machine/Agent.lean ====
section
/-! DEFINITION. The object dictionary agent: who is served, how a write is taken and answered (R366 to R373, R379), and profile
changes (R381 to R384). -/

namespace Sys2Proof.Machine

open Host

/-! ## The CAN XL buses (R368, R369, R375 to R377) -/

def busState (s : State) (b : Bus) : Fin 5 := match b with | .fbA => s.field.stateA | .fbB => s.field.stateB
def setBus (s : State) (b : Bus) (x : Fin 5) : State :=
  match b with
  | .fbA => { s with field := { s.field with stateA := x } }
  | .fbB => { s with field := { s.field with stateB := x } }

/-- A controller sends unless it is bus-off or in listen-only mode (R375 to R377). -/
def busSends (s : State) (b : Bus) : Bool := busState s b != 2 && busState s b != 3

/-- What the module's own frames carry on a bus: the VCID and the SDT in use, and SEC 0 (R368). -/
def ownCarrier (s : State) (b : Bus) : Carrier := { bus := b, vcid := s.field.used.2.2.1, sdt := s.field.used.2.2.2, sec := false }

/-- A frame that the module sends on a bus: none where its controller does not send. -/
def framesOut (s : State) (b : Bus) (func : BitVec 5) (node : BitVec 6) (accept : BitVec 32) (data : List Byte) : List Sent :=
  if busSends s b then [.canFrame (ownCarrier s b) func node accept data] else []

def sendFrame (s : State) (b : Bus) (func : BitVec 5) (node : BitVec 6) (accept : BitVec 32) (data : List Byte) : State :=
  { s with sent := s.sent ++ framesOut s b func node accept data }

/-- Whether a controller hears: not while it is bus-off. -/
def busHears (s : State) (b : Bus) : Bool := s.power == .running && busState s b != 2

/-- A frame is seen on a bus: it is silent no longer. -/
def heardOn (s : State) (b : Bus) : State := if busHears s b && busState s b == 4 then setBus s b 0 else s

/-- A frame that is heard and not ignored: its VCID and SDT are those in use, and SEC is 0 (R368). -/
def frameTaken (s : State) (c : Carrier) : Bool := busHears s c.bus && c == ownCarrier s c.bus

/-! ## Answers (R369, R370, R398) -/

/-- Response OP codes. -/
def opDataMore : BitVec 3 := 4
def opDataLast : BitVec 3 := 5
def opAck : BitVec 3 := 6
def opFail : BitVec 3 := 7

/-- The acceptance field of a response: the object and the segment of the request, under the response's OP. -/
def acceptOf (a : Asked) (op : BitVec 3) : BitVec 32 := a.index ++ a.sub ++ op ++ a.seg

/-- What the agent's answer sends outward: on CAN a RESPONSE or a TOOL_RESPONSE of the module's own NODE on the bus of the request. -/
def answered (s : State) (a : Asked) (op : BitVec 3) (st : Status) (data : List Byte) : List Sent :=
  match a.port with
  | .request c _ => framesOut s c.bus 0x05 s.straps.node (acceptOf a op) data
  | .tool c _ => framesOut s c.bus 0x09 s.straps.node (acceptOf a op) data
  | .ucie => [.objAnswer op st data]

/-- The agent answers on a port; the mailbox shows the answer in OBJ_STATUS and OBJ_DATA. -/
def answer (s : State) (a : Asked) (op : BitVec 3) (st : Status) (data : List Byte) : State :=
  let t := match a.port with
    | .ucie =>
      let word := 2 ^ 63 + data.length * 2 ^ 32 + op.toNat * 256 + st.code.toNat
      { s with mailbox := { s.mailbox with objDone := true, objStatus := BitVec.ofNat 64 word,
                                           objData := overlay s.mailbox.objData 0 data } }
    | _ => s
  { t with sent := s.sent ++ answered s a op st data }

/-- Statuses of a success (R8, R370). -/
def isSuccess (st : Status) : Bool := st == .ok || st == .peakRefused

def answerWrite (s : State) (a : Asked) (st : Status) : State :=
  answer s a (if isSuccess st then opAck else opFail) st [st.code.setWidth 8]

/-- Whether the agent serves a port: a frame that is not ignored, names the module's own NODE and comes on a bus whose controller can
answer it; the mailbox while the link is up, after a later boot fault too (R368, R369, R376, R392, R403, R404). That a controller in
listen-only mode serves no request is the model's reading (DEDUCED from R376; log entry 89). -/
def agentServes (s : State) (port : Port) : Bool :=
  match port with
  | .request c node | .tool c node => frameTaken s c && busSends s c.bus && node == s.straps.node
  | .ucie => s.mailbox.linkUp && (s.power == .running || s.power == .bootFault false)

/-- Whether a port may write an RWM object: REQUEST on a worker, the head die on the manager (R10, R379). -/
def rwmOk (s : State) (port : Port) : Bool := port.requester == (if s.straps.manager then .headDie else .manager)

/-- What a write comes to: a status, or none while it holds the agent. -/
abbrev WriteResult := State × Option Status

def failWith (s : State) (st : Status) : WriteResult := (s, some st)
def okWith (s : State) : WriteResult := (s, some .ok)

/-- How a command object's write that repeats the last accepted one was answered (R373). -/
def asBefore (s : State) (index : BitVec 16) (sub : BitVec 8) (data : List Byte) : Option Status :=
  match s.lastCommand with
  | some (i, u, d, st) => if i == index && u == sub && d == data then some st else none
  | none => none

/-- Notes an accepted write of a command object (R373). -/
def noteCommand (s : State) (wo : Bool) (index : BitVec 16) (sub : BitVec 8) (data : List Byte) (st : Status) : State :=
  if wo && isSuccess st then { s with lastCommand := some (index, sub, data, st) } else s

/-- A write that the agent performs (R366, R367, R373): a repeat of the last accepted command is answered as before; otherwise
`f` decides it. `wo` tells a command object. -/
def agentWrite (a : Asked) (data : List Byte) (wo : Bool) (f : State → WriteResult) (s : State) : State :=
  match (if wo then asBefore s a.index a.sub data else none) with
  | some st => answerWrite s a st
  | none =>
    match f s with
    | (t, some st) => answerWrite (noteCommand t wo a.index a.sub data st) a st
    | (t, none) => t

/-! ## Profile changes -/

/-- Fields of the PREPARE layout in bits [6:0]; none for a reserved bit or encoding (R381). -/
def profileOf (x : Nat) : Option Profile :=
  if x / 4 % 2 = 1 || 128 ≤ x then none
  else match x % 4, x / 8 % 4 with
    | 0, i => level i .frugal
    | 1, i => level i .sustain
    | 2, i => level i .peak
    | _, _ => none
where
  level (i : Nat) (p : PowerMode) : Option Profile :=
    let make (l : Integrity) : Option Profile :=
      some { power := p, integrity := l, arrival := x / 32 % 2 = 1, mirrorFixed := x / 64 % 2 = 1 }
    match i with
    | 0 => make .lean
    | 1 => make .standard
    | 2 => make .strict
    | _ => none

/-- The units that take part in a change; retired engines are left out (R382). -/
def changeUnits (s : State) : List ModUnit :=
  (List.finRange 4).map .dispatch
    ++ ((List.finRange 8).filter fun e => !engRetired s e).map .engine ++ (List.finRange 8).map .accum
    ++ (List.finRange 8).map .vector ++ (List.finRange 4).flatMap (fun d => (List.finRange 8).map (.stream d))
    ++ (List.finRange 4).map .ringmaster ++ [.collective, .mirror, .power]

def setLast (s : State) (j : Slot) (st : Status) : State := modSlot s j fun r => { r with lastStatus := st }

/-- A refused profile command: LAST_STATUS shows it (R391). -/
def profileFail (s : State) (j : Slot) (st : Status) : WriteResult := failWith (setLast s j st) st

/-- The prepared profile goes to every unit; the agent is held until all have acknowledged (R382 steps 1 to 3). -/
def sendPrepare (s : State) (h : Held) (id : BitVec 8) (p : Profile) : WriteResult :=
  ({ modSlot s h.slot (fun r => { r with prepared := p, preparedId := id, unacked := changeUnits s }) with agentHeld := some h }, none)

/-- A write of 1F10h (R381, R382). -/
def writePrepare (port : Port) (data : List Byte) (s : State) : WriteResult :=
  let w := leNat data
  let j : Slot := Fin.ofNat 16 (w / 2 ^ 28)
  let id := w / 2 ^ 20 % 256
  if data.length != 4 then failWith s .invalid
  else match (if w / 128 % 2 ^ 13 = 0 then profileOf (w % 128) else none) with
    | none => profileFail s j .invalid
    | some p =>
      if id = 0 && p != Profile.reset then profileFail s j .invalid
      else if (s.slots[j]).phase != .idle then profileFail s j .busy
      else sendPrepare s { asked := { port := port, index := 0x1F10, sub := 0 }, slot := j, data := data } (BitVec.ofNat 8 id) p

/-- A write of 1F20h + j:01: the sequence of R382 again, accepted in PREPARED alone (R10, R383). -/
def writePrepared (port : Port) (j : Slot) (data : List Byte) (s : State) : WriteResult :=
  let r := s.slots[j]
  if data.length != 1 || r.phase != .prepared then profileFail s j .invalid
  else match profileOf (leNat data) with
    | none => profileFail s j .invalid
    | some p =>
      if r.preparedId = 0 && p != Profile.reset then profileFail s j .invalid
      else sendPrepare s { asked := { port := port, index := 0x1F20 + BitVec.ofNat 16 j.val, sub := 1 }, slot := j, data := data } r.preparedId p

/-- No ticket in flight and no set OPEN (R384). -/
def slotIdle (s : State) (j : Slot) : Bool :=
  (slotTks s j).isEmpty &&
    !(List.finRange 8).any fun e => (List.finRange 16).any fun m => (accSet s e m).state == .opened && (accSet s e m).slot == j

/-- Wear budget in seconds (R359). -/
def wearBudget : Nat := 31536000

/-- A record of the power manager (R362); its sequence number advances, and a full ring drops it. -/
def powerEvent (s : State) (code : Nat) (detail : Nat) : State :=
  let n := s.pm.evSeq + 1
  let s := { s with pm := { s.pm with evSeq := n } }
  let r := writeEvent s (leBytes 1 code ++ leBytes 1 (limitReasons s) ++ leBytes 2 (localLimit s) ++ leBytes 2 0 ++ wordBytes 2 n
    ++ leBytes 8 detail)
  if r.2 then r.1 else { r.1 with pm := { r.1.pm with eventsDropped := countUp r.1.pm.eventsDropped } }

/-- A write of 1F11h (R360, R384). Units that are idle switch at once; which they are the switch commands tell. -/
def writeCommit (data : List Byte) (s : State) : WriteResult :=
  let w := leNat data
  let j : Slot := Fin.ofNat 16 (w / 2 ^ 28)
  let id := BitVec.ofNat 8 (w / 2 ^ 20)
  let r := s.slots[j]
  if data.length != 4 then failWith s .invalid
  else if w % 2 ^ 20 != 0 || r.phase != .prepared || id != r.preparedId then profileFail s j .invalid
  else
    let classA := r.prepared.integrity != r.inForce.integrity || r.prepared.arrival != r.inForce.arrival
    if classA && !slotIdle s j then profileFail s j .busy
    else
      let refused := r.prepared.power == .peak && decide (wearBudget ≤ s.pm.wear.toNat)
      let st := if refused then Status.peakRefused else .ok
      let s := modSlot s j fun r => { r with phase := .committing, granted := refused, lastStatus := st, unswitched := changeUnits s }
      let s := if refused then powerEvent { s with pm := { s.pm with peakStatus := .peakRefused } } 0x44 s.pm.wear.toNat else s
      (s, some st)

/-- A write of 1F12h (R383). -/
def writeAbort (data : List Byte) (s : State) : WriteResult :=
  let w := leNat data
  let j : Slot := Fin.ofNat 16 (w / 2 ^ 28)
  let id := BitVec.ofNat 8 (w / 2 ^ 20)
  let r := s.slots[j]
  if data.length != 4 then failWith s .invalid
  else if w % 2 ^ 20 != 0 then profileFail s j .invalid
  else match r.phase with
    | .idle => okWith (setLast s j .ok)
    | .committing => profileFail s j .busy
    | .prepared =>
      if id = r.preparedId then okWith (modSlot s j fun r => { r with phase := .idle, lastStatus := .ok })
      else profileFail s j .invalid

/-! ## Switches -/

/-- Whether a unit stands between descriptors of slot j: none of them runs on it (R21, R384). -/
def unitBetween (s : State) (j : Slot) (u : ModUnit) : Bool :=
  match u with
  | .accum e => !(slotTks s j).any fun k => k.phase == .running && tkUnit s k == .engine e
  | u => !(slotTks s j).any fun k => k.phase == .running && tkUnit s k == u

/-- PROFILE_SWITCH: a unit between descriptors switches to the committed profile. -/
def execProfileSwitch (j : Slot) (u : ModUnit) (s : State) : Outcome State Fault Refusal :=
  if s.power != .running || !unitBetween s j u then .next s else .next (settle s (switchUnit s j u))

/-- RAIL_STEP: the regulators acknowledge one step of 10 mV toward the setpoint (R346). -/
def execRailStep (s : State) : Outcome State Fault Refusal :=
  if s.power != .running then .next s
  else
    let p := s.pm
    let v := if p.rail < p.railTarget then min p.railTarget (p.rail + 10) else if p.railTarget < p.rail then max p.railTarget (p.rail - 10) else p.rail
    .next (settle s { s with pm := { p with rail := v } })

end Sys2Proof.Machine
end

