-- ==== Sys2Proof/Machine/Matmul.lean ====
section
/-! DEFINITION. MATMULs as they begin in each of their four modes, and totals on their way between sets: MATMUL_START,
MATMUL_CONTINUE, MATMUL_SEED, MATMUL_ACCEPT, TOTALS_ROW, ABANDON_MARKER (R31, R52, R108 to R120, R128, R129, R435, R436). -/

namespace Sys2Proof.Machine

open Host

def isMode (m : AccMode) (d : Desc) : Bool := dFamily d == some .matmul && dAccMode d == m

/-- No MATMUL issued earlier for the same set is still at work: promotion follows ACC_SEQ (R115, R116). -/
def setTurn (s : State) (k : Tk) : Bool :=
  let e := tkEng s k
  !(tksOf s).any fun q => dFamily q.desc == some .matmul && (q.phase == .issued || q.phase == .running)
    && decide (q.issueNo < k.issueNo) && namesSet s q e (dAccSet k.desc)

/-! ## What a MATMUL needs (R31, R52, R58, R67, R114, R435) -/

/-- The active set serves the MATMUL: filled, in its format and load class, and in the packing W4 and W4T need. -/
def tileServes (t : Tile) (d : Desc) : Bool :=
  t.fmt.toNat == dStatFmt d && loadClass t.shape.toNat == loadClass (dShape d)
    && (!(dShape d == 3 || dShape d == 5) || t.param.toNat == dParam d)
    && (dShape d != 6 || !t.col0) && (dShape d != 7 || t.col0)

/-- Shape, formats, inputs and active set of a MATMUL with array work. -/
def arrayOk (s : State) (k : Tk) : Bool :=
  let d := k.desc
  let e := tkEng s k
  !engRetired s e && paramOk (dShape d) (dParam d) && decide (1 ≤ dT d ∧ dT d ≤ 4096)
    && ((List.range (shapeInputs (dShape d))).all fun i => inputUsable s k i && dFmtIn d i == dFmtIn d 0)
    && (match Fmt.ofCode (dStatFmt d), dIn d 0 with
        | some a, some b => shapeFmtsOk (dShape d) a b
        | _, _ => false)
    && (match (s.engines[e]).active with
        | some t => tileServes t d
        | none => (s.engines[e]).emptied)

/-- The output rows fit in n rows (R114). -/
def rowsFit (d : Desc) (n : Nat) : Bool := 8 * dOff8 d + shapeG (dShape d) * dT d ≤ n

/-- The set takes a START or SEED. -/
def openOk (s : State) (k : Tk) : Bool :=
  let d := k.desc
  let e := tkEng s k
  (accSet s e (dAccSet d)).state != .opened && dAccSeq d == 0 && !rangeClash s e (dAccSet d) (dBase8 d) (dRows8 d)
    && rowsFit d (8 * (dRows8 d + 1))

/-- The set is OPEN under the descriptor's slot. -/
def setMine (s : State) (k : Tk) : Bool :=
  let a := accSet s (tkEng s k) (dAccSet k.desc)
  a.state == .opened && a.slot == dSlot k.desc

/-- The two scale exponents of a MATMUL; none where an entry is refused, and whether one lies in a poisoned burst (R100,
R108, R436). -/
def matmulScales (s : State) (k : Tk) : Option (List Int) × Bool :=
  match Fmt.ofCode (dStatFmt k.desc), dIn k.desc 0 with
  | some a, some b => allScales [sigmaFor s k (dTidStat k.desc) a, sigmaFor s k (dTidStream k.desc) b]
  | _, _ => (none, false)

/-- The array is free for the next MATMUL. -/
def arrayFree (s : State) (k : Tk) : Bool :=
  let r := s.engines[tkEng s k]
  r.run.isNone && r.swapTok.isNone && setTurn s k

/-- An entry whose last round was read ahead is freed as its MATMUL begins, unless it is kept (R63, R68). -/
def freeAhead (s : State) (k : Tk) (ins : Vector InRun 4) : State :=
  (List.finRange 4).foldl (fun s i =>
    match dInQ k.desc i.val, (dInQ k.desc i.val).bind fun q => headEntry s k.shelf q with
    | some q, some en => if (ins[i]).entries = 0 || keeps k.desc i.val then s else freeEntry s k.shelf q en.id
    | _, _ => s) s

/-- The array starts on a MATMUL. One that is the next to use a set that a double-bit error emptied ends with ECC_UNCORR
(R45). -/
def startRun (s : State) (k : Tk) : State :=
  let d := k.desc
  let e := tkEng s k
  let sc := matmulScales s k
  let sig := sc.1.getD []
  let lost := (s.engines[e]).active.isNone
  let ins := aheadOf s.engines[e] k
  let s := if lost then s else freeAhead s k ins
  let s := modEng s e fun r =>
    let checks := r.tileChecked || (r.state == .observed && r.active.any fun t => checkable t.shape.toNat)
    let wave := r.freshSwap && checks && !(r.active.any tileSpecial)
    { r with
      ahead := none
      run := some { ticket := k.ticket, t := dT d, done := 0, checkDue := wave, checked := checks, ins := ins, sigmaA := sig.getD 0 0, sigmaB := sig.getD 1 0, scalePoison := sc.2,
                    failed := none, logged := 0, wavefronts := 0, cause := false } }
  if lost then endMatmul (modEng s e fun r => { r with emptied := false }) e k [.eccUncorr] else s

/-- A poisoned scale entry is a cause that names no unit of an array die (R305, R436). -/
def scaleCause (s : State) (k : Tk) : State :=
  if (matmulScales s k).2 then modTk s k.ticket fun q => { q with noUnit := true } else s

/-- A set opens with its range under the descriptor's slot and epoch (R111, R112). -/
def openSet (s : State) (k : Tk) (inc : Option Incoming) : State :=
  let d := k.desc
  modSet s (tkEng s k) (dAccSet d) fun a =>
    { state := .opened, base8 := BitVec.ofNat 9 (dBase8 d), rows8 := BitVec.ofNat 9 (dRows8 d), guard := 0, long := false,
      slot := dSlot d, epoch := dEpoch d, nextSeq := a.nextSeq, marker := a.marker, ended := 0, incoming := inc }

/-- Where SEED and ACCEPT expect their totals from (R129). -/
def incomingOf (s : State) (k : Tk) : Incoming :=
  { inst := k.inst, ticket := k.ticket, epoch := dEpoch k.desc, parent := k.parent, seed := dAccMode k.desc == .seed, src := tkEngine s k (dSrcEngine k.desc), srcSet := dSrcSet k.desc, arrived := 0 }

/-- MATMUL_START: the set opens with every entry at +0, and the array starts. -/
def execMatmulStart (t : TicketId) (s : State) : Outcome State Fault Refusal :=
  match beginTk s t (isMode .start) arrayFree
      (fun s k => arrayOk s k && openOk s k && (matmulScales s k).1.isSome) with
  | .wait => .next s
  | .ended s1 => .next (settle s s1)
  | .ok s1 k => .next (settle s (startRun (scaleCause (openSet s1 k none) k) k))

/-- MATMUL_CONTINUE: the array promotes into an OPEN set. -/
def execMatmulContinue (t : TicketId) (s : State) : Outcome State Fault Refusal :=
  match beginTk s t (isMode .continue_) arrayFree
      (fun s k => arrayOk s k && setMine s k
        && rowsFit k.desc (accSet s (tkEng s k) (dAccSet k.desc)).rows && (matmulScales s k).1.isSome) with
  | .wait => .next s
  | .ended s1 => .next (settle s s1)
  | .ok s1 k => .next (settle s (startRun (scaleCause s1 k) k))

/-- MATMUL_SEED: the set opens on totals that another set sends, and the array starts; a wavefront waits for its rows. -/
def execMatmulSeed (t : TicketId) (s : State) : Outcome State Fault Refusal :=
  match beginTk s t (isMode .seed) arrayFree
      (fun s k => arrayOk s k && openOk s k && (matmulScales s k).1.isSome) with
  | .wait => .next s
  | .ended s1 => .next (settle s s1)
  | .ok s1 k => .next (settle s (startRun (scaleCause (openSet s1 k (some (incomingOf s1 k))) k) k))

/-- An ACCEPT's place in the order has come: no MATMUL issued earlier is at work on the set, and no totals are still on their way
into it (R128). -/
def acceptTurn (s : State) (k : Tk) : Bool :=
  setTurn s k && (accSet s (tkEng s k) (dAccSet k.desc)).incoming.isNone

/-- MATMUL_ACCEPT: at its place in the order, the set waits for totals to promote. -/
def execMatmulAccept (t : TicketId) (s : State) : Outcome State Fault Refusal :=
  match beginTk s t (isMode .accept) acceptTurn
      (fun s k => !engRetired s (tkEng s k) && setMine s k) with
  | .wait => .next s
  | .ended s1 => .next (settle s s1)
  | .ok s1 k =>
    .next (settle s (modSet s1 (tkEng s1 k) (dAccSet k.desc) fun a => { a with incoming := some (incomingOf s1 k) }))

/-! ## Totals between sets (R128, R129) -/

/-- The DRAIN with TARGET ENGINE that sends a set's totals. -/
def sendingDrain (s : State) (e : Eng) (m : Fin 16) : Option (Tk × DrainRun) :=
  (tksOf s).findSome? fun k =>
    match k.run with
    | .drain r => if dTarget k.desc == 1 && r.judged && k.phase == .running && namesSet s k e m then some (k, r) else none
    | _ => none

/-- One row of totals taken by the receiving set: opening values of a SEED, one chunk value of an ACCEPT, whose promotions read
the bank (R110). -/
def takeRow (s : State) (src dst : Eng) (a b : AccSet) (seed : Bool) (row : Nat) (taken : List BankFault) (promo : List PromoFault)
    : State :=
  let here (r : Nat) : Bool := !seed && r == b.base + row
  let s := bankFindings s dst (fun r _ => here r) taken
  let s := (List.range 512).foldl (fun s c =>
    let v := bankGet s src (a.base + row) c
    let bad := bankPoison s src (a.base + row) c
    if seed then bankPut s dst (b.base + row) c v bad
    else if bad then bankPut s dst (b.base + row) c 0 true
    else promoteEntry s dst (b.base + row) c [(longVal v, false)]) s
  failPromotions s dst (promo.filter fun p => here p.row.val)

/-- The row that a set's DRAIN sends reaches its destination: taken, refused, or discarded (R114, R126, R129). Where the receiver
has stopped waiting, the rows behind the first are discarded, so that a DRAIN that has begun ends: the manual does not say whether
they wait instead (DESIGN CHOICE, log entry 98). A SEED's own chunk values count with those received (R120). -/
def deliverRow (s : State) (e : Eng) (m : Fin 16) (k : Tk) (r : DrainRun) (taken : List BankFault) (promo : List PromoFault) :
    Option State :=
  let a := accSet s e m
  let de := tkEngine s k (dDestEngine k.desc)
  let dm := dDestSet k.desc
  let b := accSet s de dm
  let stale := dEpoch k.desc != (s.slots[dSlot k.desc]).epoch
  match b.incoming with
  | some i =>
    if i.src = e && i.srcSet = m then
      if i.epoch != dEpoch k.desc || b.state != .opened then some s
      else if a.rows != b.rows then some (invalidateSet s de dm)
      else
        let s := chainCalls (takeRow s e de a b i.seed r.rowsSent taken promo) i
        let wrong := if i.seed then [] else promo.filter fun p => p.row.val == b.base + r.rowsSent
        let s := match getTk s i.ticket with
          | some q => noteFails s de q q.hitCols.length (wrong.map fun p => (0x03, physIndex (s.engines[de]).retiredCols p.col.val, p.chunk.val))
          | none => s
        let last := decide (a.rows ≤ r.rowsSent + 1)
        let s := modSet s de dm fun b =>
          let b := { b with incoming := if last then none else some { i with arrived := r.rowsSent + 1 } }
          if i.seed then (if r.rowsSent = 0 then { guardAdd b a.guard with long := (guardAdd b a.guard).long || a.long } else b)
          else if last then { guardAdd b 1 with long := (guardAdd b 1).long || a.long } else b
        some (if last && !i.seed then modTk (passToken s de dm) i.ticket (endTk [] 0) else s)
    else if stale || k.wrote then some s else none
  | none => if stale || k.wrote then some s else none
where
  /-- An engine chain joins the CALL of the sender to that of the receiver (R307). -/
  chainCalls (s : State) (i : Incoming) : State :=
    match k.parent, i.parent with
    | some a, some b => if k.isReplay then s else modSlot s (dSlot k.desc) fun x => { x with chains := addOnce x.chains (a, b) }
    | _, _ => s

/-- The totals of a row as the link delivers them: under a residue failure the entry that it names is what the hardware makes
it (R293). -/
def failTransfer (s : State) (e : Eng) (a : AccSet) (row : Nat) (residue : Option (Fin 512 × BitVec 42)) : State :=
  match residue with
  | some (c, v) => if bankPoison s e (a.base + row) c.val then s else bankPut s e (a.base + row) c.val v false
  | none => s

/-- TOTALS_ROW: the next row of the totals of a set that is drained to another engine (R128). -/
def execTotalsRow (e : Eng) (m : Fin 16) (residue : Option (Fin 512 × BitVec 42)) (faults : RowFaults) (s : State) :
    Outcome State Fault Refusal :=
  match sendingDrain s e m with
  | none => .next s
  | some (k, r) =>
    if s.power != .running || unitIsolated s (.engine e) then .next s
    else if unitWrong s k [] then .next (settle s (unitFault s k))
    else match deliverRow (failTransfer (drainFindings s e ((accSet s e m).base + r.rowsSent) 1 faults.bank) e (accSet s e m) r.rowsSent residue) e m k r
        faults.taken faults.promo with
      | none => .next s
      | some s1 =>
        let a := accSet s e m
        let s2 := modTk (residueSeen s1 k residue.isSome) k.ticket fun q => { q with wrote := true, run := .drain { r with rowsSent := r.rowsSent + 1 } }
        if r.rowsSent + 1 < a.rows then .next (settle s s2)
        else
          let s3 := if a.long then modAcc s2 e fun x => { x with longDrains := countUp x.longDrains } else s2
          .next (settle s (modTk (emptySet s3 e m) k.ticket (endTk (if a.long then [.longsum] else []) a.rows)))

/-- ABANDON_MARKER: the marker of a set that became INVALID reaches whoever waits for its totals (R129). One that finds nobody
waiting is dropped: the manual does not say whether it stays for a SEED or ACCEPT that begins to wait later (DESIGN CHOICE, log entry
99). -/
def execAbandonMarker (e : Eng) (m : Fin 16) (s : State) : Outcome State Fault Refusal :=
  if s.power != .running || !(accSet s e m).marker then .next s
  else
    let s1 := modSet s e m fun a => { a with marker := false }
    let waits (s : State) (f : Eng) (n : Fin 16) : Bool :=
      (accSet s f n).incoming.any fun i => i.src == e && i.srcSet == m
    .next (settle s ((List.finRange 8).foldl (fun s f => (List.finRange 16).foldl (fun s n =>
      if waits s f n then invalidateSet s f n else s) s) s1))

end Sys2Proof.Machine
end

