-- ==== Sys2Proof/Machine/Drain.lean ====
section
/-! DEFINITION. Drains: DRAIN_OUT, DRAIN_ENGINE, DRAIN_FORCE, END_TOKEN (R121 to R128). -/

namespace Sys2Proof.Machine

open Host

/-! ## Turns and tokens -/

def isDrain (target : Nat) (force : Bool) (d : Desc) : Bool :=
  dFamily d == some .drain && dTarget d == target && dForce d == force

/-- The DRAIN's run, if it runs. -/
def drainRun (k : Tk) : Option DrainRun :=
  match k.phase, k.run with
  | .running, .drain r => some r
  | _, _ => none

/-- A DRAIN ends with INVALID without taking its set. -/
def failDrain (s : State) (k : Tk) : State :=
  passToken (modTk s k.ticket (failTk .invalid)) (tkEng s k) (dAccSet k.desc)

/-- Once the end token of the preceding ACC_SEQ is here, the set is judged: OPEN under the descriptor's slot, or INVALID
(R122, R127). -/
def judge (s : State) (k : Tk) : State :=
  match drainRun k with
  | none => s
  | some r =>
    if r.judged || !tokenHere (accSet s (tkEng s k) (dAccSet k.desc)) (dAccSeq k.desc) then s
    else if setMine s k then modTk s k.ticket fun q => { q with run := .drain { r with judged := true } }
    else failDrain s k

/-- A DRAIN that has not begun begins, and is judged where it has no token to wait for. -/
def beginDrain (s : State) (t : TicketId) (target : Nat) : Option State :=
  match beginTk s t (isDrain target false) (fun _ _ => true) (fun s k => !engRetired s (tkEng s k)) with
  | .wait => none
  | .ended s1 => some (match getTk s1 t with | some k => passToken s1 (tkEng s1 k) (dAccSet k.desc) | none => s1)
  | .ok s1 _ =>
    let s2 := modTk s1 t fun q => { q with run := .drain { judged := false, rowsSent := 0 } }
    some (match getTk s2 t with | some k => judge s2 k | none => s2)

/-- END_TOKEN: the end token that a waiting DRAIN waits for has arrived behind the preceding descriptor's last promotion. -/
def execEndToken (t : TicketId) (s : State) : Outcome State Fault Refusal :=
  match getTk s t with
  | none => .next s
  | some k =>
    if s.power != .running || dFamily k.desc != some .drain || unitIsolated s (tkUnit s k) then .next s
    else if unitWrong s k [] then .next (settle s (unitFault s k))
    else .next (settle s (judge s k))

/-! ## DRAIN with TARGET OUT (R123, R124, R127) -/

/-- σout and whether the entry is poisoned; none where R100 refuses it. -/
def targetOf (s : State) (k : Tk) (f : Fmt) (tid domain b : Nat) (sr : Bool) : Option Target :=
  let t (sigma : Int) (bad : Bool) : Target :=
    { fmt := f, sigma := sigma, tid := tid, domain := domain, b := b, sr := sr, poison := bad }
  match sigmaFor s k tid f with
  | .invalid => none
  | .poisoned => some (t 0 true)
  | .found x => some (t x false)

/-- Bytes of a row of n elements in memory; L4w takes half a byte each (log entry 43). -/
def rowBytes (f : Fmt) (n : Nat) : Nat := if f = .l4w then (n + 1) / 2 else n * f.bytes

/-- Formats, output and logical range of a DRAIN with TARGET OUT. -/
def drainOk (s : State) (k : Tk) (rows : Nat) (t : Target) : Bool :=
  let d := k.desc
  let f := t.fmt
  f != .b16 && f != .b32 && decide (1 ≤ drCols d ∧ drCols d ≤ 512)
    && indexOk t (drOrigin d + (rows - 1) * drRowLen d + drCols d - 1)
    && match dOutW d 0 with
       | .none => false
       | .queue q => f != .l4w && outQueueOk s k q && pushFits s k q rows (pushPitch f)
       | .memory g =>
         let n := rowBytes f (drCols d)
         drPitch d % 256 == 0 && n ≤ drPitch d && rowsOk s g (drPitch d) n rows n

/-- The real value that entry (r, c) of a set converts to, none for a poisoned entry. A fused function works on the total in
units of σout (R123). -/
def drainValue (s : State) (e : Eng) (base : Nat) (d : Desc) (sigma : Int) (r c : Nat) : Option Val :=
  if bankPoison s e (base + r) c then none
  else
    let v := longVal (bankGet s e (base + r) c)
    if drFunc d = 0 then some v
    else some ((f32Val (elementFn (drFunc d) (drK0 d) (f32Of (v.scale (-sigma))))).scale sigma)

/-- The elements of a drain, row by row, with their logical indices. -/
def drainElements (s : State) (e : Eng) (a : AccSet) (d : Desc) (sigma : Int) : List (Nat × Option Val) :=
  (List.range a.rows).flatMap fun r => (List.range (drCols d)).map fun c =>
    (drOrigin d + r * drRowLen d + c, drainValue s e a.base d sigma r c)

/-- The code of the element that a residue failure names is what the hardware delivers (R293). -/
def withResidue (residue : Option (Nat × Nat)) (codes : List Nat) : List Nat :=
  match residue with
  | some (i, c) => codes.set i c
  | none => codes

/-- Rows of n elements as bytes. -/
def rowsBytes (f : Fmt) (n : Nat) (codes : List Nat) : List (List Byte) :=
  (pieces n codes).map fun r => if f = .l4w then nibbleBytes r else bytesOfCodes f r

/-- Codes of a conversion, in L4w with the block exponents of n columns (R81). Only a CONVERT's output has a place for the exponents
(R434): those of a DRAIN or a VEC that writes L4w to memory are formed and stored nowhere, and a VEC's block is 32 consecutive
elements (DEDUCED, log entry 43). -/
def codesFor (key : BitVec 64) (t : Target) (capPoison : Bool) (cols : Nat) (l : List (Nat × Option Val)) : Written :=
  let w := convertAll key t capPoison l
  if t.fmt = .l4w then
    { w with codes := (l4wBlocks cols (l.map fun p => if t.poison then none else p.2.map fun v => v.scale (-t.sigma))).1 }
  else w

/-- Converts and writes the set of a judged DRAIN; none while it waits for strips. -/
def drainWrite (s : State) (k : Tk) (residue : Option (Nat × Nat)) (bank : List BankFault) : Option State :=
  let d := k.desc
  let e := tkEng s k
  let m := dAccSet d
  let a := accSet s e m
  match (dOut d 0).bind fun f => targetOf s k f (drTid d) (drDomain d) (drB d) true with
  | none => some (failDrain s k)
  | some t =>
    if !drainOk s k a.rows t then some (failDrain s k)
    else
      let s := drainFindings s e a.base a.rows bank
      let els := drainElements s e a d t.sigma
      let w := codesFor (drawKeyOf s k (drDomain d) (drTid d)) t true (drCols d) els
      let codes := withResidue residue w.codes
      let out : Option State := match dOutW d 0 with
        | .queue q =>
          if pushTurn s k q then
            (pushRows s k q (pushPitch t.fmt) (rowBytes t.fmt (drCols d)) t.fmt.code [a.rows] (rowsBytes t.fmt (drCols d) codes)).map fun s =>
              modTk s k.ticket fun q => { q with wrote := true }
          else none
        | .memory g => some (writeRows s k g (drPitch d) (rowsBytes t.fmt (drCols d) codes))
        | .none => none
      out.map fun s =>
        let bad := t.poison || els.any fun p => p.2.isNone
        let s := residueSeen (foldTarget s k t w) k residue.isSome
        let s := if a.long then modAcc s e fun x => { x with longDrains := countUp x.longDrains } else s
        endConvert (emptySet s e m) k (convertCauses bad w.nonfinite ++ if a.long then [.longsum] else []) a.rows t.poison

/-- DRAIN_OUT: begins, waits for the set's end token, then converts the set and writes it to a queue end or to memory. -/
def execDrainOut (t : TicketId) (residue : Option (Nat × Nat)) (bank : List BankFault) (s : State) : Outcome State Fault Refusal :=
  let go (s0 s : State) : Outcome State Fault Refusal :=
    match getTk s t with
    | none => .next (settle s0 s)
    | some k =>
      match drainRun k with
      | some r =>
        if r.judged && isDrain 0 false k.desc && s.power == .running && !unitIsolated s (tkUnit s k) then
          if unitWrong s k (entriesRead k) then .next (settle s0 (unitFault s k)) else
          match drainWrite s k residue bank with
          | some s1 => .next (settle s0 s1)
          | none => .next (settle s0 s)
        else .next (settle s0 s)
      | none => .next (settle s0 s)
  match beginDrain s t 0 with
  | some s1 => go s s1
  | none => go s s

/-- DRAIN_ENGINE: begins and waits for the set's end token; its rows then go out by TOTALS_ROW (R128). -/
def execDrainEngine (t : TicketId) (s : State) : Outcome State Fault Refusal :=
  match beginDrain s t 1 with
  | some s1 => .next (settle s s1)
  | none => .next s

/-- DRAIN_FORCE: the set becomes INVALID at once and the drain completes with INVALID (R125). -/
def execDrainForce (t : TicketId) (s : State) : Outcome State Fault Refusal :=
  match beginTk s t (isDrain 0 true) (fun _ _ => true) (fun _ _ => true) with
  | .wait => .next s
  | .ended s1 => .next (settle s s1)
  | .ok s1 k =>
    let e := tkEng s1 k
    let s2 := modAcc (invalidateSet s1 e (dAccSet k.desc)) e fun r => { r with forcedDrains := countUp r.forcedDrains }
    .next (settle s (modTk s2 t (failTk .invalid)))

end Sys2Proof.Machine
end

