-- ==== Sys2Proof/Machine/HeadDie.lean ====
section
/-! DEFINITION. The head die's requests at the homes and at the rings: writes, atomics, doorbells, and those that a copy's hold keeps
waiting (R136 to R138, R233, R329, R392 to R396). -/

namespace Sys2Proof.Machine

open Host

/-- Whether the head die's mainband is served: from the end of the zero fill of the boot (R403, R438) and with the link
up (R392). -/
inductive MainbandState where
  | served | busy | silent
  deriving DecidableEq, Repr

def mainbandState (s : State) : MainbandState :=
  if !s.mailbox.linkUp then .silent
  else match s.power with
    | .running => .served
    | .bootFault false => .busy
    | _ => .silent

/-- Whether a head-die request of n bytes at a global address is served: its own module, populated, aligned. -/
def headRangeOk (s : State) (addr : BitVec 56) (n : Nat) (aligned : Bool) : Bool :=
  isLocal s addr.toNat && populated (globalLocal addr.toNat) n && (!aligned || addr.toNat % 256 == 0)

/-- A burst that a request of the head die must wait for: a copy holds it, or an earlier one waits for it (R211, R329). -/
def headWaits (s : State) (ahead : List HeadReq) (b : Nat) : Bool :=
  heldBurst s b || ahead.any fun r =>
    match r with
    | .write _ l _ => l.any fun p => p.1 == b
    | .atomic _ a _ => a / 256 == b
    | .bell .. => false

/-! ## Writes (R394) -/

/-- Writes bursts in order, each whole or under its mask, past the tap of head die writes (R298); the second part tells whether one was
lost or poisoned. -/
def putHeadBursts (s : State) (l : List (Nat × List Byte × Option (List Bool))) : State × Bool :=
  l.foldl (fun (a : State × Bool) p =>
    let r := match p.2.2 with
      | none => writeWhole a.1 p.1 p.2.1
      | some m => writeMasked a.1 p.1 p.2.1 m
    let s := if anyArmed r.1 then tapBurst r.1 0x70 false (globalOf r.1 (256 * p.1)) (burstBytes r.1 p.1) r.2 else r.1
    (s, a.2 || r.2)) (s, false)

/-- A WRITE's or WRITE_MASKED's bursts as far as none ahead and no hold keeps them: the state, the bursts that wait, and whether one was
lost or poisoned. -/
def tryBursts (s : State) (ahead : List HeadReq) (l : List (Nat × List Byte × Option (List Bool))) (bad : Bool) :
    State × List (Nat × List Byte × Option (List Bool)) × Bool :=
  let r := putHeadBursts s (l.filter fun p => !headWaits s ahead p.1)
  (r.1, l.filter fun p => headWaits s ahead p.1, bad || r.2)

def writeDone (s : State) (tag : BitVec 10) (bad : Bool) : State := emit s (.completion tag (if bad then .eccUncorr else .ok) none)

/-- A WRITE or WRITE_MASKED at its home. Bursts that a copy still holds are written later, and its answer follows them (R329). -/
def headWrite (tag : BitVec 10) (addr : BitVec 56) (l : List (List Byte × Option (List Bool))) (s : State) : State :=
  match mainbandState s with
  | .silent => s
  | .busy => emit s (.completion tag .busy none)
  | .served =>
    let b := globalLocal addr.toNat / 256
    if !headRangeOk s addr (256 * l.length) true then emit s (.completion tag .invalid none)
    else
      let r := tryBursts s s.headQueue (((List.range l.length).zip l).map fun p => (b + p.1, p.2)) false
      if r.2.1.isEmpty then writeDone r.1 tag r.2.2
      else { r.1 with headQueue := r.1.headQueue ++ [.write tag r.2.1 r.2.2] }

/-! ## Atomics (R233, R234) -/

def atomicFn {w : Nat} (op : AtomicOp) (old x : BitVec w) : BitVec w :=
  match op with
  | .add => old + x
  | .swap => x
  | .and_ => old &&& x
  | .or_ => old ||| x
  | .xor_ => old ^^^ x
  | .min => if x.slt old then x else old
  | .max => if old.slt x then x else old
  | .minu => if x.ult old then x else old
  | .maxu => if old.ult x then x else old

/-- The new bytes of an atomic from the old ones. -/
def atomicBytes (op : AtomicOp) (wide : Bool) (old : List Byte) (x : BitVec 64) : List Byte :=
  if wide then wordBytes 8 (atomicFn op (bytesWord 64 old) x)
  else wordBytes 4 (atomicFn op (bytesWord 32 old) (x.setWidth 32))

def HeadOp.size : HeadOp → Nat
  | .word _ wide _ => if wide then 8 else 4
  | .cas _ _ => 8

/-- The new bytes of a head-die atomic from the old ones. -/
def HeadOp.apply (o : HeadOp) (old : List Byte) : List Byte :=
  match o with
  | .word op wide x => atomicBytes op wide old x
  | .cas expected replacement => if bytesWord 64 old = expected then wordBytes 8 replacement else old

/-- A head-die atomic that its home performs at a local address. -/
def putAtomic (tag : BitVec 10) (a : Nat) (o : HeadOp) (s : State) : State :=
  if spanBad s a o.size then emit (findSpan s a o.size) (.completion tag .eccUncorr none)
  else
    let old := memBytes s a o.size
    emit (writeSpan s a (o.apply old)).1 (.completion tag .ok (some (bytesWord 64 old)))

/-- A head-die atomic. One on a burst that a copy still holds is performed later (R329). -/
def headAtomic (tag : BitVec 10) (addr : BitVec 56) (o : HeadOp) (s : State) : State :=
  match mainbandState s with
  | .silent => s
  | .busy => emit s (.completion tag .busy none)
  | .served =>
    let a := globalLocal addr.toNat
    if !isLocal s addr.toNat || a % o.size != 0 || !populated a o.size then emit s (.completion tag .invalid none)
    else if headWaits s s.headQueue (a / 256) then { s with headQueue := s.headQueue ++ [.atomic tag a o] }
    else putAtomic tag a o s

/-! ## Doorbells (R136 to R138, R395, R396) -/

/-- A new tail that stays behind the head (R137). -/
def tailOk (r : Ring) (v : Nat) : Bool :=
  let n := r.size.toNat
  let t := r.tail.toNat
  decide (v < n) && decide ((v + n - t) % n + (t + n - r.head.toNat) % n < n)

/-- A consumed index that does not pass the tail (R138; log entry 40). -/
def headOk (r : Ring) (v : Nat) : Bool :=
  let n := r.size.toNat
  let h := r.head.toNat
  decide (v < n) && decide ((v + n - h) % n ≤ (r.tail.toNat + n - h) % n)

/-- Whether a doorbell is taken: the ring is configured and the index stays inside R137 and R138. -/
def bellOk (s : State) (ring : BellRing) (d : Die) (j : Slot) (v : BitVec 16) : Bool :=
  let r := ringsOf s d j
  match ring with
  | .h => r.h.size != 0 && r.c.size != 0 && tailOk r.h v.toNat
  | .c => r.c.size != 0 && headOk r.c v.toNat
  | .u => (s.dies[d]).u.size != 0 && tailOk (s.dies[d]).u v.toNat

/-- A doorbell that is performed: the new tail, or the consumed index. -/
def ringBell (tag : BitVec 10) (ring : BellRing) (d : Die) (j : Slot) (v : BitVec 16) (s : State) : State :=
  if !bellOk s ring d j v then emit s (.completion tag .invalid none)
  else
    let t := match ring with
      | .h => modRings s d j fun r => { r with h := { r.h with tail := v } }
      | .c => modRings s d j fun r => { r with c := { r.c with head := v } }
      | .u => modDie s d fun r => { r with u := { r.u with tail := v } }
    emit t (.completion tag .ok none)

/-- A DOORBELL: performed behind every WRITE, WRITE_MASKED and ATOMIC sent ahead of it (R396). -/
def doorbell (tag : BitVec 10) (ring : BellRing) (d : Die) (j : Slot) (v : BitVec 16) (s : State) : Outcome State Fault Refusal :=
  match mainbandState s with
  | .silent => .next s
  | .busy => .next (settle s (emit s (.completion tag .busy none)))
  | .served =>
    if s.headQueue.isEmpty then .next (settle s (ringBell tag ring d j v s))
    else .next (settle s { s with headQueue := s.headQueue ++ [.bell tag ring d j v] })

/-! ## What waited (R329, R396) -/

/-- The doorbells that no request waits ahead of are performed. -/
def ringBells : Nat → State → State
  | 0, s => s
  | n + 1, s =>
    match s.headQueue with
    | .bell tag ring d j v :: l => ringBells n (ringBell tag ring d j v { s with headQueue := l })
    | _ => s

/-- The home serves the head die's waiting request at a place: a masked write, or any other, whose bursts nothing holds any longer. -/
def serveHead (pos : Nat) (masked : Bool) (s : State) : State :=
  let ahead := s.headQueue.take pos
  let behind := s.headQueue.drop (pos + 1)
  match s.headQueue[pos]? with
  | some (.write tag l bad) =>
    if (l.any fun p => p.2.2.isSome) != masked then s
    else
      let r := tryBursts s ahead l bad
      if r.2.1.isEmpty then ringBells (s.headQueue.length + 1) (writeDone { r.1 with headQueue := ahead ++ behind } tag r.2.2)
      else { r.1 with headQueue := ahead ++ .write tag r.2.1 r.2.2 :: behind }
  | some (.atomic tag a o) =>
    if masked || headWaits s ahead (a / 256) then s
    else ringBells (s.headQueue.length + 1) (putAtomic tag a o { s with headQueue := ahead ++ behind })
  | _ => s

end Sys2Proof.Machine
end

