-- ==== Sys2Proof/Machine/Heat.lean ====
section
/-! DEFINITION. Heat and the throttle of the stacks (R219 to R222). -/

namespace Sys2Proof.Machine

open Host

/-! ## Heat and the throttle (R219 to R222) -/

/-- Class of a hottest sensor in thousandths of a degree (R219): 0 NORMAL, 1 WARNING, 2 CRITICAL, 3 TRIPPED. -/
def heatClass (m : Int) : Fin 4 := if m < 95000 then 0 else if m < 105000 then 1 else if m < 115000 then 2 else 3

/-- Level after a class sample (R220). -/
def levelAfterSample (level : Fin 7) (old : Option (Fin 4)) (new : Fin 4) (m : Int) : Fin 7 :=
  if level = 6 then 6
  else if new = 3 then 6
  else if new = 2 then 5
  else if level = 5 then (if m < 102000 then 4 else 5)
  else if new = 1 && (old.getD 0 == 0) then (if level = 0 then 1 else level)
  else level

def stackHome (h : Stack) : Home := ⟨h.val, by omega⟩

/-- A sample of a stack's hottest sensor sets its class and level; a trip is recorded (R219, R220, R222). -/
def sampleStack (h : Stack) (m : Int) (s : State) : State :=
  let r := s.homes[stackHome h]
  let new := heatClass m
  let l := levelAfterSample r.level r.class_ new m
  let s1 := modHome s (stackHome h) fun r => { r with level := l, class_ := some new }
  let s2 := { s1 with warnEntries := if r.level = 0 && l = 1 then countUp s1.warnEntries else s1.warnEntries,
                      critEntries := if r.level != 5 && l = 5 then countUp s1.critEntries else s1.critEntries }
  if r.level != 6 && l = 6 then failEntry s2 0x09 (unitByte 0 0) h.val 0 0 else s2

/-- STACK_CLASS_SAMPLE: once per refresh interval (R219, R222). The first one of a boot comes with the boot (`bootStep`). -/
def execStackClassSample (h : Stack) (m : Int) (s : State) : Outcome State Fault Refusal :=
  if s.power != .running then .next s else .next (settle s (sampleStack h m s))

/-- Level after a step interval (R220). -/
def levelAfterStep (level : Fin 7) (cls : Option (Fin 4)) (m : Int) : Fin 7 :=
  if 1 ≤ level && level ≤ 4 then
    if cls = some 1 then (if level = 4 then 4 else level + 1)
    else if cls.getD 0 = 0 && m < 92000 then level - 1
    else level
  else level

/-- THROTTLE_STEP: a step interval of a stack ends. -/
def execThrottleStep (h : Stack) (m : Int) (s : State) : Outcome State Fault Refusal :=
  if s.power != .running then .next s else
  let r := s.homes[stackHome h]
  .next (settle s (modHome s (stackHome h) fun q => { q with level := levelAfterStep r.level r.class_ m }))

end Sys2Proof.Machine
end

