-- ==== Sys2Proof/Machine/Home.lean ====
section
/-! DEFINITION. The homes: reads and writes on their way, masked writes, atomics, write-backs and scrubbing (R211 to R218, R222,
R233, R234). -/

namespace Sys2Proof.Machine

open Host

/-- The burst of a queued request. -/
def HomeReq.burst : HomeReq → Nat
  | .write _ _ b _ => b
  | .masked _ _ b _ _ => b
  | .read _ _ b => b

/-- The descriptor of a queued request. -/
def HomeReq.owner : HomeReq → Nat
  | .write i _ _ _ => i
  | .masked i _ _ _ _ => i
  | .read i _ _ => i

/-- The request at a place may be served when no earlier one of the same descriptor is due for the same burst. The requests of
different descriptors reach a home in any order, and the commands come in the order in which the home takes them; none of them
is reordered after that (R211, R214, R236; log entry 57). -/
def servable (s : State) (pos : Nat) (b : Nat) : Bool :=
  match s.homeQueue[pos]? with
  | none => false
  | some q => !((s.homeQueue.take pos).any fun r => r.burst == b && r.owner == q.owner)

/-- The queue without the request at a place. -/
def dropReq (s : State) (pos : Nat) : State := { s with homeQueue := s.homeQueue.eraseIdx pos }

/-- A change of the descriptor with a fetch number, in flight or lingering behind its TIMEOUT record. -/
def modInst (s : State) (t : TicketId) (inst : Nat) (f : Tk → Tk) : State :=
  match getTk s t with
  | some k =>
    if k.inst = inst then setTk s { f k with ticket := t }
    else { s with lingering := s.lingering.map fun q => if q.inst = inst then f q else q }
  | none => { s with lingering := s.lingering.map fun q => if q.inst = inst then f q else q }

/-- The descriptor with a fetch number, in flight or lingering behind its TIMEOUT record. -/
def instTk (s : State) (t : TicketId) (inst : Nat) : Option Tk :=
  match (getTk s t).bind fun k => if k.inst = inst then some k else none with
  | some k => some k
  | none => s.lingering.find? fun k => k.inst == inst

/-- What a read brings to its STREAM: bytes and poison, and HOT where the burst, needed or read across a gap, came at level 05h
(R202, R221). -/
def bringBurst (b : Nat) (data : List Byte) (bad hot : Bool) (k : Tk) : Tk :=
  match k.run with
  | .stream r =>
    let k := { k with run := .stream { r with got := sparseSet none r.got b (some (data, bad)) } }
    if hot then addCause .hot k else k
  | _ => k

/-- A PUT or GET whose write is served at level 05h (R221). -/
def hotWrite (hot : Bool) (k : Tk) : Tk := if hot && dFamily k.desc = some .putget then addCause .hot k else k

/-- HOME_ACCESS: the home serves the whole-burst read or write at place `pos` of its queue; `code` is what the code finds
when it reads (R211, R214 to R216). Places behind the queue's end are those of the head die's requests that a hold kept waiting. -/
def execHomeAccess (pos : Nat) (code : Ecc) (s : State) : Outcome State Fault Refusal :=
  match s.homeQueue[pos]? with
  | some (.write inst t b data) =>
    if servable s pos b && !heldBurst s b then
      let r := writeWhole (dropReq s pos) b data
      let s1 := if r.2 then modInst r.1 t inst (meetPoison (256 * b)) else r.1
      .next (settle s (modInst s1 t inst (hotWrite (burstHot s b))))
    else .next s
  | some (.read inst t b) =>
    if servable s pos b then
      let s1 := homeFinding (dropReq s pos) b code
      let bad := isPoison s1 b || burstTripped s1 b
      let s2 := tapHome s1 false b bad
      .next (settle s (modInst s2 t inst (bringBurst b (burstBytes s2 b) bad (burstHot s2 b))))
    else .next s
  | some (.masked ..) => .next s
  | none => .next (settle s (serveHead (pos - s.homeQueue.length) false s))

/-- MASKED_WRITE: read, merge and write of the burst at place `pos` of the queue (R212, R217). -/
def execMaskedWrite (pos : Nat) (code : Ecc) (s : State) : Outcome State Fault Refusal :=
  match s.homeQueue[pos]? with
  | some (.masked inst t b data mask) =>
    if servable s pos b && !heldBurst s b then
      let r := writeMaskedCode (dropReq s pos) b code data mask
      let s1 := if r.2 then modInst r.1 t inst (meetPoison (256 * b)) else r.1
      .next (settle s (modInst s1 t inst (hotWrite (burstHot s b))))
    else .next s
  | some _ => .next s
  | none => .next (settle s (serveHead (pos - s.homeQueue.length) true s))

/-! ## Atomics (R233, R234) -/

/-- A Ringmaster's AMO: misaligned and out-of-reach ones trap (R167, R233), and so do one that meets a double-bit error of private
memory (R168) and one to a slot of ring X that is not free (R173); a 4-byte old value is sign-extended. One of a replay performs no
write (R307). -/
def ctxAtomic (d : Die) (c : CtxId) (addr : BitVec 56) (n : Nat) (f : List Byte → List Byte) (s : State) : State :=
  let a := addr.toNat
  let value (old : List Byte) : BitVec 64 := if n = 4 then (bytesWord 32 old).signExtend 64 else bytesWord 64 old
  match ctxOf s d c with
  | none => s
  | some x =>
    if s.power != .running || !ctxActs x || s.isolated.contains (.ringmaster d) then s
    else if controlWrong s (.ringmaster d) [] then controlFault s (.ringmaster d) (unitByte 5 d.val) x.slot x.ticket.val
    else if a % n != 0 then trapContext s d c 6 a
    else if inPriv a n then
      let old := privBytes s d a n
      if privBroken s d a then trapContext s d c 7 a else emit (privPut (dropReservations s (privBurst d a)) d a (f old)) (.contextValue d c (value old))
    else if !ctxReaches s d c a n then trapContext s d c 7 a
    else if spanBad s a n then trapContext (findSpan s a n) d c 7 a
    else if (getTk s x.ticket).any fun k => !k.isReplay && rxTaken s k a then trapContext s d c 7 a
    else if heldBurst s (a / 256) then s
    else
      let old := memBytes s a n
      emit (if (getTk s x.ticket).any (·.isReplay) then s else (writeSpan s a (f old)).1) (.contextValue d c (value old))

/-- An atomic of R233 from either party. -/
def doAtomic (op : AtomicOp) (ctx : Option (Die × CtxId)) (tag : BitVec 10) (addr : BitVec 56) (wide : Bool)
    (x : BitVec 64) (s : State) : State :=
  let n := if wide then 8 else 4
  match ctx with
  | none => headAtomic tag addr (.word op wide x) s
  | some (d, c) => ctxAtomic d c addr n (fun old => atomicBytes op wide old x) s

def execAtomicAdd (ctx : Option (Die × CtxId)) (tag : BitVec 10) (addr : BitVec 56) (wide : Bool) (x : BitVec 64) (s : State) :
    Outcome State Fault Refusal := .next (settle s (doAtomic .add ctx tag addr wide x s))
def execAtomicSwap (ctx : Option (Die × CtxId)) (tag : BitVec 10) (addr : BitVec 56) (wide : Bool) (x : BitVec 64) (s : State) :
    Outcome State Fault Refusal := .next (settle s (doAtomic .swap ctx tag addr wide x s))
def execAtomicAnd (ctx : Option (Die × CtxId)) (tag : BitVec 10) (addr : BitVec 56) (wide : Bool) (x : BitVec 64) (s : State) :
    Outcome State Fault Refusal := .next (settle s (doAtomic .and_ ctx tag addr wide x s))
def execAtomicOr (ctx : Option (Die × CtxId)) (tag : BitVec 10) (addr : BitVec 56) (wide : Bool) (x : BitVec 64) (s : State) :
    Outcome State Fault Refusal := .next (settle s (doAtomic .or_ ctx tag addr wide x s))
def execAtomicXor (ctx : Option (Die × CtxId)) (tag : BitVec 10) (addr : BitVec 56) (wide : Bool) (x : BitVec 64) (s : State) :
    Outcome State Fault Refusal := .next (settle s (doAtomic .xor_ ctx tag addr wide x s))
def execAtomicMin (ctx : Option (Die × CtxId)) (tag : BitVec 10) (addr : BitVec 56) (wide : Bool) (x : BitVec 64) (s : State) :
    Outcome State Fault Refusal := .next (settle s (doAtomic .min ctx tag addr wide x s))
def execAtomicMax (ctx : Option (Die × CtxId)) (tag : BitVec 10) (addr : BitVec 56) (wide : Bool) (x : BitVec 64) (s : State) :
    Outcome State Fault Refusal := .next (settle s (doAtomic .max ctx tag addr wide x s))
def execAtomicMinu (ctx : Option (Die × CtxId)) (tag : BitVec 10) (addr : BitVec 56) (wide : Bool) (x : BitVec 64) (s : State) :
    Outcome State Fault Refusal := .next (settle s (doAtomic .minu ctx tag addr wide x s))
def execAtomicMaxu (ctx : Option (Die × CtxId)) (tag : BitVec 10) (addr : BitVec 56) (wide : Bool) (x : BitVec 64) (s : State) :
    Outcome State Fault Refusal := .next (settle s (doAtomic .maxu ctx tag addr wide x s))

/-- ATOMIC_CAS: the head die's compare and swap of 8 bytes (R233). -/
def execAtomicCas (tag : BitVec 10) (addr : BitVec 56) (expected replacement : BitVec 64) (s : State) :
    Outcome State Fault Refusal :=
  .next (settle s (headAtomic tag addr (.cas expected replacement) s))

/-! ## Write-backs and scrubbing (R216, R218) -/

/-- Requests wait at a home (R214). -/
def homeWaits (s : State) (h : Home) : Bool := s.homeQueue.any fun r => burstHome r.burst == some h

/-- MEMORY_WRITEBACK: the home writes a corrected burst back, behind the requests that wait; the bytes stay as they are. -/
def execMemoryWriteback (b : Nat) (s : State) : Outcome State Fault Refusal :=
  if sparseGet false s.writebacks b && !(burstHome b).any (homeWaits s) then
    .next (settle s (freshCheck { s with writebacks := sparseSet false s.writebacks b false } b))
  else .next s

/-- PATROL_SCRUB: the scrubber of a home reads its next burst behind the requests that wait (R214, R218), after the errors that have
arisen since (log entry 56). -/
def execPatrolScrub (h : Home) (found : Ecc × List Upset) (s : State) : Outcome State Fault Refusal :=
  if s.power != .running || 5 ≤ homeLevel s h || homeWaits s h then .next s
  else
    let n := (s.homes[h]).scrubBurst
    let s1 := homeFinding { s with upsets := s.upsets ++ found.2 } (homeBase h / 256 + n) found.1
    .next (settle s (modHome s1 h fun r =>
      if n + 1 = homeBursts h then { r with scrubBurst := 0, scrubPasses := countUp r.scrubPasses }
      else { r with scrubBurst := n + 1 }))

end Sys2Proof.Machine
end

