-- ==== Sys2Proof/Machine/Restore.lean ====
section
/-! DEFINITION. Restores and slot aborts (R106, R336 to R339). -/

namespace Sys2Proof.Machine

open Host

/-- What a header of 256 bytes says, if it passes the checks of R338 but the step comparison. -/
def headerOk (s : State) (j : Slot) (h : List Byte) : Bool :=
  let r := s.slots[j]
  h.length == 256 && fieldNat h 252 4 == (crc32c (h.take 252)).toNat && fieldNat h 0 4 == headerMagic && fieldNat h 4 2 == 1
    && fieldNat h 10 1 == 1 && fieldNat h 6 2 == s.fabric.moduleId.toNat && fieldNat h 9 1 == j.val
    && fieldNat h 12 4 == r.restoreStep.toNat && fieldNat h 28 4 == r.scaleCount.toNat && fieldNat h 32 4 == r.recordBytes.toNat
    && fieldNat h 36 4 == (regionsOf s j).length && fieldNat h 40 8 == payloadBytes s j

/-- Whether the source of a restore is the module's own keep. -/
def restoreOwn (s : State) (j : Slot) : Bool := (s.slots[j]).restoreSource.toNat % 8192 == s.fabric.moduleId.toNat

def setRestoreStatus (s : State) (j : Slot) (st : Status) : State := modSlot s j fun r => { r with restoreStatus := st }

/-- A header with which the restore goes on (R338). -/
def headerGoes (s : State) (j : Slot) (h : List Byte) : Bool := headerOk s j h && (fieldNat h 12 4 == fieldNat h 24 4 || (s.slots[j]).skew)

/-- Judges a header: the checks of R338 that precede any write. `run` is what the restore's READs are known by. -/
def judgeHeader (s : State) (j : Slot) (h : List Byte) (own : Bool) (run : Nat) : State :=
  let r := s.slots[j]
  let t := fieldNat h 12 4
  let n := fieldNat h 24 4
  if !headerOk s j h then setRestoreStatus s j .invalid
  else if t != n && !r.skew then setRestoreStatus s j .streamSkew
  else modSlot s j fun r =>
    { r with slotState := .restoring, restoreStatus := .ok,
             restore := some { header := h, own := own, source := r.restoreSource.toNat, base := r.restoreBase.toNat, dataStep := BitVec.ofNat 32 t,
                               streamStep := BitVec.ofNat 32 n, seed := BitVec.ofNat 64 (fieldNat h 16 8),
                               check := BitVec.ofNat 32 (fieldNat h 48 4), run := run } }

/-! ## Reads of a half on another module (R331, R337) -/

/-- A READ of n bursts at an address of another module, through the mirror engine on virtual channel 7. One that the module's own router
drops stays unanswered (log entry 25). -/
def readNet (s : State) (r : FabReq) (source a n : Nat) : State :=
  (sendRequest s r (ownFlit s 0x02 7 source ((n - 1) * 2 ^ 43 + a % 2 ^ 43) [])).1

/-- The READ of the header of slot j's restore goes out. -/
def askHeader (s : State) (j : Slot) : State :=
  let r := s.slots[j]
  readNet { s with nextInst := s.nextInst + 1 } (.restoreHeader j s.nextInst (r.restoreSource.toNat * localSize + r.restoreBase.toNat))
    r.restoreSource.toNat r.restoreBase.toNat 1

/-- The READs of the payload of slot j's restore go out, 256 bursts in each. -/
def askPayload (s : State) (j : Slot) : State :=
  match (s.slots[j]).restore with
  | none => s
  | some q =>
    if q.own then s
    else
      let n := (payloadBytes s j + 255) / 256
      (List.range ((n + 255) / 256)).foldl (fun s i =>
        let a := q.base + 4096 + 65536 * i
        let m := min 256 (n - 256 * i)
        readNet s (.restore j q.run (q.source * localSize + a) (256 * i) m []) q.source a m) s

/-- What is still outstanding of a restore's READs is answered, or goes no further. -/
def closeReads (s : State) (run : Nat) : State :=
  dropWaiting { s with fabReqs := s.fabReqs.filter fun p => (p.2.bind FabReq.inst) != some run } run


/-- A burst that the restore logic reads passes tap 62h under its global address (R298). -/
def tapRestoreBurst (s : State) (g : Nat) (data : List Byte) (bad : Bool) : State :=
  if anyArmed s then tapBurst s 0x62 false g data bad else s

/-- The header of a restore from another module has come; a poisoned one is none. The payload's READs follow where it is right. -/
def takeHeader (s : State) (j : Slot) (run addr : Nat) (h : List Byte) (bad : Bool) : State :=
  let h' := if bad then [] else h
  let t := judgeHeader (tapRestoreBurst s addr h bad) j h' false run
  if headerGoes s j h' then askPayload t j else t

/-- DATA of the header's READ: a slot whose header is wrong goes back to the state it came from (R338). -/
def headerArrives (s : State) (j : Slot) (run addr : Nat) (h : List Byte) (bad : Bool) : State :=
  match (s.slots[j]).headerAsked with
  | some (n, before) =>
    if n != run then s
    else takeHeader (modSlot s j fun r => { r with slotState := before, headerAsked := none }) j run addr h bad
  | none => s

/-- DATA of a payload READ. -/
def payloadArrives (s : State) (j : Slot) (run i : Nat) (data : List Byte) (bad : Bool) : State :=
  modSlot s j fun r =>
    { r with restore := r.restore.map fun q => if q.run = run then { q with got := sparseSet none q.got i (some (data, bad)) } else q }

/-- A write of 6010h + j:16. `peer` is the header where the source module answers within the command; otherwise the READ is out, and the
slot is RESTORING until its DATA comes or it times out (log entry 25). -/
def writeRestore (j : Slot) (data peer : List Byte) (s : State) : WriteResult :=
  let r := s.slots[j]
  if data != [1] then failWith s .invalid
  else if r.slotState == .restoring || slotBusy s j none || r.copy.isSome then failWith (setRestoreStatus s j .busy) .busy
  else if restoreOwn s j then
    let a := r.restoreBase.toNat
    let x := readSpan s a 256
    okWith (judgeHeader (tapRestoreBurst x.1 (globalOf s a) x.2.1 x.2.2) j (if x.2.2 then [] else x.2.1) true 0)
  else if peer.isEmpty then
    okWith (modSlot (askHeader s j) j fun q => { q with slotState := .restoring, restore := none, headerAsked := some (s.nextInst, r.slotState) })
  else okWith (takeHeader (closeReads (askHeader s j) s.nextInst) j s.nextInst (r.restoreSource.toNat * localSize + r.restoreBase.toNat) peer false)

/-- The payload of a restore burst by burst, each with its poison. Of another module's, what no DATA flit has brought is answered within
RESTORE_COMPLETE, as `peer`. -/
def payloadBursts (s : State) (r : RestoreRun) (n : Nat) (peer : List (Nat × Byte)) : List (List Byte × Bool) :=
  if r.own then (takeBursts s ((r.base + 4096) / 256) n id).2
  else (List.range ((n + 255) / 256)).map fun i =>
    (sparseGet none r.got i).getD ((List.range 256).map fun k => sparseGet 0 peer (256 * i + k), false)

/-- The reads of a payload that lies in the module's own keep. -/
def readPayload (s : State) (r : RestoreRun) (n : Nat) : State := if r.own then (takeBursts s ((r.base + 4096) / 256) n id).1 else s

/-- V of R297 in sequence mode with START 0. -/
def foldBursts (l : List (List Byte × Bool)) : BitVec 32 :=
  ((List.range l.length).zip l).foldl (fun v p => v ^^^ crc32c (leBytes 8 p.1 ++ p.2.1)) 0

/-- The bursts a restore reads pass tap 62h, with their addresses and their copy sequence numbers (R298). -/
def tapRestore (s : State) (q : RestoreRun) (l : List (List Byte × Bool)) : State :=
  if !anyArmed s then s
  else ((List.range l.length).zip l).foldl (fun s p =>
    tapBurst (tapBurst s 0x62 false (q.source * localSize + q.base + 4096 + 256 * p.1) p.2.1 p.2.2) 0x62 true p.1 p.2.1 p.2.2) s

/-- Lays a payload into place: scale table, record regions, regions in table order (R337 step 5). -/
def layPayload (s : State) (j : Slot) (t : Nat) (l : List (List Byte × Bool)) : State :=
  let r := s.slots[j]
  let sc := scalePart r / 256
  let rc := recordPart r / 256
  let n := 32 * r.scaleCount.toNat
  let b := r.scaleBase.toNat / 256
  let s := putBursts s b (mergeTail s b n (l.take ((n + 255) / 256)))
  let recs := ((l.drop sc).take (r.recordBytes.toNat / 256))
  let s := (List.range 4).foldl (fun s d => putBursts s (recordBaseOf r d / 256) recs) s
  ((regionsOf s j).foldl (fun (a : State × List (List Byte × Bool)) g =>
    let n := g.bytes / 256
    (putBursts a.1 (regionBuffer a.1 j g t / 256) (a.2.take n), a.2.drop n)) (s, l.drop (sc + rc))).1

/-- The end of a restore with every check passed (R337 step 7). Only here is the override of R106 spent: a restore that fails
later on leaves it set (log entry 60). -/
def finishRestore (s : State) (j : Slot) (q : RestoreRun) : State :=
  let t := q.dataStep
  let s := modSlot s j fun r =>
    { r with seed := q.seed, dataStep := t, streamStep := t, skew := if q.dataStep != q.streamStep then false else r.skew,
             finalStep := t, mirrorDue := none, slotState := .running, restoreStatus := .ok, restore := none }
  let s := dropDoubts s j
  let s := rebase (setCommitted (clearTiles s j) j t.toNat) j
  failEntry (writeImage s j t.toNat) 0x0E (unitByte 0 0) 0 t.toNat j

/-- RESTORE_COMPLETE: the payload has been read; `peer` holds what another module answered, `poisoned` whether a burst of it
came poisoned. -/
def execRestoreComplete (j : Slot) (peer : List (Nat × Byte)) (poisoned : Bool) (s : State) : Outcome State Fault Refusal :=
  let r := s.slots[j]
  match r.restore with
  | none => .next s
  | some q =>
    if r.slotState != .restoring || s.power != .running then .next s
    else
      let l := payloadBursts s q (payloadBytes s j) peer
      let s0 := if q.own then s else closeReads s q.run
      let s1 := layPayload (tapRestore (readPayload s0 q (payloadBytes s j)) q l) j q.dataStep.toNat l
      let failed (st : Status) : State :=
        modSlot s1 j fun r => { r with slotState := .restoreFailed, restoreStatus := st, restore := none }
      if (!q.own && poisoned) || l.any (·.2) then .next (settle s (failed .eccUncorr))
      else if foldBursts l != q.check then .next (settle s (failed .checkval))
      else .next (settle s (noteWaits (finishRestore s1 j q)))

/-- What the READs of a slot's restore are known by. -/
def readsOf (r : SlotR) : Nat := match r.restore with | some q => q.run | none => (r.headerAsked.map (·.1)).getD 0

/-- RESTORE_READ_TIMEOUT: a source read went unanswered (R338). READs that wait for a TAG are not sent. -/
def execRestoreReadTimeout (j : Slot) (s : State) : Outcome State Fault Refusal :=
  if (s.slots[j]).slotState != .restoring || s.power != .running || (s.slots[j]).restore.any (·.own) then .next s
  else .next (settle s (modSlot (dropWaiting s (readsOf s.slots[j])) j fun r =>
    { r with slotState := .restoreFailed, restoreStatus := .timeout, restore := none, headerAsked := none }))

/-- A ticket that a slot abort completes: CANCELLED, whatever its unit's state; under an isolated dispatch unit it is freed
without a record (R336). -/
def abortTk (s : State) (k : Tk) : State :=
  if k.phase == .completed then s
  else
    let s := stopWork s k .cancelled
    if s.isolated.contains (.dispatch (tkHost s k)) then freeTk s k.ticket
    else modTk { s with nextIssue := s.nextIssue + 1 } k.ticket fun q =>
      { q with causes := [.cancelled], phase := .completed, doneNo := s.nextIssue }

/-- A write of 6010h + j:18 (R336). -/
def writeSlotAbort (j : Slot) (data : List Byte) (s : State) : WriteResult :=
  if data != [1] then failWith s .invalid
  else
    let s := modSlot s j fun r => { r with epoch := r.epoch + 1 }
    let s := (List.finRange 8).foldl (fun s e => (List.finRange 16).foldl (fun s m =>
      let a := accSet s e m
      if a.state == .opened && a.slot == j then
        modAcc (invalidateSet s e m) e fun r => { r with forcedDrains := countUp r.forcedDrains }
      else s) s) s
    let s := (slotTks s j).foldl abortTk s
    let s := { s with chans := s.chans.map fun c => if c.op.any fun o => o.slot == j then { c with op := none } else c }
    okWith (freeStale (emptyTiles (modSlot (clearTiles s j) j fun r => { r with slotState := .restoreFailed, copy := none, restore := none, headerAsked := none }) j) j)

end Sys2Proof.Machine
end

