-- ==== Sys2Proof/Machine/Settings.lean ====
section
/-! DEFINITION. Writes of configuration objects and tables: rings, queue ends, flags, variants, buffers, net hosts, routes, ports
and channels (R136, R150, R165, R252, R253, R265, R270, R289, R290, R318, R342). -/

namespace Sys2Proof.Machine

/-! ## Values and tables -/

/-- A table's n entries of `bytes` bytes from its DOM's bytes, zeros past their end (R371). -/
def tableOf (w bytes n : Nat) (data : List Byte) : List (BitVec w) :=
  (List.range n).map fun i => bytesWord w (sliceBytes data (i * bytes) bytes)

/-- Bits hi to lo as 0: a write ignores reserved bits and stores the remaining fields (R4). -/
def dropBits {w : Nat} (e : BitVec w) (hi lo : Nat) : BitVec w := e &&& ~~~ (BitVec.ofNat w ((2 ^ (hi + 1 - lo) - 1) * 2 ^ lo))

/-- The entries that values at keys from `a` on are listed by; a default one is not. -/
def rangeEntries {α : Type} [DecidableEq α] (d : α) : Nat → List α → Sparse α
  | _, [] => []
  | a, v :: vs => if v = d then rangeEntries d (a + 1) vs else (a, v) :: rangeEntries d (a + 1) vs

/-- The keys from `a` on take the given values, the default ones unlisted. -/
def replaceRange {α : Type} [DecidableEq α] (d : α) (l : Sparse α) (a : Nat) (vs : List α) : Sparse α :=
  l.filter (fun p => decide (p.1 < a)) ++ rangeEntries d a vs ++ l.filter fun p => decide (a + vs.length ≤ p.1)

/-- The places of a table whose value changes. -/
def changedAt {α : Type} [DecidableEq α] (d : α) (l : Sparse α) (a : Nat) (vs : List α) : List (Nat × α × α) :=
  ((List.range vs.length).zip vs).filterMap fun p =>
    let old := sparseGet d l (a + p.1)
    if old = p.2 then none else some (p.1, old, p.2)

/-- A value of exactly n bytes that `ok` accepts is stored by `put`; any other fails (R367, R371). -/
def writeValue (n : Nat) (data : List Byte) (ok : Nat → Bool) (put : Nat → State → State) (s : State) : WriteResult :=
  if data.length == n && ok (leNat data) then okWith (put (leNat data) s) else failWith s .invalid

def inRange (lo hi x : Nat) : Bool := lo ≤ x && x ≤ hi

/-! ## Rings (R136) -/

/-- What a ring write names: base or size, of H, X, C or U. -/
inductive RingField where
  | hBase | hSize | xBase | xSize | cBase | cSize | uBase | uSize
  deriving DecidableEq, Repr

def isPow2 (n : Nat) : Bool := n != 0 && n &&& (n - 1) == 0

/-- A ring's base: 4 KiB aligned inside the window of one of the die's own two stacks (R136). -/
def ringBaseOk (die : Die) (a : Nat) : Bool :=
  a % 4096 == 0 && decide (a < 8 * stackSpan) && decide (a / stackSpan / 2 = die.val)

def ringSizeOk (urgent : Bool) (n : Nat) : Bool := n == 0 || (isPow2 n && inRange 16 (if urgent then 256 else 65536) n)

/-- A write of a base or a size (R136): each is judged by itself; head and tail return to 0, and SEQ starts at 1 (R157). Slots of
a ring that leave the populated part of their stack are read as poisoned and lose what is written there (log entry 36). -/
def writeRing (die : Die) (j : Slot) (f : RingField) (data : List Byte) (s : State) : WriteResult :=
  let urgent := f == .uBase || f == .uSize
  let isBase := f == .hBase || f == .xBase || f == .cBase || f == .uBase
  let rs := ringsOf s die j
  let r : Ring := if urgent then (s.dies[die]).u else match f with
    | .hBase => rs.h | .hSize => rs.h | .xBase => rs.x | .xSize => rs.x | _ => rs.c
  let v := leNat data
  let size := if isBase then r.size.toNat else v
  let base := if isBase then v else r.base.toNat
  let free := if urgent then ringEmpty r && (getTk s (Fin.ofNat 1024 (die.val * 256 + 255))).isNone else !slotBusy s j (some die)
  let legal := if isBase then ringBaseOk die base else ringSizeOk urgent size
  if data.length != (if isBase then 8 else 4) || !free || !legal then failWith s .invalid
  else
    let new : Ring := { base := BitVec.ofNat 64 base, size := BitVec.ofNat 32 size, head := 0, tail := 0 }
    okWith (match f with
      | .uBase => modDie s die fun d => { d with u := new }
      | .uSize => modDie s die fun d => { d with u := new }
      | .hBase => modRings s die j fun q => { q with h := new }
      | .hSize => modRings s die j fun q => { q with h := new }
      | .xBase => modRings s die j fun q => { q with x := new, xParent := [] }
      | .xSize => modRings s die j fun q => { q with x := new, xParent := [] }
      | _ => modRings s die j fun q => { q with c := new, nextSeq := 1 })

/-! ## Queue-end and flag tables (R149 to R151) -/

/-- Reserved encodings of an enabled queue-end entry, and its range (R149, R150). -/
def queueEndOk (e : BitVec 64) : Bool :=
  !qeEnable e || (qeProd e ≤ 1 && qeCons e ≤ 1 && inRange 1 16384 (qeStrips e) && qeFirst e + qeStrips e ≤ 16384)

/-- Two enabled queue ends of one engine whose strips meet. -/
def stripsMeet (a b : BitVec 64) : Bool :=
  qeEnable a && qeEnable b && qeEngine a == qeEngine b && qeFirst a < qeFirst b + qeStrips b && qeFirst b < qeFirst a + qeStrips a

/-- A write of the queue-end table (R150). The entries whose value changes are the ones written (log entry 37). -/
def writeQueueEnds (die : Die) (data : List Byte) (s : State) : WriteResult :=
  let vs := (tableOf 64 8 4096 data).map fun e => dropBits e 24 0
  let ch := changedAt 0 s.queueEnds (die.val * 4096) vs
  let busy (e : BitVec 64) : Bool := qeEnable e && slotBusy s (qeSlot e) (some die)
  let live := ((List.range 4096).zip vs).filter fun p => qeEnable p.2
  let ok := ch.all fun c =>
    queueEndOk c.2.2 && !busy c.2.1 && !busy c.2.2 && !((entriesOf s (shelfOf die) c.1).any fun x => !x.freed)
      && !(live.any fun p => p.1 != c.1 && stripsMeet c.2.2 p.2)
  if 32768 < data.length || !ok then failWith s .invalid
  else
    let pos := ch.foldl (fun l c => sparseErase l (qKey (shelfOf die) c.1)) s.queuePos
    okWith (renewEntries { s with queueEnds := replaceRange 0 s.queueEnds (die.val * 4096) vs, queuePos := pos } [.queueEnd die] vs.length)

/-- A write of the flag table (R151, R165). -/
def writeFlags (die : Die) (data : List Byte) (s : State) : WriteResult :=
  let vs := tableOf 32 4 4096 data
  let busy (e : BitVec 32) : Bool := feEnable e && slotBusy s (feSlot e) (some die)
  let ok := (changedAt 0 s.flags (die.val * 4096) vs).all fun c => !busy c.2.1 && !busy c.2.2
  if 16384 < data.length || !ok then failWith s .invalid
  else okWith (noteWaits (renewEntries { s with flags := replaceRange 0 s.flags (die.val * 4096) vs } [.flag die] vs.length))

/-! ## Variant contexts (R252, R253) -/

def variantSlot (e : BitVec 256) : Slot := Fin.ofNat 16 (bitsOf e 3 0)

/-- An entry without its reserved fields (R252). -/
def variantFields (e : BitVec 256) : BitVec 256 := dropBits (dropBits (dropBits (dropBits e 6 4) 31 25) 63 56) 255 192

/-- Fields of entry v of the variant table as a write may leave them (R252, R253): no reserved field set and VARIANT_ID v, and for
a resident entry a rank, a TID_BASE and a state that the table admits. STATE_BYTES is the length of both buffers together. An
entry of zeros is the unused one that reset leaves (log entry 37). -/
def variantEntryOk (s : State) (v : Nat) (e : BitVec 256) : Bool :=
  e == 0 ||
    (variantFields e == e && bitsOf e 24 16 == v && bitsOf e 55 32 + 7 < (s.slots[variantSlot e]).scaleCount.toNat
      && (!bitOf e 7 ||
        (inRange 1 32 (bitsOf e 15 8) && bitsOf e 127 64 % 4096 == 0 && bitsOf e 159 128 % 256 == 0
          && inJobTier2 (bitsOf e 127 64) (max 1 (bitsOf e 159 128)))))

/-- A write of 3120h:01: every entry written is judged, and those that it changes want their slots idle (R253). -/
def writeVariants (data : List Byte) (s : State) : WriteResult :=
  let vs := tableOf 256 32 512 data
  let idle := (changedAt 0 s.variants 0 vs).all fun c =>
    !(bitOf c.2.1 7 && slotBusy s (variantSlot c.2.1) none) && !(bitOf c.2.2 7 && slotBusy s (variantSlot c.2.2) none)
  let ok := ((List.range vs.length).zip vs).all fun p => variantEntryOk s p.1 p.2
  if 16384 < data.length || !idle || !ok then failWith s .invalid
  else okWith (renewEntries { s with variants := replaceRange 0 s.variants 0 vs } [.variant] vs.length)

/-! ## Buffer tables and net hosts (R318, R342) -/

/-- The two buffers of an entry as (base, bytes); none of an unused one. -/
def buffersOf (e : BitVec 256) : List (Nat × Nat) :=
  let n := bitsOf e 159 128
  if n = 0 then [] else [(bitsOf e 63 0, n), (bitsOf e 127 64, n)]

def bufferEntryOk (e : BitVec 256) : Bool :=
  let n := bitsOf e 159 128
  let a := bitsOf e 63 0
  let b := bitsOf e 127 64
  n = 0 || (a % 4096 == 0 && b % 4096 == 0 && n % 4096 == 0
    && inJobTier2 a n && inJobTier2 b n && homeAt a == homeAt b && homeAt (a + n - 1) == homeAt a && homeAt (b + n - 1) == homeAt b)

/-- Ranges (base, length) that meet pairwise. -/
def anyMeet : List (Nat × Nat) → Bool
  | [] => false
  | p :: l => (l.any fun q => decide (p.1 < q.1 + q.2 ∧ q.1 < p.1 + p.2)) || anyMeet l

/-- A slot with a ticket in flight or a copy running (R318, R341). -/
def slotInUse (s : State) (j : Slot) : Bool := slotBusy s j none || (s.slots[j]).copy.isSome

/-- A write of 6010h + j:09. -/
def writeBuffers (j : Slot) (data : List Byte) (s : State) : WriteResult :=
  let vs := (tableOf 256 32 512 data).map fun e => dropBits (dropBits e 174 169) 255 176
  if 16384 < data.length || slotInUse s j || !vs.all bufferEntryOk || anyMeet (vs.flatMap buffersOf) then failWith s .invalid
  else okWith { s with buffers := replaceRange 0 s.buffers (j.val * 512) vs }

/-- A tier-2 range that a party may use: nobody else owns a part of it. -/
def rangeFree (s : State) (a n : Nat) (owner : BitVec 8) : Bool :=
  !s.owners.ranges.any fun p => p.2.1 != 0 && p.2.2.2 != owner
    && decide (a < (p.2.1 + p.2.2.1) * 0x200000 ∧ p.2.1 * 0x200000 < a + n)

/-- A write of 6020h:01 (R342). -/
def writeNetHosts (data : List Byte) (s : State) : WriteResult :=
  let vs := (tableOf 256 32 16 data).map fun e => dropBits (dropBits (dropBits (dropBits e 14 13) 31 20) 63 32) 255 192
  let live := vs.filter netValid
  let ok := (live.all fun e => netBase e % 4096 == 0 && inTier2 (netBase e) (max 1 (2 * netHalf e))
          && decide (netBase e + 2 * netHalf e ≤ headBase)
          && rangeFree s (netBase e) (2 * netHalf e) (BitVec.ofNat 8 (bitsOf e 19 16)))
    && !anyMeet (live.map fun e => (netBase e, 2 * netHalf e))
  if 512 < data.length || !ok then failWith s .invalid
  else okWith { s with netHosts := replaceRange 0 s.netHosts 0 vs }

/-! ## Fabric (R265, R289) -/

/-- A write of 5010h. -/
def writeRoutes (data : List Byte) (s : State) : WriteResult :=
  let vs := (tableOf 64 8 8192 data).map fun e => dropBits e 62 32
  if 65536 < data.length then failWith s .invalid
  else okWith (renewEntries { s with routes := replaceRange 0 s.routes 0 vs } ((List.finRange 8).map .routing) vs.length)

/-- A write of 5000h:03: a bit cleared takes its port DOWN at once, one set starts training. -/
def writePortEnable (data : List Byte) (s : State) : WriteResult :=
  writeValue 4 data (fun _ => true) (fun v s =>
    let old := s.fabric.portEnable
    let new := BitVec.ofNat 32 v
    let s := (List.finRange 32).foldl (fun s p =>
      if bitOf old p.val && !bitOf new p.val then modPort s p portDown
      else if !bitOf old p.val && bitOf new p.val then modPort s p fun r => { portDown r with state := 1 }
      else s) s
    { s with fabric := { s.fabric with portEnable := new } }) s

/-- A write of 5000h:01: RWM, and only with no ticket in flight. -/
def writeModuleId (data : List Byte) (s : State) : WriteResult :=
  if !(tksOf s).isEmpty then failWith s .invalid
  else writeValue 2 data (fun _ => true) (fun v s => { s with fabric := { s.fabric with moduleId := BitVec.ofNat 13 v } }) s

/-! ## Channels (R270, R290) -/

/-- Whether a channel is in use: a collective on it that has not completed, or a DRAIN that waits on it. -/
def channelBusy (s : State) (c : ChanId) : Bool :=
  collOnChannel s c || (tksOf s).any fun k =>
    (k.phase == .issued || k.phase == .running) && dFamily k.desc == some .drain && dTarget k.desc == 2 && drChannel k.desc == c

def memberEntry (s : State) (c : ChanId) (i : Nat) : BitVec 32 := sparseGet 0 s.members (c.val * 8192 + i)

/-- A write of 5100h + c:01 to :07. A member list that does not hold D entries breaks R270 (log entry 61). A backed index of 8,192
and above fails: it names no member, and no bit of the object is called reserved (log entry 62). -/
def writeChannel (c : ChanId) (sub : Nat) (data : List Byte) (s : State) : WriteResult :=
  let v := leNat data
  let put (n : Nat) (ok : Bool) (f : ChanR → ChanR) : WriteResult :=
    if data.length == n && ok then okWith (modChan s c f) else failWith s .invalid
  if channelBusy s c then failWith s .invalid
  else match sub with
    | 1 => put 1 (v < 16) fun r => { r with slot := BitVec.ofNat 4 v }
    | 2 => put 1 (v = 0 || v = 1 || v = 0xFF) fun r =>
        { r with role := if v = 0 then .member else if v = 1 then .backup else .disabled }
    | 3 => put 2 (inRange 1 8192 v) fun r => { r with members := BitVec.ofNat 16 v }
    | 4 => put 2 (v < 8192 && (v < (s.chans[c]).members.toNat || (s.chans[c]).members == 0)) fun r => { r with own := BitVec.ofNat 16 v }
    | 5 =>
      let vs := (tableOf 32 4 8192 data).map fun e => dropBits (dropBits e 30 29) 15 13
      if data.length != 4 * (s.chans[c]).members.toNat then failWith s .invalid
      else okWith { s with members := replaceRange 0 s.members (c.val * 8192) vs }
    | 6 => put 2 (v < 8192) fun r => { r with backed := BitVec.ofNat 16 v }
    | 7 => put 4 true fun r => { r with nextCseq := BitVec.ofNat 32 v }
    | _ => failWith s .invalid

/-! ## Plain settings of a slot's resilience object (R341) -/

def align4k (v : Nat) : Bool := v % 4096 == 0

/-- A write of 6010h + j:02 to :0E, the buffer table apart. -/
def writeResilience (j : Slot) (sub : Nat) (data : List Byte) (s : State) : WriteResult :=
  let v := leNat data
  let put (n : Nat) (ok : Bool) (f : SlotR → SlotR) : WriteResult :=
    if data.length == n && ok && !slotInUse s j then okWith (modSlot s j f) else failWith s .invalid
  let force (b : Bool) (r : SlotR) : SlotR := if b then { r with copyForced := true } else r
  match sub with
  | 0x02 => put 2 true fun r => { r with commitFlag := BitVec.ofNat 12 v }
  | 0x03 => put 1 (1 ≤ v) fun r => { r with commitInc := BitVec.ofNat 8 v }
  | 0x04 => put 2 true fun r => { r with committedFlag := BitVec.ofNat 12 v }
  | 0x05 => put 8 (align4k v && v < stackTop) fun r => { r with recordBase := BitVec.ofNat 64 v }
  | 0x06 => put 4 (align4k v) fun r => { r with recordBytes := BitVec.ofNat 32 v }
  | 0x07 => put 8 (align4k v && (v == 0 || inJobTier2 v 1)) fun r => { r with imageBase := BitVec.ofNat 64 v, images := [] }
  | 0x08 => put 8 (v == 0 || inJobTier2 v 1) fun r => { r with keepBase := BitVec.ofNat 64 v }
  | 0x0A => put 2 (1 ≤ v) fun r => { r with fixedInterval := BitVec.ofNat 16 v }
  | 0x0B => put 2 (v % 256 ≤ v / 256 && v / 256 ≤ 7) fun r => { r with intervalLimits := BitVec.ofNat 16 v }
  | 0x0C => put 4 true fun r => { r with mirrorTid := BitVec.ofNat 32 (v % 2 ^ 24) }
  | 0x0D => put 2 true fun r => force (r.partner.toNat != v % 8192) { r with partner := BitVec.ofNat 13 v }
  | 0x0E => put 8 (v == 0 || inJobTier2 v 1) fun r => force (r.netBase.toNat != v) { r with netBase := BitVec.ofNat 64 v }
  | _ => failWith s .invalid

/-! ## Pace, power, energy, engines -/

/-- A write of 2000h:05 (R355), 0 or 500 to 2,690: a write of 0 lets the cap limit rise at the next sample. -/
def writeCap (data : List Byte) (s : State) : WriteResult :=
  writeValue 2 data (fun v => v == 0 || inRange 500 2690 v) (fun v s =>
    { s with pm := { s.pm with cap := BitVec.ofNat 16 v, unmetSamples := 0, unmetRaised := false } }) s

/-- A write of 2010h + j:03 (R352, R364). -/
def writeInitialPace (j : Slot) (data : List Byte) (s : State) : WriteResult :=
  if slotBusy s j none then failWith s .invalid
  else writeValue 2 data (fun v => inRange 100 2000 v && v % 20 == 0) (fun v s =>
    modSlot s j fun r => { r with initialPace := BitVec.ofNat 16 v, jobPace := BitVec.ofNat 16 v }) s

/-- A write of 2080h:13 (R365). -/
def writeEnergyClear (data : List Byte) (s : State) : WriteResult :=
  writeValue 4 data (fun _ => true) (fun v s =>
    let s := (List.finRange 16).foldl (fun s j => if v / 2 ^ j.val % 2 = 1 then modSlot s j fun r => { r with energy := 0 } else s) s
    if v / 2 ^ 16 % 2 = 1 then { s with pm := { s.pm with unattributed := 0 } } else s) s

/-- A write of 3000h + e:20 (R54, R55). -/
def writeRetire (e : Eng) (data : List Byte) (s : State) : WriteResult :=
  let v := leNat data
  let col := v / 32768 = 1
  let r := s.engines[e]
  let i : Fin 520 := Fin.ofNat 520 (v % 1024)
  if data.length != 2 || 519 < v % 1024 || engRetired s e then failWith s .invalid
  else if (if col then r.retiredCols else r.retiredRows).contains i then failWith s .invalid
  else okWith (requestRetire s e col i)

/-- A write of 3000h + e:21. -/
def writeRetireEngine (e : Eng) (data : List Byte) (s : State) : WriteResult :=
  if data == [1] && !engRetired s e then okWith (dueRetirement s e)
  else if data == [0] then okWith s
  else failWith s .invalid

end Sys2Proof.Machine
end

