-- ==== Sys2Proof/Machine/Channel.lean ====
section
/-! DEFINITION. A collective in flight: places and shards, READYs, blocks along the chains, results, digests, notices, the norm
record, and its end (R270 to R288, R130, R131). -/

namespace Sys2Proof.Machine

/-! ## Shape of a collective (R273, R274, R278) -/

def modOp (s : State) (c : ChanId) (f : Coll → Coll) : State := modChan s c fun r => { r with op := r.op.map f }

/-- D, and the module at a place of the member list and its backup. -/
def memberCount (s : State) (c : ChanId) : Nat := (s.chans[c]).members.toNat
def memberModule (s : State) (c : ChanId) (i : Nat) : Nat := bitsOf (memberEntry s c i) 12 0
def memberBackup (s : State) (c : ChanId) (i : Nat) : Option Nat :=
  let e := memberEntry s c i
  if bitOf e 31 then some (bitsOf e 28 16) else none

/-- Function that a collective's flits carry: a backup takes part in a REDUCE_SCATTER (R283). -/
def collFn (d : Desc) : Nat := if dFunc d = 4 then 1 else dFunc d
def isGather (d : Desc) : Bool := dFunc d == 2 || dFunc d == 3
def isSharded (d : Desc) : Bool := collFn d == 1 || dFunc d == 2

/-- S of R274. -/
def shardLen (D count : Nat) : Nat := 128 * ((count + 128 * D - 1) / (128 * D))

/-- First position of shard k and the position after its last. -/
def shardSpan (s : State) (c : ChanId) (d : Desc) (k : Nat) : Nat × Nat :=
  if isSharded d then
    let n := shardLen (memberCount s c) (coCount d)
    (k * n, min ((k + 1) * n) (coCount d))
  else (0, coCount d)

/-- The shards that are not empty. -/
def shardsOf (s : State) (c : ChanId) (d : Desc) : List Nat :=
  if isNormColl d then [] else if isSharded d then (List.range (memberCount s c)).filter fun k => (shardSpan s c d k).1 < (shardSpan s c d k).2 else [0]

/-- Blocks of 64 positions of shard k. -/
def blocksOf (s : State) (c : ChanId) (d : Desc) (k : Nat) : List Nat :=
  let p := shardSpan s c d k
  (List.range ((p.2 + 63) / 64 - p.1 / 64)).map (p.1 / 64 + ·)

/-- The shard of a block. -/
def shardOfBlock (s : State) (c : ChanId) (d : Desc) (b : Nat) : Nat :=
  if isSharded d then 64 * b / shardLen (memberCount s c) (coCount d) else 0

/-- Positions that a block holds. -/
def blockLen (d : Desc) (b : Nat) : Nat := min 64 (coCount d - 64 * b)

/-- The last block of its shard (R272). -/
def lastBlock (s : State) (c : ChanId) (d : Desc) (b : Nat) : Bool :=
  (blocksOf s c d (shardOfBlock s c d b)).getLast? == some b

/-- Place of member i along the chain of shard k: REDUCE_SCATTER runs k + 1, …, k, ALL_GATHER k, …, k − 1, the others 0 to
D − 1. -/
def placeIn (s : State) (c : ChanId) (d : Desc) (k i : Nat) : Nat :=
  let n := memberCount s c
  match collFn d with
  | 1 => (i + 2 * n - k - 1) % n
  | 2 => (i + n - k) % n
  | _ => i

/-- Members before and after member i in the chain of shard k. -/
def prevIn (s : State) (c : ChanId) (d : Desc) (k i : Nat) : Option Nat :=
  let n := memberCount s c
  if placeIn s c d k i = 0 then none else some ((i + n - 1) % n)
def nextIn (s : State) (c : ChanId) (d : Desc) (k i : Nat) : Option Nat :=
  let n := memberCount s c
  if placeIn s c d k i + 1 = n then none else some ((i + 1) % n)

/-- Other members, by index. -/
def others (s : State) (c : ChanId) (i : Nat) : List Nat := (List.range (memberCount s c)).filter (· != i)

/-- The member at whose home an Arrival collective adds shard k (R279). -/
def homeMember (s : State) (c : ChanId) (d : Desc) (k : Nat) : Nat := if collFn d = 1 then k else memberCount s c - 1

/-- Logical index of a position (R275). -/
def logIndex (o : Coll) (p : Nat) : Nat := if o.cols = 0 then p else o.origin + p / o.cols * o.rowLen + p % o.cols

/-! ## Flits of a collective (R263) -/

def chanArg (c : ChanId) (cseq : BitVec 32) (rest : Nat) : Nat := c.val * 2 ^ 58 + cseq.toNat * 2 ^ 26 + rest

/-- Sends a flit that is dropped in silence where its route is not usable (R266). -/
def cast (s : State) (typ vc dest : Nat) (arg : Nat) (payload : List Byte) : State :=
  (sendFlit s (ownFlit s typ vc dest arg payload)).1

def xorBytes (a : BitVec 256) (arg : Nat) (payload : List Byte) : BitVec 256 :=
  a ^^^ bytesWord 256 (shake256 (leBytes 8 arg ++ fitBytes 256 payload))

/-- A block enters a hop digest (R286). -/
def foldDigest (l : Sparse (BitVec 256 × Nat)) (key arg : Nat) (payload : List Byte) : Sparse (BitVec 256 × Nat) :=
  let x := sparseGet (0, 0) l key
  sparseSet (0, 0) l key (xorBytes x.1 arg payload, x.2 + 1)

def digKey (shard module_ : Nat) : Nat := shard * 8192 + module_

/-- Sends one block of a hop, which enters its digest. -/
def sendBlock (s : State) (c : ChanId) (o : Coll) (typ shard dest arg : Nat) (payload : List Byte) : State :=
  let s := modOp s c fun o =>
    { o with left := true, digOut := if coDigest o.k.desc then foldDigest o.digOut (digKey shard dest) arg payload else o.digOut }
  cast s typ 5 dest (chanArg c o.cseq 0 + arg % 2 ^ 26) payload

/-- ARG of a block's flit. -/
def blockArg (c : ChanId) (o : Coll) (b : Nat) (nonfinite subst last : Bool) : Nat :=
  chanArg c o.cseq (b * 8 + 4 * bnat nonfinite + 2 * bnat subst + bnat last)

def sendNotice (s : State) (c : ChanId) (cseq : BitVec 32) (dest member code : Nat) : State :=
  cast s 0x15 6 dest (chanArg c cseq (member * 256 + code)) []

/-! ## The end of a collective (R272, R285, R287) -/

/-- A status that a collective meets: kept with it until its part is played, then its descriptor's (R286). -/
def collCause (s : State) (c : ChanId) (x : Status) : State :=
  match (s.chans[c]).op with
  | none => s
  | some o =>
    if !o.played then modOp s c fun o => { o with causes := addOnce o.causes x }
    else modInst s o.k.ticket o.k.inst fun q => if q.phase = .ended then addCause x q else q

/-- The engine's part in a channel's collective is over, with the statuses that apply: the channel is free once the collective has
completed, and at once behind a TIMEOUT, whose DETAIL is kept for the LATE record. -/
def finishColl (s : State) (c : ChanId) (extra : List Status) : State :=
  match (s.chans[c]).op with
  | none => s
  | some o =>
    let causes := o.causes ++ extra ++ if o.absent.isEmpty then [] else [.absent]
    let detail := o.cseq.toNat * 2 ^ 32 + o.absent.length
    let adds := (s.chans[c]).held.filter fun f => f.typ == 6
    let s := modChan s c fun r =>
      { r with op := if o.timedOut then none else some { o with played := true },
               last := if o.timedOut then some (o.cseq, o.slot, o.k.ticket, o.k.dataStep) else r.last,
               held := r.held.filter fun f => f.typ != 6 && bitsOf f.arg 57 26 != o.cseq.toNat }
    let s := adds.foldl (fun s f => ackTo s f .invalid) s
    if o.timedOut then modInst s o.k.ticket o.k.inst fun q => { q with detail := BitVec.ofNat 64 detail }
    else modInst s o.k.ticket o.k.inst (endTk causes detail)

/-- The collective of a channel completes with INVALID after a NOTICE ABORT, unless its status has been decided; under Strict an aborted
norm collective marks its slot for rollback (R272, R322). -/
def abortHere (s : State) (c : ChanId) : State :=
  match (s.chans[c]).op with
  | none => s
  | some o =>
    let decided := o.played && !(instTk s o.k.ticket o.k.inst).any fun k => k.phase == .ended
    let strict := (s.slots[o.slot]).inForce.integrity == .strict
    let s := if isNormColl o.k.desc && strict && !o.timedOut && !decided then modSlot s o.slot fun r => { r with rollback := true } else s
    if o.played then collCause s c .invalid else finishColl s c [.invalid]

/-- NOTICE ABORT goes to every other member of the channel, and the collective ends here. -/
def abortAll (s : State) (c : ChanId) : State :=
  match (s.chans[c]).op with
  | none => s
  | some o =>
    let told := if o.backup then List.range (memberCount s c) else others s c o.member
    let s := told.foldl (fun s i => sendNotice s c o.cseq (memberModule s c i) o.member 3) s
    abortHere s c

/-- A residue failure of the collective engine, or what is handled as one (R293, R436). -/
def engineFails (s : State) (c : ChanId) : State :=
  match (s.chans[c]).op with
  | none => s
  | some o =>
    let s := logTk s 0x03 (unitByte 4 0) o.k 0 0
    let s := { s with integrity := { s.integrity with residueFailures := countUp s.integrity.residueFailures } }
    abortAll (markStep s o.slot o.k.dataStep none none) c

/-- One of a collective's counts expires before it has completed: it completes with TIMEOUT, and the engine still plays its part (R287).
Where a BURST_ADD's count has expired, no further one goes out (R269, R279). -/
def expireColl (s : State) (c : ChanId) (o : Coll) (stop : Bool) : State :=
  let waiting := (s.waitReqs.filter fun p => p.1.inst == some o.k.inst).length
  let o := { o with timedOut := true, addsStopped := o.addsStopped || stop, addsDue := if stop then o.addsDue - waiting else o.addsDue }
  let s := modChan (if stop then dropWaiting s o.k.inst else s) c fun r =>
    if o.played then { r with op := none, last := some (o.cseq, o.slot, o.k.ticket, o.k.dataStep) } else { r with op := some o }
  modTk s o.k.ticket (endTk [.timeout] (o.cseq.toNat * 2 ^ 32 + o.absent.length))

/-! ## Who decides for a backup (R284, R285) -/

/-- Whether member k's place may be taken by its backup: a limit is set and it has one. -/
def mayLapse (s : State) (c : ChanId) (o : Coll) (k : Nat) : Bool :=
  !o.backup && !o.arrival && dFunc o.k.desc == 1 && coLate o.k.desc != 0 && (memberBackup s c k).isSome

/-- The party that this member sends shard k's blocks to: the next member, or its backup once that is taken; none before the
decision or its READY. -/
def sendParty (s : State) (c : ChanId) (o : Coll) (k next : Nat) : Option Nat :=
  let m := memberModule s c next
  let ready (src : Nat) (backup : Bool) : Bool := o.readies.contains { src := src, shard := k, backup := backup }
  if sparseGet none o.taken (2 * k) = some true then
    match memberBackup s c next with
    | some b => if ready b true then some b else none
    | none => none
  else if ready m false then some m else none

/-- Whether a block of shard k from a module is one that this member takes in from its predecessor. -/
def fromPrev (s : State) (c : ChanId) (o : Coll) (k prev src : Nat) : Bool :=
  let m := memberModule s c prev
  let b := memberBackup s c prev
  if placeIn s c o.k.desc k prev = 0 then
    if mayLapse s c o prev then
      match sparseGet none o.taken (2 * k + 1) with
      | some true => b == some src
      | some false => src == m
      | none => false
    else src == m
  else src == m || (collFn o.k.desc == 1 && b == some src)

/-- A member is marked ABSENT here, once (R285). -/
def markAbsent (s : State) (c : ChanId) (k : Nat) : State :=
  match (s.chans[c]).op with
  | none => s
  | some o =>
    if o.absent.contains k then s
    else
      let s := if o.played then modInst s o.k.ticket o.k.inst fun q =>
          if q.phase = .ended then { addCause .absent q with detail := q.detail + 1 } else q
        else s
      modChan (modOp s c fun o => { o with absent := o.absent ++ [k] }) c fun r => { r with absentMarks := countUp r.absentMarks }

/-- The decider takes member k's backup: NOTICE ABSENT to every member and to the backup. -/
def takeBackup (s : State) (c : ChanId) (o : Coll) (key k : Nat) : State :=
  let s := modOp s c fun o => { o with taken := sparseSet none o.taken key (some true) }
  let s := (others s c o.member).foldl (fun s i => sendNotice s c o.cseq (memberModule s c i) k 1) s
  let s := match memberBackup s c k with | some b => sendNotice s c o.cseq b k 1 | none => s
  markAbsent s c k

def takeMember (s : State) (c : ChanId) (key : Nat) : State :=
  modOp s c fun o => { o with taken := sparseSet none o.taken key (some false) }

/-- Block 0 of shard k is here from a module. -/
def firstHere (s : State) (c : ChanId) (o : Coll) (k src : Nat) : Bool :=
  o.blocks.any fun b => !b.result && b.src == src && (blocksOf s c o.k.desc k).head? == some b.block

/-- What has reached this member decides the parties of shard k where it is the decider (R284). -/
def decideShard (s : State) (c : ChanId) (k : Nat) : State :=
  match (s.chans[c]).op with
  | none => s
  | some o =>
    let pick (s : State) (key j : Nat) (mine theirs : Bool) : State :=
      if (sparseGet none o.taken key).isSome || !mayLapse s c o j then s
      else if mine then takeMember s c key
      else if theirs && o.expired.contains key then takeBackup s c o key j
      else s
    let s := match prevIn s c o.k.desc k o.member with
      | some p =>
        if placeIn s c o.k.desc k p = 0 then
          pick s (2 * k + 1) p (firstHere s c o k (memberModule s c p)) ((memberBackup s c p).any (firstHere s c o k))
        else s
      | none => s
    match nextIn s c o.k.desc k o.member with
    | some q =>
      pick s (2 * k) q (o.readies.contains { src := memberModule s c q, shard := k, backup := false })
        ((memberBackup s c q).any fun b => o.readies.contains { src := b, shard := k, backup := true })
    | none => s

/-! ## Blocks along the chains (R273, R274, R277, R278, R283, R284) -/

/-- Bytes of an element in a collective's flits. -/
def flitFmt (d : Desc) : Fmt := if isGather d then (dIn d 0).getD .l16s else .b32

/-- Payload of a block of codes. -/
def blockPayload (f : Fmt) (l : List (BitVec 32)) : List Byte := fitBytes 256 (bytesOfCodes f (l.map BitVec.toNat))
def payloadCodes (f : Fmt) (n : Nat) (l : List Byte) : List (BitVec 32) :=
  ((codesOf f l).take n).map (BitVec.ofNat 32)

/-- The member's own values of a block. An ALL_GATHER's member holds its own shard only. -/
def ownBlock (s : State) (c : ChanId) (o : Coll) (b : Nat) : Option (List (BitVec 32)) :=
  let from_ := if dFunc o.k.desc = 2 then (shardSpan s c o.k.desc o.member).1 else 0
  o.contrib.map fun l => (l.drop (64 * b - from_)).take (blockLen o.k.desc b)

/-- The block that has come in from the predecessor. -/
def blockFrom (s : State) (c : ChanId) (o : Coll) (k b prev : Nat) : Option Blk :=
  o.blocks.find? fun x => x.block == b && x.result == isGather o.k.desc && fromPrev s c o k prev x.src

/-- What a block's processing gives: its values and NONFINITE, and the block it took in. -/
def blockValue (s : State) (c : ChanId) (o : Coll) (k b : Nat) : Option (List (BitVec 32) × Bool × Option Blk) :=
  let d := o.k.desc
  match prevIn s c d k o.member with
  | none => (ownBlock s c o b).map fun l => (l, !isGather d && l.any (fun v => (f32Val v).special), none)
  | some p =>
    match blockFrom s c o k b p with
    | none => none
    | some x =>
      let run := payloadCodes (flitFmt d) (blockLen d b) x.payload
      if isGather d then some (run, x.nonfinite, some x)
      else (ownBlock s c o b).map fun l =>
        let sum := List.zipWith f32Add run l
        (sum, x.nonfinite || sum.any (fun v => (f32Val v).special), some x)

/-- Blocks of a hop of shard k: bursts under Arrival from a sender to the home, ride blocks of the norm record, blocks
otherwise. -/
def hopBlocks (s : State) (c : ChanId) (o : Coll) (k : Nat) (result : Bool) : Nat :=
  let p := shardSpan s c o.k.desc k
  if isNormColl o.k.desc then o.ride.length / 256
  else if o.arrival && !result then (p.2 - p.1 + 127) / 128
  else (blocksOf s c o.k.desc k).length

/-- A block has come in over a hop: it enters the hop's digest, which goes back once the last block is in. -/
def digestIn (s : State) (c : ChanId) (src arg : Nat) (payload : List Byte) (k : Nat) (result : Bool) : State :=
  match (s.chans[c]).op with
  | none => s
  | some o =>
    if !coDigest o.k.desc then s
    else
      let key := digKey k src
      let l := foldDigest o.digIn key arg payload
      let x := sparseGet (0, 0) l key
      let s := modOp s c fun o => { o with digIn := l }
      if x.2 = hopBlocks s c o k result then
        cast (modOp s c fun o => { o with digSent := key :: o.digSent }) 0x14 6 src (chanArg c o.cseq (k * 256))
          (fitBytes 256 (wordBytes 32 x.1))
      else s

/-- Notes a block as played; the block it took in enters its hop's digest. -/
def playBlock (s : State) (c : ChanId) (k b : Nat) (x : Option Blk) (fin : Option (List (BitVec 32) × Bool)) : State :=
  let s := modOp s c fun o =>
    { o with sent := b :: o.sent, blocks := o.blocks.filter (fun x => x.block != b || (x.result && !isGather o.k.desc)),
             finals := match fin with | some v => sparseSet none o.finals b (some v) | none => o.finals }
  match x with
  | some x => digestIn s c x.src x.arg.toNat x.payload k x.result
  | none => s

/-- Plays this member's part in block b of shard k, where its inputs and the READY of the next party are here. -/
def pumpBlock (s : State) (c : ChanId) (k b : Nat) : State :=
  match (s.chans[c]).op with
  | none => s
  | some o =>
    let d := o.k.desc
    if o.sent.contains b then s
    else match blockValue s c o k b with
      | none => s
      | some (v, nf, x) =>
        let keep := if isGather d then some (v, false) else none
        match nextIn s c d k o.member with
        | some q =>
          (match sendParty s c o k q with
           | none => s
           | some dest =>
             let typ := if isGather d then 0x11 else 0x10
             playBlock (sendBlock s c o typ k dest (blockArg c o b nf o.backup (lastBlock s c d b)) (blockPayload (flitFmt d) v)) c k b x keep)
        | none =>
          if o.backup then
            let dest := memberModule s c o.member
            if o.readies.contains { src := dest, shard := k, backup := false } then
              playBlock (sendBlock s c o 0x11 k dest (blockArg c o b nf true (lastBlock s c d b)) (blockPayload .b32 v)) c k b x none
            else s
          else playBlock s c k b x (some (v, nf))

/-- Sends a final block of a CHAIN_REDUCE to the other members that are ready (R273, R279). -/
def fanBlock (s : State) (c : ChanId) (f : Fmt) (b : Nat) : State :=
  match (s.chans[c]).op with
  | none => s
  | some o =>
    match sparseGet none o.finals b with
    | none => s
    | some (v, nf) =>
      (others s c o.member).foldl (fun s i =>
        match (s.chans[c]).op with
        | none => s
        | some o =>
          let m := memberModule s c i
          if o.fanned.contains (i, b) || !o.readies.contains { src := m, shard := 0, backup := false } then s
          else
            modOp (sendBlock s c o 0x11 0 m (blockArg c o b nf false (lastBlock s c o.k.desc b)) (blockPayload f v)) c
              fun o => { o with fanned := (i, b) :: o.fanned }) s

/-- Takes the results that have come for shards this member stores: a CHAIN_REDUCE's from its last member, its own shard's from
its backup. -/
def takeResult (s : State) (c : ChanId) (b : Nat) : State :=
  match (s.chans[c]).op with
  | none => s
  | some o =>
    let d := o.k.desc
    let mine (src : Nat) : Bool :=
      if collFn d = 1 then memberBackup s c o.member == some src else src == memberModule s c (memberCount s c - 1)
    match o.blocks.find? fun x => x.result && x.block == b && mine x.src with
    | none => s
    | some x =>
      if isGather d || o.backup || (sparseGet none o.finals b).isSome then s
      else
        let v := payloadCodes (if o.arrival then .l16s else .b32) (blockLen d b) x.payload
        let s := modOp s c fun o =>
          { o with blocks := o.blocks.filter (· != x), substituted := o.substituted || collFn d == 1,
                   finals := sparseSet none o.finals b (some (v, x.nonfinite)) }
        digestIn s c x.src x.arg.toNat x.payload (shardOfBlock s c d b) true

/-! ## Storing results (R276 to R280) -/

/-- Shards that this member stores. -/
def storesShards (s : State) (c : ChanId) (o : Coll) : List Nat :=
  if o.backup then []
  else if collFn o.k.desc = 1 then (shardsOf s c o.k.desc).filter (· == o.member)
  else shardsOf s c o.k.desc

/-- Adds the squares of stored values to the partial of the channel or of the variant context, and the flag to its flag (R280). -/
def addSquares (s : State) (c : ChanId) (o : Coll) (vs : List (BitVec 32)) (nf : Bool) : State :=
  let up (x : BitVec 32 × Bool) : BitVec 32 × Bool := (vs.foldl (fun q v => f32Fma v v q) x.1, x.2 || nf)
  modSlot s o.slot fun r =>
    if dVarEn o.k.desc then
      let i := 64 * dVariant o.k.desc + c.val
      { r with variantParts := sparseSet (0, false) r.variantParts i (up (sparseGet (0, false) r.variantParts i)) }
    else { r with parts := sparseSet (0, false) r.parts c.val (up (sparseGet (0, false) r.parts c.val)) }

/-- Writes of a collective to its results: its descriptor waits for them. They enter no signature (log entry 48). -/
def queueResult (s : State) (k : Tk) (a : Nat) (l : List Byte) : State :=
  let reqs := (burstParts (l.length + 1) a l).map fun p =>
    match p.2.2 with
    | none => HomeReq.write k.inst k.ticket p.1 p.2.1
    | some m => HomeReq.masked k.inst k.ticket p.1 p.2.1 m
  modInst { s with homeQueue := s.homeQueue ++ reqs } k.ticket k.inst fun q => { q with wrote := true }

/-- Where shard k is stored: an ALL_GATHER's at its place in DST, every other at DST. -/
def storeAddr (s : State) (c : ChanId) (d : Desc) (k : Nat) : Nat :=
  globalLocal (coDst d) + if dFunc d = 2 then (shardSpan s c d k).1 * ((dOut d 0).getD .l16s).bytes else 0

/-- Stores a shard whose blocks are all final. A poisoned scale entry counts as a residue failure (R436). A stored tensor in a
format with a scale folds its capture (R95). -/
def storeShard (s : State) (c : ChanId) (k : Nat) : State :=
  match (s.chans[c]).op with
  | none => s
  | some o =>
    let d := o.k.desc
    let bs := blocksOf s c d k
    if o.stored.contains k || !bs.all (fun b => (sparseGet none o.finals b).isSome) then s
    else
      let fs := bs.filterMap fun b => sparseGet none o.finals b
      let vs := fs.flatMap (·.1)
      let nf := fs.any (·.2)
      let p0 := (shardSpan s c d k).1
      let note (s : State) : State := modOp s c fun o =>
        { o with stored := k :: o.stored, causes := if nf then addOnce o.causes .nonfinite else o.causes }
      if isGather d || o.arrival then
        let f := (dOut d 0).getD .l16s
        let reals := vs.map fun v => fmtVal f v.toNat
        let s := if coNorm d then addSquares s c o (reals.map f32Of) nf else s
        if o.arrival && homeMember s c d k = o.member then note s
        else
          let put (s : State) : State := note (queueResult s o.k (storeAddr s c d k) (bytesOfCodes f (vs.map BitVec.toNat)))
          if !f.scaled then put s
          else match sigmaFor s o.k (coTid d) f with
            | .found x => put (foldCapture s o.k (coTid d) (captureOf (reals.map (Val.scale x))))
            | _ => engineFails s c
      else match (dOut d 0).bind fun f => targetOf s o.k f (coTid d) (coDomain d) (coB d) true with
        | none => engineFails s c
        | some t =>
          if t.poison then engineFails s c
          else
            let els := ((List.range vs.length).zip vs).map fun p => (logIndex o (p0 + p.1), some (f32Val p.2))
            let w := convertAll (drawKeyOf s o.k (coDomain d) (coTid d)) t false els
            let s := queueResult s o.k (storeAddr s c d k) (bytesOfCodes t.fmt w.codes)
            let s := foldTarget s o.k t w
            note (if coNorm d then addSquares s c o vs nf else s)

/-! ## Digests (R285, R286) -/

/-- A digest mismatch: counted, logged, and the collective's step is suspect (R285, R286, R302). -/
def digestWrong (s : State) (c : ChanId) (p : PortId) (slot : Slot) (t : TicketId) (step : BitVec 32) : State :=
  let s := modChan s c fun r => { r with digestMismatches := countUp r.digestMismatches }
  markStep (logStep s 0x07 (unitByte 4 0) slot t.val step p.val 0) slot step none none

/-- Contribution digest over a shard's own blocks: ARG holds CHANNEL, CSEQ and BLOCK alone (log entry 48). -/
def contribDigest (s : State) (c : ChanId) (o : Coll) (k : Nat) : BitVec 256 :=
  (blocksOf s c o.k.desc k).foldl (fun x b =>
    xorBytes x (chanArg c o.cseq (8 * b)) (blockPayload .b32 ((ownBlock s c o b).getD []))) 0

/-- Compares the contribution digests that have come, once the own contribution is ready (R285). -/
def compareContrib (s : State) (c : ChanId) (p : PortId) : State :=
  match (s.chans[c]).op with
  | none => s
  | some o =>
    if o.contrib.isNone then s
    else o.contribDigs.foldl (fun s x =>
      if o.contribCompared.contains x.1 then s
      else
        let s := modOp s c fun o => { o with contribCompared := x.1 :: o.contribCompared }
        if contribDigest s c o x.1 = x.2 then s else digestWrong s c p o.slot o.k.ticket o.k.dataStep) s

/-- A backup that was taken sends member k the contribution digest of each shard it has played (R285). -/
def backupDigests (s : State) (c : ChanId) : State :=
  match (s.chans[c]).op with
  | none => s
  | some o =>
    if !o.backup || !coDigest o.k.desc || o.selfNotices.isEmpty then s
    else (shardsOf s c o.k.desc).foldl (fun s k =>
      match (s.chans[c]).op with
      | none => s
      | some o =>
        let succ := memberModule s c ((o.member + 1) % memberCount s c)
        if o.contribCompared.contains k || !(blocksOf s c o.k.desc k).all o.sent.contains
            || (placeIn s c o.k.desc k o.member == 0 && !o.selfNotices.contains succ) then s
        else
          cast (modOp s c fun o => { o with contribCompared := k :: o.contribCompared, left := true }) 0x14 6
            (memberModule s c o.member) (chanArg c o.cseq (k * 256 + 1)) (fitBytes 256 (wordBytes 32 (contribDigest s c o k)))) s

/-! ## Arrival order (R131, R213, R279) -/

/-- Bursts of 128 positions of shard k. -/
def burstsOf (s : State) (c : ChanId) (d : Desc) (k : Nat) : Nat :=
  let p := shardSpan s c d k
  (p.2 - p.1 + 127) / 128

/-- Positions of burst j of shard k: the first and their number. -/
def burstSpan (s : State) (c : ChanId) (d : Desc) (k j : Nat) : Nat × Nat :=
  let p := shardSpan s c d k
  (p.1 + 128 * j, min 128 (p.2 - p.1 - 128 * j))

/-- The new bytes of a burst add (R213): each element's exact sum is rounded into its format, by SR under its draw for 128 L16s
elements, by RNE for 64 binary32 elements. The collectives of R279 form the first kind alone. -/
def burstAdd (f : Fmt) (key : DrawKey) (at_ : Nat → Nat) (old new : List Byte) : List Byte :=
  let x := codesOf f old
  bytesOfCodes f (((List.range x.length).zip (x.zip (codesOf f new))).map fun p =>
    fmtCode f (drawFor f key (at_ p.1)) ((fmtVal f p.2.1).add (fmtVal f p.2.2)))

/-- One burst add at its home: each element's exact sum is rounded into L16s by SR, keyed by the contributor's member index
(R131, R279), in a masked write (R213, R217). The second part tells whether the burst was poisoned or lost. -/
def addBurst (s : State) (c : ChanId) (o : Coll) (from_ j : Nat) (data : List Byte) : State × Bool :=
  let d := o.k.desc
  let sp := burstSpan s c d (if collFn d = 1 then o.member else 0) j
  let a := globalLocal (coDst d) + 256 * j
  let new := burstAdd .l16s { key := drawKeyOf s o.k 1 (coTid d), b := from_ } (fun i => logIndex o (sp.1 + i))
    (memBytes s a (2 * sp.2)) data
  writeMasked s (a / 256) new ((List.range 256).map fun i => decide (i < 2 * sp.2))

/-- Notes an add as performed, or its burst as lost. -/
def noteAdd (s : State) (c : ChanId) (j : Nat) (bad own : Bool) : State :=
  modOp s c fun o =>
    { o with adds := sparseSet 0 o.adds j (sparseGet 0 o.adds j + 1), ownAdds := if own then j :: o.ownAdds else o.ownAdds,
             causes := if bad then addOnce o.causes .eccUncorr else o.causes }

/-- Sends burst j of shard k to its home. One that the own router drops is dropped in silence (R266). -/
def sendAdd (s : State) (c : ChanId) (o : Coll) (k j : Nat) : State :=
  let d := o.k.desc
  let sp := burstSpan s c d k j
  let l := bytesOfCodes .l16s ((((o.contrib.getD []).drop sp.1).take sp.2).map BitVec.toNat)
  let dest := memberModule s c (homeMember s c d k)
  let f := ownFlit s 0x06 5 dest (c.val * 2 ^ 45 + globalLocal (coDst d) + 256 * j) (fitBytes 256 l)
  let arg := match freeTag s with | some t => (withTag f t).arg.toNat | none => 0
  let late := (freeTag s).isNone
  let s := modOp s c fun o =>
    { o with left := true, addsSent := (k * 2 ^ 23 + j) :: o.addsSent, addsDue := o.addsDue + 1,
             digOut := if coDigest d && !late then foldDigest o.digOut (digKey k dest) arg f.payload else o.digOut }
  (sendRequest s (.burstAdd c o.k.inst) f).1

/-- Sends the adds whose homes are ready. -/
def pumpAdds (s : State) (c : ChanId) : State :=
  match (s.chans[c]).op with
  | none => s
  | some o =>
    if o.contrib.isNone || o.addsStopped then s
    else (shardsOf s c o.k.desc).foldl (fun s k =>
      let h := homeMember s c o.k.desc k
      if h = o.member || !o.readies.contains { src := memberModule s c h, shard := k, backup := false } then s
      else (List.range (burstsOf s c o.k.desc k)).foldl (fun s j =>
        match (s.chans[c]).op with
        | none => s
        | some o => if o.addsSent.contains (k * 2 ^ 23 + j) then s else sendAdd s c o k j) s) s

/-- The home's shard once D adds of every burst are in: its stored values, read back past the home's tap, are the finals (R279,
R298). -/
def gatherHome (s : State) (c : ChanId) : State :=
  match (s.chans[c]).op with
  | none => s
  | some o =>
    let d := o.k.desc
    let mine := (shardsOf s c d).filter fun k => homeMember s c d k == o.member
    mine.foldl (fun s k =>
      if o.stored.contains k || !(List.range (burstsOf s c d k)).all fun j => sparseGet 0 o.adds j == memberCount s c then s
      else
        let p := shardSpan s c d k
        let s := (readSpan s (globalLocal (coDst d)) (2 * (p.2 - p.1))).1
        (blocksOf s c d k).foldl (fun s b =>
          let v := (codesOf .l16s (memBytes s (globalLocal (coDst d) + 2 * (64 * b - p.1)) (2 * blockLen d b))).map (BitVec.ofNat 32)
          let nf := v.any fun x => (fmtVal .l16s x.toNat).special
          modOp s c fun o => { o with finals := sparseSet none o.finals b (some (v, nf)) }) s) s

/-! ## The norm record (R281, R282, R327, R351) -/

/-- The capture slot of the step's parity of scale entry T, and whether the chain carries it; a poisoned entry's is not used
(R100, R281, R436). -/
def captureAt (k : Tk) (t : Nat) : Nat := scaleAddr k t + if bitOf k.dataStep 0 then 7 else 6
def captureOfEntry (s : State) (k : Tk) (t : Nat) : Byte := if spanBad s (scaleAddr k t) 32 then 0x80 else memByte s (captureAt k t)
def carried (s : State) (k : Tk) (t : Nat) : Bool := !spanBad s (scaleAddr k t) 32 && (memByte s (scaleAddr k t + 1)).getLsbD 7

/-- Sum of partials in ascending key order, each addition rounded, and the OR of the flags (R281). -/
def sumParts (l : Sparse (BitVec 32 × Bool)) : BitVec 32 × Bool :=
  l.foldl (fun (a : BitVec 32 × Bool) p => (f32Add a.1 p.2.1, a.2 || p.2.2)) (0, false)

/-- The reads of the slot's scale table for a ride record pass their homes (R298). -/
def readTable (s : State) (k : Tk) : State := (readSpan s k.scaleBase.toNat (32 * k.scaleCount.toNat)).1

def ctxRide (q : BitVec 32) (cap : Byte) (flag : Bool) : List Byte := wordBytes 4 q ++ [cap] ++ leBytes 3 (bnat flag)

/-- The member's own ride record. -/
def ownRide (s : State) (k : Tk) : List Byte :=
  let j := dSlot k.desc
  let r := s.slots[j]
  let q := sumParts r.parts
  let vs := residentOf s j
  let ctx := vs.flatMap fun v =>
    let x := sumParts (r.variantParts.filter fun p => decide (64 * v ≤ p.1 ∧ p.1 < 64 * v + 64))
    let base := bitsOf (variantEntry s v) 55 32
    let cap := ((List.range 8).map fun i => captureOfEntry s k (base + i)).foldl captureMax 0x80
    ctxRide x.1 cap x.2
  let n := k.scaleCount.toNat
  let caps := (List.range n).map fun t => if carried s k t then captureOfEntry s k t else 0x80
  let l := wordBytes 4 q.1 ++ leBytes 1 (bnat q.2) ++ leBytes 1 0 ++ leBytes 2 (paceOffer s j) ++ leBytes 2 vs.length ++ leBytes 2 0
    ++ leBytes 4 n ++ ctx ++ caps
  fitBytes ((l.length + 255) / 256 * 256) l

/-- The running record and the next member's, combined: Q added, flags ORed, captures maxima, PACE the minimum. -/
def combineRide (run own : List Byte) : List Byte :=
  let v := fieldNat own 8 2
  let n := fieldNat own 12 4
  let f32 (l : List Byte) (off : Nat) : BitVec 32 := BitVec.ofNat 32 (fieldNat l off 4)
  let byte (l : List Byte) (off : Nat) : Byte := BitVec.ofNat 8 (fieldNat l off 1)
  let head := wordBytes 4 (f32Add (f32 run 0) (f32 own 0)) ++ [byte run 4 ||| byte own 4, 0]
    ++ leBytes 2 (min (fieldNat run 6 2) (fieldNat own 6 2)) ++ sliceBytes own 8 8
  let ctx := (List.range v).flatMap fun i =>
    let a := 16 + 8 * i
    wordBytes 4 (f32Add (f32 run a) (f32 own a)) ++ [captureMax (byte run (a + 4)) (byte own (a + 4)), byte run (a + 5) ||| byte own (a + 5)]
      ++ leBytes 2 0
  let caps := (List.range n).map fun t => captureMax (byte run (16 + 8 * v + t)) (byte own (16 + 8 * v + t))
  fitBytes own.length (head ++ ctx ++ caps)

/-- The final record goes to the four dies' stacks (R282). -/
def storeRide (s : State) (c : ChanId) (o : Coll) (rec : List Byte) : State :=
  let a := globalLocal (coDst o.k.desc)
  let s := (List.range 4).foldl (fun s d => queueResult s o.k (a + 2 * d * stackSpan) rec) s
  modOp s c fun o => { o with rideIn := some rec }

/-- Once the record stands on the four stacks, its captures go back into the scale table, and the pace and the job exponent are taken
from it (R96, R282, R327, R351). -/
def adoptRide (s : State) (c : ChanId) (o : Coll) (rec : List Byte) : State :=
  let k := o.k
  let v := fieldNat rec 8 2
  let cap (t : Nat) : Byte := BitVec.ofNat 8 (fieldNat rec (16 + 8 * v + t) 1)
  let was := s.slots[o.slot]
  let s := readTable s k
  let s := (List.range k.scaleCount.toNat).foldl (fun s t =>
    if carried s k t then (writeSpan s (captureAt k t) [cap t]).1 else s) s
  let s := modSlot s o.slot fun r =>
    let t := r.mirrorTid.toNat
    { r with
      jobPace := BitVec.ofNat 16 (fieldNat rec 6 2), paceEpoch := k.dataStep,
      jobExponent :=
        if r.inForce.mirrorFixed || k.scaleCount.toNat ≤ t then r.jobExponent
        else some (if cap t = 0x80 then BitVec.ofNat 8 (kMax r) else 7 - cap t) }
  modOp s c fun o => { o with rideDone := true, before := some (was.jobPace, was.paceEpoch, was.jobExponent) }

/-- The blocks of a ride record that have come from a module, all of them. -/
def rideFrom (o : Coll) (src : Nat) : Option (List Byte) :=
  let n := o.ride.length / 256
  let l := (List.range n).map fun b => (o.blocks.find? fun x => x.src == src && x.block == b).map (·.payload)
  if l.all Option.isSome then some (l.filterMap id).flatten else none

/-- The blocks of a record that has come in whole enter its hop's digest, once. -/
def rideDigest (s : State) (c : ChanId) (src : Nat) : State :=
  match (s.chans[c]).op with
  | none => s
  | some o =>
    if o.digSent.contains (digKey 0 src) then s
    else (o.blocks.filter fun x => x.src == src).foldl (fun s x => digestIn s c x.src x.arg.toNat x.payload 0 false) s

/-- Sends a record as RIDE flits. -/
def sendRide (s : State) (c : ChanId) (dest : Nat) (rec : List Byte) : State :=
  let bs := pieces 256 rec
  ((List.range bs.length).zip bs).foldl (fun s p =>
    match (s.chans[c]).op with
    | none => s
    | some o => sendBlock s c o 0x13 0 dest (chanArg c o.cseq (8 * p.1 + bnat (p.1 + 1 == bs.length))) p.2) s

/-- The norm collective's part: the running record goes on, the last member sends the final one, each stores it. -/
def pumpRide (s : State) (c : ChanId) : State :=
  match (s.chans[c]).op with
  | none => s
  | some o =>
    if !o.opened then s
    else
      let n := memberCount s c
      let last := o.member + 1 = n
      let ready (o : Coll) (i : Nat) : Bool := o.readies.contains { src := memberModule s c i, shard := 0, backup := false }
      let run : Option (List Byte) :=
        if o.member = 0 then some o.ride else (rideFrom o (memberModule s c (o.member - 1))).map fun r => combineRide r o.ride
      let s := match run with
        | none => s
        | some r =>
          let s := if o.member = 0 then s else rideDigest s c (memberModule s c (o.member - 1))
          if last then
            let s := if o.rideIn.isSome then s else storeRide s c o r
            (others s c o.member).foldl (fun s i =>
              match (s.chans[c]).op with
              | none => s
              | some o =>
                if o.fanned.contains (i, 0) || !ready o i then s
                else modOp (sendRide s c (memberModule s c i) r) c fun o => { o with fanned := (i, 0) :: o.fanned }) s
          else if o.sent.contains 0 || !ready o (o.member + 1) then s
          else modOp (sendRide s c (memberModule s c (o.member + 1)) r) c fun o => { o with sent := 0 :: o.sent }
      match (s.chans[c]).op with
      | none => s
      | some o =>
        if last || o.rideIn.isSome then s
        else match rideFrom o (memberModule s c (n - 1)) with
          | none => s
          | some r => storeRide (rideDigest s c (memberModule s c (n - 1))) c o r

/-- The captures of the final record, when its copies are stored. -/
def pumpCaptures (s : State) (c : ChanId) : State :=
  match (s.chans[c]).op with
  | none => s
  | some o =>
    match o.rideIn with
    | some r => if o.rideDone || s.homeQueue.any (fun q => q.owner == o.k.inst) then s else adoptRide s c o r
    | none => s

/-! ## Progress -/

/-- Every outgoing hop is compared and every incoming one answered, but for the first hop of a chain whose successor took the other
of this member and its backup. -/
def digestsDone (s : State) (c : ChanId) (o : Coll) : Bool :=
  if !coDigest o.k.desc then true
  else
    let succ := memberModule s c ((o.member + 1) % memberCount s c)
    let lapsed (key : Nat) : Bool :=
      placeIn s c o.k.desc (key / 8192) o.member == 0 && o.selfNotices.contains succ != o.backup && collFn o.k.desc == 1
    o.digOut.all (fun p => o.digCompared.contains p.1 || lapsed p.1) && o.digIn.all (fun p => o.digSent.contains p.1)
      && (o.backup || decide (o.selfNotices.length ≤ o.contribCompared.length))

/-- A member's part is played (R287). Blocks of shards in which its backup was taken are not waited for: each NOTICE that names
this place stands for one of them, but those of the shard it begins. -/
def partDone (s : State) (c : ChanId) (o : Coll) : Bool :=
  let d := o.k.desc
  let n := memberCount s c
  if isNormColl d then o.rideDone && (if o.member + 1 = n then (others s c o.member).all fun i => o.fanned.contains (i, 0) else o.sent.contains 0)
  else
    let stored := (storesShards s c o).all o.stored.contains
    let full (k : Nat) : Bool := (blocksOf s c d k).all o.sent.contains
    let fan := (others s c o.member).all fun i => (blocksOf s c d 0).all fun b => o.fanned.contains (i, b)
    if o.arrival then
      stored && o.addsDue == 0
        && (o.addsStopped || (shardsOf s c d).all fun k => homeMember s c d k == o.member
              || (List.range (burstsOf s c d k)).all fun j => o.addsSent.contains (k * 2 ^ 23 + j))
        && (collFn d == 1 || o.member + 1 != n || fan)
    else if collFn d = 1 then
      let open_ := (shardsOf s c d).filter fun k => !full k && !(k == o.member && o.stored.contains k)
      let pred := memberModule s c ((o.member + n - 1) % n)
      let marks := (o.selfNotices.filter (· == pred)).length - bnat o.substituted
      stored && decide (open_.length ≤ marks) && open_.all fun k => placeIn s c d k o.member != 0
    else stored && (shardsOf s c d).all full && (isGather d || o.member + 1 != n || fan)

/-- Ends the collective once its part is played. A backup ends by its own command. -/
def endIfPlayed (s : State) (c : ChanId) : State :=
  match (s.chans[c]).op with
  | none => s
  | some o =>
    if o.backup || o.played || !o.opened || !partDone s c o || !digestsDone s c o then s else finishColl s c []

/-- The collective engine plays every part for which the inputs are here; a faulted one plays none (R294). -/
def pump (s : State) (c : ChanId) : State :=
  if unitIsolated s .collective then s
  else match (s.chans[c]).op with
  | none => s
  | some o =>
    let d := o.k.desc
    let s :=
      if !o.opened || o.played then s
      else if isNormColl d then pumpCaptures (pumpRide s c) c
      else
        let shards := shardsOf s c d
        let s := if o.arrival then gatherHome (pumpAdds s c) c
          else shards.foldl (fun s k => (blocksOf s c d k).foldl (fun s b => pumpBlock s c k b) (decideShard s c k)) s
        let s := shards.foldl (fun s k => (blocksOf s c d k).foldl (fun s b => takeResult s c b) s) s
        let s := if collFn d = 0 && o.member + 1 = memberCount s c then
            (blocksOf s c d 0).foldl (fun s b => fanBlock s c (if o.arrival then .l16s else .b32) b) s
          else s
        backupDigests ((storesShards s c o).foldl (fun s k => storeShard s c k) s) c
    endIfPlayed s c

end Sys2Proof.Machine
end

