-- ==== Sys2Proof/WellFormed.lean ====
section
/-! DEFINITION. Well-formed commands: byte strings of the lengths their transfers can carry (R262, R263, R366, R371,
R393). -/

namespace Sys2Proof

/-- Whether a flit type carries a burst (R263). -/
def flitHasPayload (typ : BitVec 8) : Bool :=
  typ ∈ [(0x01 : BitVec 8), 0x03, 0x06, 0x10, 0x11, 0x13, 0x14]

/-- A flit carries 256 bytes, or none where its type lists none; the payload of a type that R263 does not list is not
looked at. -/
def flitSized (f : Flit) : Bool :=
  if flitHasPayload f.typ then f.payload.length == 256
  else if f.typ ∈ [(0x00 : BitVec 8), 0x02, 0x04, 0x05, 0x12, 0x15] then f.payload.length == 0
  else true

/-- A WRITE carries 1 to 256 whole bursts (R393). -/
def burstsSized (data : List Byte) : Bool :=
  data.length % 256 == 0 && 0 < data.length && data.length ≤ 65536

/-- A segment carries up to 2,048 bytes (R371). -/
def segmentSized (data : List Byte) : Bool := data.length ≤ 2048

/-- A well-formed command. -/
def Instr.wellFormed : Instr → Bool
  | .writeMore _ _ _ _ data => segmentSized data
  | .writeLast _ _ _ _ data => segmentSized data
  | .objectWrite _ _ _ data => segmentSized data
  | .fieldRelay _ data => segmentSized data
  | .response _ _ _ data => segmentSized data
  | .mainbandWrite _ _ data => burstsSized data
  | .mainbandWriteMasked _ _ data mask => burstsSized data && mask.length == data.length
  | .writeFlit _ f | .readFlit _ f | .dataFlit _ f | .ackFlit _ f | .flagsetFlit _ f | .burstAddFlit _ f | .chainFlit _ f _
  | .resultFlit _ f _ | .readyFlit _ f | .rideFlit _ f _ | .digestFlit _ f | .noticeAbsent _ f | .noticeDigestBad _ f
  | .noticeAbort _ f | .linkFlit _ f | .flitForward _ _ f | .flitOfOtherType _ f => flitSized f
  | _ => true

end Sys2Proof
end

