-- ==== Sys2Proof/Machine/Collective.lean ====
section
/-! DEFINITION. Collectives: COLLECTIVE_ISSUE, CHAIN_REDUCE, REDUCE_SCATTER, ALL_GATHER, BROADCAST, BACKUP, NORM_COLLECTIVE,
DRAIN_COLLECTIVE, BURST_ADD, LATENESS_TIMER, COLLECTIVE_TIMEOUT, and the flits of a channel (R130, R131, R270 to R288, R303 to R306). -/

namespace Sys2Proof.Machine

open Host

/-! ## Issue (R270, R271, R272) -/

/-- The channel's slot and role fit the descriptor, and its own entry names this module (R270). -/
def channelFits (s : State) (k : Tk) : Bool :=
  let c := coChannel k.desc
  let r := s.chans[c]
  let backup := dFunc k.desc == 4
  r.slot.toNat == (dSlot k.desc).val && r.role == (if backup then .backup else .member)
    && (if backup then decide (r.backed.toNat < r.members.toNat)
        else decide (r.own.toNat < r.members.toNat) && memberModule s c r.own.toNat == ownModule s)

/-- Whether a collective begins under Arrival order; the norm collective is a chain under either (R279, R281). -/
def arrivalOf (s : State) (k : Tk) : Bool :=
  let d := k.desc
  (profileOn s (dSlot d) .collective).1.arrival && !isGather d && !isNormColl d

/-- A local range that a collective reads or writes; an empty one still names its address (R210). -/
def localJob (s : State) (g n : Nat) : Bool := isLocal s g && namedRange (globalLocal g) n

/-- Bytes of this member's contribution in memory (R275, R278). -/
def sourceBytes (s : State) (c : ChanId) (d : Desc) (i : Nat) : Nat :=
  if dFunc d = 2 then (let p := shardSpan s c d i; (p.2 - p.1) * ((dIn d 0).getD .l16s).bytes)
  else if dFunc d = 3 then (if i = 0 then coCount d * ((dIn d 0).getD .l16s).bytes else 0)
  else 2 * coCount d

/-- Bytes of the results this member stores. -/
def resultBytes (s : State) (c : ChanId) (d : Desc) (i : Nat) : Nat :=
  let f := ((dOut d 0).getD .l16s).bytes
  if collFn d = 1 then (let p := shardSpan s c d i; (p.2 - p.1) * f) else coCount d * f

/-- The scale entry of a target, where it has one, is one that R100 admits. -/
def scaleAdmitted (s : State) (k : Tk) : Bool :=
  match dOut k.desc 0 with
  | some f => sigmaFor s k (coTid k.desc) f != .invalid
  | none => false

/-- Encodings and ranges of a collective (R275, R276, R278, R279, R281, R283). -/
def collOk (s : State) (k : Tk) : Bool :=
  let d := k.desc
  let c := coChannel d
  let r := s.chans[c]
  let i := if dFunc d = 4 then r.backed.toNat else r.own.toNat
  let arr := arrivalOf s k
  if isNormColl d then
    let n := 16 + 8 * (residentOf s (dSlot d)).length + k.scaleCount.toNat
    dFunc d == 0 && !coSrcDrain d && (!isLocal s (coSrc d) || namedRange (globalLocal (coSrc d)) 0)
      && k.scaleCount.toNat ≤ 65536 && isLocal s (coDst d)
      && decide (globalLocal (coDst d) + (n + 255) / 256 * 256 ≤ stackTop)
  else
    decide (1 ≤ coCount d ∧ coCount d ≤ 2 ^ 29) && (coSrcDrain d || localJob s (coSrc d) (sourceBytes s c d i))
      && (if isGather d then
            !coSrcDrain d && !coNorm d && dIn d 0 == dOut d 0
              && (dIn d 0 == some .l8f || dIn d 0 == some .l8g || dIn d 0 == some .l16s)
              && localJob s (coDst d) (resultBytes s c d i) && scaleAdmitted s k
          else
            (coSrcDrain d || (dIn d 0 == some .l16s && decide (coCount d ≤ 2 ^ 40)))
              && (if dFunc d = 4 then !arr && coDst d == 0
                  else
                    (dOut d 0 == some .l16s || (!arr && (dOut d 0 == some .l8g || dOut d 0 == some .l8f)))
                      && (!arr || coDst d % 256 == 0) && localJob s (coDst d) (resultBytes s c d i) && scaleAdmitted s k))

/-- A target whose scale entry is poisoned (R436). -/
def scalePoisoned (s : State) (k : Tk) : Bool :=
  match dOut k.desc 0 with
  | some f => !isNormColl k.desc && dFunc k.desc != 4 && sigmaFor s k (coTid k.desc) f == .poisoned
  | none => false

/-- The collective as it begins. -/
def freshColl (s : State) (k : Tk) : Coll :=
  let r := s.chans[coChannel k.desc]
  let backup := dFunc k.desc == 4
  { k := k, slot := dSlot k.desc, cseq := coCseq k.desc, arrival := arrivalOf s k,
    member := if backup then r.backed.toNat else r.own.toNat, backup := backup, opened := false, left := false, contrib := none,
    origin := 0, rowLen := 0, cols := 0, readies := [], blocks := [], sent := [], fanned := [], finals := [], stored := [],
    substituted := false, adds := [], addsSent := [], addsDue := 0, ownAdds := [], causes := [], digOut := [], digIn := [],
    digSent := [], digCompared := [], contribDigs := [], contribCompared := [], absent := [], selfNotices := [], expired := [],
    taken := [], timedOut := false, addsStopped := false, ride := [], rideIn := none, rideDone := false, played := false }

/-- Where this module's READYs go: module and shard (R272, R283; log entry 48). -/
def readyTargets (s : State) (c : ChanId) (o : Coll) : List (Nat × Nat) :=
  let d := o.k.desc
  let n := memberCount s c
  let i := o.member
  let mod := memberModule s c
  let lapse := coLate d != 0
  let bak (j : Nat) : List Nat := if lapse then (memberBackup s c j).toList else []
  if o.backup then
    (shardsOf s c d).filterMap fun k =>
      match prevIn s c d k i with
      | some p => some (mod p, k)
      | none => (nextIn s c d k i).map fun q => (mod q, k)
  else if o.arrival then
    if collFn d = 1 then (if (shardsOf s c d).contains i then (others s c i).map fun j => (mod j, i) else [])
    else if i + 1 = n then (others s c i).map fun j => (mod j, 0) else [(mod (n - 1), 0)]
  else if collFn d = 0 then
    (if i = 0 then [] else [(mod (i - 1), 0)]) ++ if i + 1 = n then [] else [(mod (n - 1), 0)]
  else if collFn d = 1 then
    (shardsOf s c d).flatMap fun k =>
      (match prevIn s c d k i with
       | some p => (mod p :: bak p).map fun m => (m, k)
       | none => []) ++ if k = i then (bak i).map fun m => (m, k) else []
  else
    (shardsOf s c d).filterMap fun k => (prevIn s c d k i).map fun p => (mod p, k)

/-- The READYs of a collective go out. -/
def sendReadies (s : State) (c : ChanId) : State :=
  match (s.chans[c]).op with
  | none => s
  | some o =>
    let l := readyTargets s c o
    let s := modOp s c fun o => { o with opened := true, left := o.left || !l.isEmpty }
    l.foldl (fun s p =>
      cast s 0x12 6 p.1 (chanArg c o.cseq (collFn o.k.desc * 2 ^ 22 + bnat o.backup * 2 ^ 21 + p.2 * 256 + bnat (coDigest o.k.desc) * 128)) []) s

/-- Bytes of the result that an Arrival collective has at this home, of L16s elements (R279). -/
def homeSpans (s : State) (c : ChanId) (o : Coll) : List Nat :=
  let d := o.k.desc
  if o.arrival then
    ((shardsOf s c d).filter fun k => homeMember s c d k == o.member).map fun k => let p := shardSpan s c d k; 2 * (p.2 - p.1)
  else []

/-- The home of an Arrival collective fills its result with +0 before its READY (R279). -/
def zeroHome (s : State) (c : ChanId) (o : Coll) : State :=
  (homeSpans s c o).foldl (fun s n => (writeSpan s (globalLocal (coDst o.k.desc)) (List.replicate n 0)).1) s

/-- A copy still holds the buffer that the home would fill (R329). -/
def homeHeld (s : State) (c : ChanId) (o : Coll) : Bool :=
  (homeSpans s c o).any fun n => (spanBursts (globalLocal (coDst o.k.desc)) n).any (heldBurst s)

/-- A collective takes its place among the members: its home is filled, once no copy holds it, and its READYs go out. -/
def openPart (s : State) (c : ChanId) : State :=
  match (s.chans[c]).op with
  | none => s
  | some o =>
    if o.opened || o.played || isNormColl o.k.desc || homeHeld s c o then s else sendReadies (zeroHome s c o) c

/-! ## The gate of a step (R303 to R306, R308) -/

/-- A suspect step is aborted at its gate: NOTICE ABORT instead of READY, log and record, and the die swap (R304, R305). -/
def stepAbort (s : State) (c : ChanId) (o : Coll) (pair : Option (Fin 2)) : State :=
  let s := failEntry (logTk s 0x10 (unitByte 4 0) o.k 0 0) 0x0C (unitByte 4 0) 0 0 o.slot
  let g := s.integrity
  let s := { s with integrity :=
    { g with aborted := countUp g.aborted,
             swapDue := match pair with | some p => g.swapDue.set p (some true) | none => g.swapDue,
             swapSlot := match pair with | some p => g.swapSlot.set p o.slot | none => g.swapSlot } }
  abortAll s c

/-- The norm collective's READY is the member's gate: a suspect step aborts under Lean and Standard, the step before it under
Strict, where unfinished replays hold the gate and a cause that no replay covers aborts its own step (R307; log entry 84). Past it the ride record is formed and every partial starts anew (R281). -/
def passGate (s : State) (c : ChanId) : State :=
  match (s.chans[c]).op with
  | none => s
  | some o =>
    let r := s.slots[o.slot]
    let strict := r.inForce.integrity == .strict
    if o.opened then s
    else if strict && r.noReplay then stepAbort s c o r.suspectPair
    else if strict && !r.replayPrev.isEmpty then s
    else if strict && (r.suspectPrev || r.resolutionFailed) then stepAbort s c o r.pairPrev
    else if !strict && r.suspect then stepAbort s c o r.suspectPair
    else
      let s := modOp (readTable s o.k) c fun o => { o with ride := ownRide s o.k }
      sendReadies (modSlot s o.slot fun r => { r with gated := true, parts := [], variantParts := [] }) c

/-- At the issue of a norm collective the member's interval proposal enters the capture of MIRROR_TID (R327). -/
def proposeInterval (s : State) (k : Tk) : State :=
  let j := dSlot k.desc
  let r := s.slots[j]
  let t := r.mirrorTid.toNat
  if r.inForce.mirrorFixed || k.scaleCount.toNat ≤ t then s
  else (writeSpan s (captureAt k t) [captureMax (memByte s (captureAt k t)) (BitVec.ofNat 8 (7 - proposal s j))]).1

/-! ## Flits of a channel (R263, R272) -/

/-- Whether a flit's CHANNEL and CSEQ name the collective in flight. -/
def currentFlit (s : State) (c : ChanId) (f : Flit) : Bool := (s.chans[c]).op.any fun o => o.cseq.toNat == bitsOf f.arg 57 26

/-- Whether they name one that this module has still to reach. -/
def futureFlit (s : State) (c : ChanId) (f : Flit) : Bool :=
  (BitVec.ofNat 32 (bitsOf f.arg 57 26) - (s.chans[c]).nextCseq).toNat < 2 ^ 31

def argChannel (f : Flit) : ChanId := Fin.ofNat 64 (bitsOf f.arg 63 58)

/-- READY: it lets data flow to its sender, or its mismatch aborts the collective (R272). -/
def takeReady (s : State) (c : ChanId) (f : Flit) : State :=
  match (s.chans[c]).op with
  | none => s
  | some o =>
    if bitsOf f.arg 25 22 != collFn o.k.desc || bitOf f.arg 7 != coDigest o.k.desc then abortAll s c
    else modOp s c fun o =>
      { o with readies := addOnce o.readies { src := f.src.toNat, shard := bitsOf f.arg 20 8, backup := bitOf f.arg 21 } }

/-- A hop digest is compared by the sender of the hop; a contribution digest by the member it is sent to (R285, R286). -/
def takeDigest (s : State) (c : ChanId) (p : PortId) (f : Flit) : State :=
  match (s.chans[c]).op with
  | none => s
  | some o =>
    let x : BitVec 256 := bytesWord 256 (f.payload.take 32)
    let k := bitsOf f.arg 20 8
    if bitOf f.arg 0 then
      compareContrib (modOp s c fun o => { o with contribDigs := addOnce o.contribDigs (k, x) }) c p
    else
      let key := digKey k f.src.toNat
      if o.digCompared.contains key || !coDigest o.k.desc then s
      else
        let s := modOp s c fun o => { o with digCompared := key :: o.digCompared }
        if (sparseGet (0, 0) o.digOut key).1 = x then s
        else
          digestWrong (sendNotice (collCause s c .digest) c o.cseq f.src.toNat o.member 2) c p o.slot o.k.ticket o.k.dataStep

/-- NOTICE: ABSENT marks a member, DIGEST_BAD reports a bad hop, ABORT ends the collective (R272, R285, R286). -/
def takeNotice (s : State) (c : ChanId) (p : PortId) (f : Flit) : State :=
  match (s.chans[c]).op with
  | none => s
  | some o =>
    let k := bitsOf f.arg 20 8
    match bitsOf f.arg 7 0 with
    | 1 =>
      if o.backup && k != o.member then s
      else
        let s := markAbsent s c k
        if k = o.member then modOp s c fun o => { o with selfNotices := o.selfNotices ++ [f.src.toNat] } else s
    | 2 => digestWrong (collCause s c .digest) c p o.slot o.k.ticket o.k.dataStep
    | 3 => abortHere s c
    | _ => s

/-- A flit of types 12h, 14h or 15h for the collective in flight. -/
def takeControl (s : State) (c : ChanId) (p : PortId) (f : Flit) : State :=
  match f.typ.toNat with
  | 0x12 => takeReady s c f
  | 0x14 => takeDigest s c p f
  | _ => takeNotice s c p f

/-- Flits that waited for their collective to issue are taken (R272). -/
def takeHeld (s : State) (c : ChanId) (p : PortId) (which : Flit → Bool) : State :=
  let l := (s.chans[c]).held.filter fun f => f.typ != 6 && currentFlit s c f && which f
  let s := modChan s c fun r => { r with held := r.held.filter fun f => !l.contains f }
  l.foldl (fun s f => takeControl s c p f) s

/-- A collective that has begun goes on its channel: what has come for it is taken, its home is filled, its READYs go out. -/
def openColl (s : State) (k : Tk) : State :=
  let c := coChannel k.desc
  let s := modChan s c fun r => { r with op := some (freshColl s k) }
  let s := if isNormColl k.desc then proposeInterval s k else s
  let s := takeHeld s c 0 fun f => f.typ == 0x15 && bitsOf f.arg 7 0 == 3
  if scalePoisoned s k then engineFails s c
  else
    let s := if isNormColl k.desc then passGate s c else openPart s c
    pump (takeHeld s c 0 fun _ => true) c

/-! ## Contributions (R130, R275) -/

/-- Bytes of a range as a collective reads them, and which bytes came poisoned; free bytes stand in a poisoned burst's place. A
COLLECTIVE has no status for a poisoned contribution: it makes the step suspect, and is logged (R164, R216, R302, R314; log entries 12
and 48). -/
def readSource (s : State) (k : Tk) (a n : Nat) : State × List (Byte × Bool) :=
  let s := match (spanBursts a n).find? (burstBad s) with
    | some b => markTk (logTk s 0x06 (unitByte 4 0) k 0 (256 * b)) k none
    | none => s
  (spanBursts a n).foldl (fun (r : State × List (Byte × Bool)) b =>
    let lo := max a (256 * b)
    let m := min (a + n) (256 * b + 256) - lo
    let x := readSpan r.1 lo m
    let y := if x.2.2 then freeBytes m x.1 else (x.1, x.2.1)
    (y.1, r.2 ++ y.2.map fun v => (v, x.2.2))) (s, [])

/-- Under Strict, the blocks of a contribution enter the signature of their CALL (R307). -/
def signContribution (s : State) (c : ChanId) (k : Tk) (cseq : BitVec 32) (count : Nat) (l : List (BitVec 32)) : State :=
  (List.range ((count + 63) / 64)).foldl (fun s b =>
    foldSignature s k (chanArg c cseq (8 * b)) (blockPayload .b32 ((l.drop (64 * b)).take 64))) s

/-- L16s values of a contribution in memory, widened exactly; a poisoned one is a NaN. -/
def widenSource (l : List (Byte × Bool)) : List Nat :=
  (pieces 2 l).map fun l => if l.any (·.2) then 0x7FC0 else leNat (l.map (·.1))

/-- A replayed COLLECTIVE begins: it sends nothing, takes no place on its channel, and folds its contribution into the signature (R307).
Where a DRAIN supplies that it waits for the replayed DRAIN. -/
def beginReplayed (s : State) (k : Tk) : State :=
  let d := k.desc
  if coSrcDrain d && !isNormColl d then s
  else
    let s :=
      if isNormColl d || isGather d || dFunc d == 4 then s
      else
        let x := readSource s k (globalLocal (coSrc d)) (2 * coCount d)
        signContribution x.1 (coChannel d) k (coCseq d) (coCount d) ((widenSource x.2).map fun v => f32Of (fmtVal .l16s v))
    modTk s k.ticket (endTk [] k.detail.toNat)

/-- COLLECTIVE_ISSUE: a COLLECTIVE or BACKUP whose waits are satisfied issues at its CSEQ (R271). A breach of R270 is found
without it. -/
def execCollectiveIssue (t : TicketId) (s : State) : Outcome State Fault Refusal :=
  match getTk s t with
  | none => .next s
  | some k =>
    if dFamily k.desc != some .collective || k.phase != .fetched || !dispatches s k then .next s
    else if dispatchWrong s k (waitFlags k) then .next (settle s (dispatchFault s k))
    else if dEpoch k.desc != (s.slots[dSlot k.desc]).epoch then .next (settle s (modTk s t (failTk .cancelled)))
    else if !waitsUsable s k then .next (settle s (refuse s t))
    else if !waitsMet k || unitIsolated s .collective then .next s
    else if !channelFits s k then .next (settle s (refuse s t))
    else
      let c := coChannel k.desc
      if !issueTurn s k then .next s
      else
        let n := s.nextIssue
        let s1 := modTk { s with nextIssue := n + 1 } t fun q => { q with phase := .issued, issueNo := n }
        let s1 := if k.isReplay then s1 else modChan s1 c fun r => { r with nextCseq := r.nextCseq + 1 }
        match beginTk s1 t (fun d => dFamily d == some .collective) (fun _ _ => true) collOk with
        | .wait => .next s
        | .ended s2 => .next (settle s s2)
        | .ok s2 k => .next (settle s (if k.isReplay then beginReplayed s2 k else openColl s2 k))

def setContrib (s : State) (c : ChanId) (l : List (BitVec 32)) : State := compareContrib (modOp s c fun o => { o with contrib := some l }) c 0

/-- The contribution from memory of the collective in flight on a channel: L16s values widened exactly, as stored under Arrival;
stored codes of an ALL_GATHER or BROADCAST. A poisoned value is a NaN. -/
def takeMemory (s : State) (c : ChanId) : State :=
  match (s.chans[c]).op with
  | none => s
  | some o =>
    let d := o.k.desc
    if o.contrib.isSome || coSrcDrain d || isNormColl d || (dFunc d == 3 && o.member != 0) then s
    else
      let x := readSource s o.k (globalLocal (coSrc d)) (sourceBytes s c d o.member)
      let s := x.1
      if isGather d then
        let f := (dIn d 0).getD .l16s
        setContrib s c ((codesOf f (x.2.map (·.1))).map (BitVec.ofNat 32))
      else
        let codes := widenSource x.2
        let wide := codes.map fun v => f32Of (fmtVal .l16s v)
        let s := signContribution s c o.k o.cseq (coCount d) wide
        setContrib s c (if o.arrival then codes.map (BitVec.ofNat 32) else wide)

/-- The collective that a ticket runs, by its channel. -/
def runningColl (s : State) (t : TicketId) (fn : Desc → Bool) : Option ChanId :=
  (List.finRange 64).find? fun c => (s.chans[c]).op.any fun o => o.k.ticket == t && !o.played && fn o.k.desc

/-- The collective engine goes on with the collective that a ticket runs; control fields or table entries that it finds wrong fault it
(R294, R296). -/
def engineGoesOn (t : TicketId) (fn : Desc → Bool) (act : State → ChanId → Coll → State) (s : State) : Outcome State Fault Refusal :=
  match runningColl s t fn with
  | none => .next s
  | some c =>
    match (s.chans[c]).op with
    | none => .next s
    | some o =>
      if s.power != .running || unitIsolated s .collective then .next s
      else if unitWrong s o.k (entriesRead o.k) then .next (settle s (unitFault s o.k))
      else .next (settle s (act s c o))

/-- It plays what it can, where `residue` does not tell that an addition or a conversion fails its residue check (R293). -/
def pumpOr (residue : Bool) (s : State) (c : ChanId) : State := if residue then engineFails s c else pump s c

/-- The collective engine takes a collective's contribution and plays what it can. -/
def runColl (t : TicketId) (fn : Desc → Bool) (residue : Bool) (s : State) : Outcome State Fault Refusal :=
  engineGoesOn t fn (fun s c _ => pumpOr residue (openPart (takeMemory s c) c) c) s

/-- CHAIN_REDUCE (R273). -/
def execChainReduce (t : TicketId) (residue : Bool) (s : State) : Outcome State Fault Refusal :=
  runColl t (fun d => dFunc d == 0 && !isNormColl d) residue s

/-- REDUCE_SCATTER (R274). -/
def execReduceScatter (t : TicketId) (residue : Bool) (s : State) : Outcome State Fault Refusal :=
  runColl t (fun d => dFunc d == 1) residue s

/-- ALL_GATHER (R278). -/
def execAllGather (t : TicketId) (s : State) : Outcome State Fault Refusal := runColl t (fun d => dFunc d == 2) false s

/-- BROADCAST (R278). -/
def execBroadcast (t : TicketId) (s : State) : Outcome State Fault Refusal := runColl t (fun d => dFunc d == 3) false s

/-- A backup has sent what it may begin itself, nothing where no lateness limit lets it be taken, and has played every shard that a NOTICE
says it was taken for. -/
def backupPlayed (s : State) (c : ChanId) (o : Coll) : Bool :=
  let d := o.k.desc
  let full (k : Nat) : Bool := (blocksOf s c d k).all o.sent.contains
  let n := memberCount s c
  let pred := memberModule s c ((o.member + n - 1) % n)
  let ks := shardsOf s c d
  o.contrib.isSome && (coLate d == 0 || (ks.filter fun k => placeIn s c d k o.member == 0).all full)
    && decide ((o.selfNotices.filter (· == pred)).length ≤ (ks.filter fun k => placeIn s c d k o.member != 0 && full k).length)

/-- BACKUP: stands ready with its contribution; once its part is played, or none is asked of it, it ends: OK where it was never
taken, ABSENT where it was (R283, R285; log entry 48). -/
def execBackup (t : TicketId) (residue : Bool) (s : State) : Outcome State Fault Refusal :=
  engineGoesOn t (fun d => dFunc d == 4) (fun s c o =>
    if !residue && backupPlayed s c o && digestsDone s c o then finishColl s c []
    else pumpOr residue (openPart (takeMemory s c) c) c) s

/-- NORM_COLLECTIVE: passes its gate where it was held, and plays what it can (R281, R303 to R308). -/
def execNormCollective (t : TicketId) (residue : Bool) (s : State) : Outcome State Fault Refusal :=
  engineGoesOn t isNormColl (fun s c _ => pumpOr residue (takeHeld (passGate s c) c 0 fun _ => true) c) s

/-! ## DRAIN with TARGET COLLECTIVE (R121, R124, R130, R275) -/

/-- The collective in flight that takes this DRAIN's contribution. -/
def takesDrain (o : Coll) (k : Tk) : Bool :=
  o.opened && !o.played && coSrcDrain o.k.desc && o.contrib.isNone && o.slot == dSlot k.desc && dEpoch o.k.desc == dEpoch k.desc

/-- BURST_ADDs that waited for the home's own contribution or for a copy's hold are performed (R279, R329). -/
def performAdd (s : State) (c : ChanId) (f : Flit) : State :=
  match (s.chans[c]).op with
  | none => ackTo s f .invalid
  | some o =>
    let d := o.k.desc
    let a := bitsOf f.arg 42 0
    let base := globalLocal (coDst d)
    let k := if collFn d = 1 then o.member else 0
    let j := (a - base) / 256
    match (List.range (memberCount s c)).find? fun i => memberModule s c i == f.src.toNat with
    | none => ackTo s f .invalid
    | some i =>
      if o.played || !o.arrival || !o.opened || homeMember s c d k != o.member || a < base || (a - base) % 256 != 0 || burstsOf s c d k ≤ j then ackTo s f .invalid
      else if (coSrcDrain d && o.contrib.isNone) || heldBurst s (a / 256) || unitIsolated s .collective then modChan s c fun r => { r with held := r.held ++ [f] }
      else
        let r := addBurst s c o i j f.payload
        digestIn (ackTo (noteAdd r.1 c j r.2 false) f .ok) c f.src.toNat f.arg.toNat f.payload k false

def performHeldAdds (s : State) (c : ChanId) : State :=
  let l := (s.chans[c]).held.filter fun f => f.typ == 6
  let s := modChan s c fun r => { r with held := r.held.filter fun f => f.typ != 6 }
  l.foldl (fun s f => performAdd s c f) s

/-- A DRAIN into a collective fits the COLLECTIVE that it feeds. -/
def feeds (d : Desc) (a : AccSet) (coll : Desc) : Bool :=
  drCols d != 0 && decide (drCols d ≤ 512) && coCount coll == a.rows * drCols d
    && decide (drOrigin d + (a.rows - 1) * drRowLen d + drCols d - 1 < 2 ^ 40)

/-- Takes the totals of a judged DRAIN's set in chain format; the set is EMPTY and the DRAIN has ended. -/
def takeTotals (s : State) (k : Tk) (residue : Option (Nat × Nat)) (bank : List BankFault) : State × List (BitVec 32) :=
  let d := k.desc
  let e := tkEng s k
  let m := dAccSet d
  let a := accSet s e m
  let s := drainFindings s e a.base a.rows bank
  let vals := (List.range a.rows).flatMap fun r => (List.range (drCols d)).map fun x =>
    if bankPoison s e (a.base + r) x then none else some (longVal (bankGet s e (a.base + r) x))
  let codes := withResidue residue (vals.map fun v => match v with | some v => (f32Of v).toNat | none => f32NaN.toNat)
  let wide := codes.map (BitVec.ofNat 32)
  let s := residueSeen s k residue.isSome
  let s := if a.long then modAcc s e fun x => { x with longDrains := countUp x.longDrains } else s
  let bad := vals.any Option.isNone
  let nf := wide.any fun v => (f32Val v).special
  (endConvert (emptySet s e m) k (convertCauses bad nf ++ if a.long then [.longsum] else []) a.rows false, wide)

/-- Hands a judged DRAIN's set over as the contribution. A COUNT that is not its rows × COLS ends both with INVALID. -/
def handOver (s : State) (k : Tk) (o : Coll) (residue : Option (Nat × Nat)) (bank : List BankFault) : State :=
  let d := k.desc
  let c := drChannel d
  if !feeds d (accSet s (tkEng s k) (dAccSet d)) o.k.desc then abortAll (failDrain s k) c
  else
    let x := takeTotals s k residue bank
    let wide := x.2
    let s := modOp x.1 c fun o => { o with origin := drOrigin d, rowLen := drRowLen d, cols := drCols d }
    let s := signContribution s c k o.cseq (coCount o.k.desc) wide
    match (s.chans[c]).op with
    | none => s
    | some o =>
      let l := if o.arrival then
          (match targetOf s o.k .l16s (coTid o.k.desc) (coDomain o.k.desc) o.member true with
           | some t =>
             (convertAll (drawKeyOf s o.k (coDomain o.k.desc) (coTid o.k.desc)) t false
               (((List.range wide.length).zip wide).map fun p => (logIndex o p.1, some (f32Val p.2)))).codes.map (BitVec.ofNat 32)
           | none => wide)
        else wide
      pump (performHeldAdds (setContrib s c l) c) c

/-- The replayed COLLECTIVE that a replayed DRAIN feeds. -/
def replayedColl (s : State) (k : Tk) : Option Tk :=
  (tksOf s).find? fun o => o.isReplay && o.shelf == k.shelf && dFamily o.desc == some .collective && coChannel o.desc == drChannel k.desc
    && o.phase == .running && dSlot o.desc == dSlot k.desc

/-- Under a replay the set's totals are folded, and nothing is sent (R307). -/
def handReplayed (s : State) (k q : Tk) (residue : Option (Nat × Nat)) (bank : List BankFault) : State :=
  if !feeds k.desc (accSet s (tkEng s k) (dAccSet k.desc)) q.desc then modTk (failDrain s k) q.ticket (failTk .invalid)
  else
    let x := takeTotals s k residue bank
    modTk (signContribution x.1 (drChannel k.desc) k (coCseq q.desc) (coCount q.desc) x.2) q.ticket (endTk [] q.detail.toNat)

/-- DRAIN_COLLECTIVE: begins, waits for the set's end token and for a collective of its channel that takes drains, then hands the
set's totals to it in chain format (R130). -/
def execDrainCollective (t : TicketId) (residue : Option (Nat × Nat)) (bank : List BankFault) (s : State) : Outcome State Fault Refusal :=
  let go (s0 s : State) : Outcome State Fault Refusal :=
    match getTk s t with
    | none => .next (settle s0 s)
    | some k =>
      if isDrain 2 false k.desc && (drainRun k).any (·.judged) && s.power == .running && !unitIsolated s (tkUnit s k)
          && unitWrong s k (entriesRead k) then .next (settle s0 (unitFault s k))
      else if k.isReplay then
        match drainRun k, replayedColl s k with
        | some r, some q =>
          if r.judged && isDrain 2 false k.desc && s.power == .running && !unitIsolated s (tkUnit s k) then
            .next (settle s0 (handReplayed s k q residue bank))
          else .next (settle s0 s)
        | _, _ => .next (settle s0 s)
      else match drainRun k, (s.chans[drChannel k.desc]).op with
      | some r, some o =>
        if r.judged && isDrain 2 false k.desc && takesDrain o k && s.power == .running && !unitIsolated s (tkUnit s k) then
          .next (settle s0 (handOver s k o residue bank))
        else .next (settle s0 s)
      | _, _ => .next (settle s0 s)
  match beginDrain s t 2 with
  | some s1 => go s s1
  | none => go s s

/-- BURST_ADD: the home adds burst j of its own part of its own shard with the same atomic (R213, R279). -/
def execBurstAdd (c : ChanId) (j : Nat) (s : State) : Outcome State Fault Refusal :=
  match (s.chans[c]).op with
  | none => .next s
  | some o =>
    let d := o.k.desc
    let k := if collFn d = 1 then o.member else 0
    let sp := burstSpan s c d k j
    match o.contrib with
    | none => .next s
    | some l =>
      if s.power != .running || unitIsolated s .collective || o.played || !o.arrival || !o.opened || homeMember s c d k != o.member
          || burstsOf s c d k ≤ j || o.ownAdds.contains j || heldBurst s (globalLocal (coDst d) / 256 + j) then .next s
      else if unitWrong s o.k (entriesRead o.k) then .next (settle s (unitFault s o.k))
      else
        let r := addBurst s c o o.member j (bytesOfCodes .l16s (((l.drop sp.1).take sp.2).map BitVec.toNat))
        .next (settle s (pump (performHeldAdds (noteAdd r.1 c j r.2 true) c) c))

/-! ## Timers (R269, R284, R287) -/

/-- The decider's timer of a shard runs: about the first member once this one has sent it READY, about the next once block 0 of
the running sum is ready to send. -/
def firstPending (s : State) (c : ChanId) (o : Coll) (k : Nat) : Option Nat :=
  match prevIn s c o.k.desc k o.member with
  | some p =>
    if o.opened && placeIn s c o.k.desc k p = 0 && mayLapse s c o p && (sparseGet none o.taken (2 * k + 1)).isNone then some p else none
  | none => none

def nextPending (s : State) (c : ChanId) (o : Coll) (k : Nat) : Option Nat :=
  match nextIn s c o.k.desc k o.member with
  | some q =>
    if mayLapse s c o q && (sparseGet none o.taken (2 * k)).isNone
        && ((blocksOf s c o.k.desc k).head?.any fun b => (blockValue s c o k b).isSome) then some q else none
  | none => none

/-- LATENESS_TIMER: the limit of the shard's pending decision expires; a backup that has already reached this member is
taken (R284). -/
def execLatenessTimer (c : ChanId) (shard : BitVec 13) (s : State) : Outcome State Fault Refusal :=
  match (s.chans[c]).op with
  | none => .next s
  | some o =>
    let k := shard.toNat
    if s.power != .running || unitIsolated s .collective || o.played || !(shardsOf s c o.k.desc).contains k then .next s
    else
      let expire (key : Nat) : State := pump (modOp s c fun o => { o with expired := addOnce o.expired key }) c
      match firstPending s c o k with
      | some _ => .next (settle s (expire (2 * k + 1)))
      | none =>
        match nextPending s c o k with
        | some _ => .next (settle s (expire (2 * k)))
        | none => .next s

/-- COLLECTIVE_TIMEOUT: TIMEOUT_US has passed since the issue, and the collective has not completed: it completes with TIMEOUT, and the
engine still plays its part (R287). -/
def execCollectiveTimeout (c : ChanId) (s : State) : Outcome State Fault Refusal :=
  match (s.chans[c]).op with
  | none => .next s
  | some o =>
    if s.power != .running || unitIsolated s .collective || coTimeout o.k.desc = 0 || o.timedOut then .next s
    else
      let s1 := modChan s c fun r => { r with timeouts := countUp r.timeouts }
      .next (settle s (expireColl s1 c o false))

end Sys2Proof.Machine
end

