-- ==== Sys2Proof/Machine/Services.lean ====
section
/-! DEFINITION. WAIT_SET, FLAG_WRITE, FENCE, CHECKARM, MIRROR, MIRROR_TIMEOUT (R153, R232, R297 to R301, R324 to R330). -/

namespace Sys2Proof.Machine

open Host

/-! ## Flags and fences -/

/-- A descriptor whose own work is a change of the state at its beginning: it begins and ends at once. -/
def runOnce (t : TicketId) (mine : Desc → Bool) (ready valid : State → Tk → Bool) (f : State → Tk → State) (s : State) :
    Outcome State Fault Refusal :=
  match beginTk s t mine ready valid with
  | .wait => .next s
  | .ended s1 => .next (settle s s1)
  | .ok s1 k => .next (settle s (modTk (f s1 k) t (endTk [] 0)))

/-- WAIT_SET: its waits were satisfied at issue and its sets follow at completion (R153). -/
def execWaitSet (t : TicketId) (s : State) : Outcome State Fault Refusal :=
  runOnce t (isFn .flag 0) (fun _ _ => true) (fun _ _ => true) (fun s _ => s) s

/-- FLAG_WRITE: stores VALUE into a flag of the issuing die; REMOTE and PRODUCER do not limit it. -/
def execFlagWrite (t : TicketId) (s : State) : Outcome State Fault Refusal :=
  runOnce t (isFn .flag 1) (fun _ _ => true) (fun s k => flagUsable s k.ringDie (flFlag k.desc) (dSlot k.desc))
    (fun s k =>
      let f := flFlag k.desc
      noteWaits (withFlags s k fun s => putFlag s k.ringDie f (feSetValue (flagEntry s k.ringDie f) (flValue k.desc)))) s

/-- FENCE: completes once every write of the descriptors that it covers is performed; those whose sets satisfied its waits have
had theirs performed already (R152, R232). -/
def execFence (t : TicketId) (s : State) : Outcome State Fault Refusal :=
  runOnce t (isFn .fence 0) (fun s k => !k.cover.any (instBusy s)) (fun _ _ => true) (fun s _ => s) s

/-! ## Arming a check-value unit (R297 to R301) -/

/-- A TAP code of R298. -/
def tapKnown (t : Nat) : Bool := t < 0x18 || (0x20 ≤ t && t ≤ 0x62) || t = 0x70
/-- A tap whose bursts have copy sequence numbers. -/
def tapCounts (t : Nat) : Bool := 0x60 ≤ t && t ≤ 0x62

/-- The encodings and ranges of R299; addresses of the head region may not be named (R15). -/
def checkarmOk (d : Desc) : Bool :=
  let t := (chTap d).toNat
  tapKnown t && (!chFold d || tapCounts t) && chBytes d != 0 && chBytes d % 256 == 0
    && (chFold d || (chStart d % 256 == 0 && decide (globalLocal (chStart d) + chBytes d ≤ headBase)))

/-- The unit is armed on the descriptor's tap and range. -/
def armUnit (k : Tk) (r : CvuR) : CvuR :=
  let d := k.desc
  { r with
    armed := true, tap := chTap d, counted := 0, armedBy := BitVec.ofNat 16 ((dSlot d).val * 4096 + k.ticket.val), ticket := k.ticket,
    sequence := chFold d, start := chStart d, bytes := chBytes d, expect := chExpect d, v := 0, bad := false }

/-- CHECKARM: arms its unit, or completes with CONFLICT where the unit is armed or the slot does not own the tap (R301). -/
def execCheckarm (t : TicketId) (s : State) : Outcome State Fault Refusal :=
  match beginTk s t (isFn .checkarm 0) (fun _ _ => true) (fun _ k => checkarmOk k.desc) with
  | .wait => .next s
  | .ended s1 => .next (settle s s1)
  | .ok s1 k =>
    let u := chCvu k.desc
    let owned := sparseGet (0xFF : BitVec 8) s1.owners.taps (chTap k.desc).toNat == BitVec.ofNat 8 (dSlot k.desc).val
    if (s1.cvus[u]).armed || !owned then .next (settle s (modTk s1 t (failTk .conflict)))
    else .next (settle s (modCvu s1 u (armUnit k)))

/-! ## Copies (R324 to R330) -/

/-- Bursts of the payload's image part, and the first copy sequence number of a region (R324). -/
def imageBursts (s : State) (j : Slot) : Nat := (imageSize s.slots[j] - 4096) / 256
def regionSeq (s : State) (j : Slot) (pos : Nat) : Nat :=
  imageBursts s j + ((regionsOf s j).filter fun r => r.pos < pos).foldl (fun a r => a + r.bytes / 256) 0

/-- A half of the keep holds a valid header (R325), and its data step. -/
def keepStep (s : State) (j : Slot) (h : Nat) : Option Nat :=
  let a := (s.slots[j]).keepBase.toNat + h * halfBytes s j
  let l := memBytes s a 256
  if !spanBad s a 256 && fieldNat l 0 4 == headerMagic && fieldNat l 252 4 == (crc32c (l.take 252)).toNat then some (fieldNat l 12 4) else none

/-- The half whose header is invalid or names the smaller data step (R324). -/
def chosenHalf (s : State) (j : Slot) : Fin 2 :=
  match keepStep s j 0, keepStep s j 1 with
  | none, _ => 0
  | some _, none => 1
  | some a, some b => if b < a then 1 else 0

def putCopy (s : State) (j : Slot) (c : Option Copy) : State := modSlot s j fun r => { r with copy := c }

/-- A copy fails: no headers are written, the hold ends, and NET_FAIL is recorded; the next copy is due at the next commit
(R326, R330). -/
def failCopy (s : State) (j : Slot) (st : Status) (at_ : Nat := 0) : State :=
  match (s.slots[j]).copy with
  | none => s
  | some c =>
    let s := modSlot s j fun r => { r with copy := none, mirrorDue := none, copyForced := true }
    let s := { s with waitReqs := s.waitReqs.filter fun p => match p.1 with | .mirror i step _ => !(i == j && step == c.step) | _ => true }
    let s := failEntry s 0x0D (unitByte 6 0) 0 0 j
    match c.waiting with
    | some (t, inst, _) => modInst s t inst fun k => { (if st = .eccUncorr then meetPoison at_ k else addCause st k) with phase := .ended }
    | none => s

/-- One burst to the same place of the keep and of the net: a local write, and a WRITE flit on virtual channel 7 past the
mirror engine's tap. `seq` is its copy sequence number, none for a header. False where the module's own router drops it. -/
def copyBurst (s : State) (j : Slot) (off : Nat) (data : List Byte) (seq : Option Nat) : State × Bool :=
  let r := s.slots[j]
  let a := r.netBase.toNat + off
  let s := (writeWhole s ((r.keepBase.toNat + off) / 256) data).1
  let s := tapBurst s 0x60 false (r.partner.toNat * localSize + a) data false
  let s := match seq with | some n => tapBurst s 0x60 true n data false | none => s
  let req : FabReq := match r.copy with
    | some c => .mirror j c.step (match c.waiting with | some (_, inst, _) => inst | none => 0)
    | none => .mirror j 0 0
  let x := sendRequest s req (ownFlit s 0x01 7 r.partner.toNat a data)
  (modSlot x.1 j fun r => { r with copy := r.copy.map fun c => { c with acks := c.acks + 1 } }, x.2)

/-- Copies n bytes at a local address as the payload bursts from `seq` on: V folds over them. A poisoned burst and a WRITE that
cannot leave fail the copy; a burst at level 05h makes the MIRROR HOT. -/
def copySpan (s : State) (j : Slot) (a n seq : Nat) : State :=
  (List.range ((n + 255) / 256)).foldl (fun s i =>
    match (s.slots[j]).copy with
    | none => s
    | some c =>
      let x := readSpan s (a + 256 * i) 256
      if x.2.2 then failCopy x.1 j .eccUncorr (a + 256 * i)
      else
        let q := seq + i
        let y := copyBurst x.1 j (c.half.val * halfBytes s j + 4096 + 256 * q) x.2.1 (some q)
        let s := modSlot y.1 j fun r => { r with copy := r.copy.map fun c => { c with v := c.v ^^^ crc32c (leBytes 8 q ++ x.2.1) } }
        let s := if (spanBursts (a + 256 * i) 256).any (burstHot s) then
            (match c.waiting with | some (t, inst, _) => modInst s t inst (addCause .hot) | none => s)
          else s
        if y.2 then s else failCopy s j .invalid) s

/-- The buffer of a region for the due step, as its record named it when the copy fell due (R319, R328). -/
def dueBuffer (r : SlotR) (pos : Nat) : Option Nat := (r.dueBuffers.find? fun p => p.1 == pos).map (·.2)

/-- The region of a MIRROR: its buffer for the due step, not yet copied (R328). -/
def mirrorRegion (s : State) (k : Tk) : Option Region :=
  let j := dSlot k.desc
  let r := s.slots[j]
  match r.mirrorDue with
  | none => none
  | some t =>
    if miStep k.desc != t then none
    else (regionsOf s j).find? fun g =>
      dueBuffer r g.pos == some (miSrc k.desc) && g.bytes == miBytes k.desc && !(r.copy.any fun c => c.done.contains g.pos)

/-- Copies the region that the copy's MIRROR names, and notes it as copied. -/
def copyRegion (s : State) (j : Slot) : State :=
  match (s.slots[j]).copy with
  | some c =>
    match c.waiting with
    | some (_, _, pos) =>
      match regionOf s j pos with
      | some g =>
        let s := copySpan s j ((dueBuffer (s.slots[j]) pos).getD g.baseA) g.bytes (regionSeq s j pos)
        modSlot s j fun r => { r with copy := r.copy.map fun c => { c with done := addOnce c.done pos } }
      | none => s
    | none => s
  | none => s

/-- The final header, in the keep and in the net (R328 step 4): profile, stream step and step record are those of the commit, as its
image holds them (R320, R325). -/
def closeCopy (s : State) (j : Slot) (c : Copy) : State :=
  let t := c.step.toNat
  let a := imageAddr (s.slots[j]) t
  let x := readSpan s a 256
  let h := headerBytes s j (memByte s (a + 8)) 1 t (memNat s (a + 24) 4) c.v.toNat (memBytes s (a + 64) 64)
  let s := x.1
  let x := copyBurst s j (c.half.val * halfBytes s j) h none
  let s := modSlot x.1 j fun r => { r with copy := r.copy.map fun c => { c with closing := true } }
  if x.2 then s else failCopy s j .invalid

/-- What follows once every answer due to a copy has come: the image part and the first region, the end of a MIRROR, the final
header, or the end of the copy (R328). -/
def advanceCopy (s : State) (j : Slot) : State :=
  match (s.slots[j]).copy with
  | none => s
  | some c =>
    match c.waiting with
    | none => s
    | some (t, inst, pos) =>
      if c.acks != 0 then s
      else
        let bytes := match regionOf s j pos with | some g => g.bytes | none => 0
        if !c.open_ then
          let s := modSlot s j fun r => { r with copy := r.copy.map fun c => { c with open_ := true } }
          copyRegion (copySpan s j (imageAddr (s.slots[j]) c.step.toNat + 4096) (256 * imageBursts s j) 0) j
        else if c.closing then
          let s := modSlot s j fun r => { r with lastMirrored := c.step, mirrorDue := none, copy := none }
          modInst s t inst (endTk [] bytes)
        else if (regionsOf s j).all fun g => c.done.contains g.pos then closeCopy s j c
        else modInst (putCopy s j (some { c with waiting := none })) t inst (endTk [] bytes)

/-- A copy begins: zeros go over the chosen half's header in both places, and the partner's answer is awaited (R328 step 1; log
entry 49). -/
def openCopy (s : State) (k : Tk) (pos : Nat) : State :=
  let j := dSlot k.desc
  let h := chosenHalf s j
  let keep := (s.slots[j]).keepBase.toNat
  let s := (readSpan (readSpan s keep 256).1 (keep + halfBytes s j) 256).1
  let s := putCopy s j (some
    { step := miStep k.desc, half := h, done := [], v := 0, waiting := some (k.ticket, k.inst, pos), acks := 0, open_ := false,
      closing := false })
  let x := copyBurst s j (h.val * halfBytes s j) (List.replicate 256 0) none
  if x.2 then x.1 else failCopy x.1 j .invalid

/-- MIRROR: begins the copy of its region, one MIRROR at a time in issue order. A replayed one copies nothing (R307). -/
def execMirror (t : TicketId) (s : State) : Outcome State Fault Refusal :=
  let free (s : State) (k : Tk) : Bool := !(tksOf s).any fun o =>
    dFamily o.desc == some .mirror && o.isReplay == k.isReplay && o.ticket != k.ticket
      && (o.phase == .running || (o.phase == .issued && decide (o.issueNo < k.issueNo)))
  match beginTk s t (isFn .mirror 0) free (fun s k => k.isReplay || (mirrorRegion s k).isSome) with
  | .wait => .next s
  | .ended s1 => .next (settle s s1)
  | .ok s1 k =>
    if k.isReplay then .next (settle s (modTk s1 t (endTk [] 0))) else
    let j := dSlot k.desc
    let pos := match mirrorRegion s1 k with | some g => g.pos | none => 0
    match (s1.slots[j]).copy with
    | none => .next (settle s (openCopy s1 k pos))
    | some c => .next (settle s (copyRegion (putCopy s1 j (some { c with waiting := some (t, k.inst, pos) })) j))

/-- MIRROR_TIMEOUT: a write to the safety net has gone unanswered for the fabric operation timeout (R330). -/
def execMirrorTimeout (j : Slot) (s : State) : Outcome State Fault Refusal :=
  if s.power != .running || !((s.slots[j]).copy.any fun c => c.acks != 0 && c.waiting.isSome) then .next s
  else .next (settle s (failCopy s j .timeout))

end Sys2Proof.Machine
end

