-- ==== Sys2Proof/Machine/Stream.lean ====
section
/-! DEFINITION. Stream engines: STREAM_LINEAR, STREAM_INDEXED, STREAM_ENTRY_START, STRIP_CLAIM, READ_DATA_ARRIVAL,
STREAM_READ_TIMEOUT (R189 to R204). -/

namespace Sys2Proof.Machine

open Host

/-! ## Validity (R190 to R194) -/

/-- The pairs of source and stored formats of R191. -/
def streamPairOk (d : Desc) : Bool :=
  match dIn d 0, dOut d 0 with
  | some .l4w, some .l4w => !stIndexed d
  | some .l16s, some .l8f => true
  | some a, some b => a == b && (a == .l8f || a == .l8g || a == .l16s)
  | _, _ => false

/-- Stored bytes of one index's or one LINEAR row's data (R191, R194). -/
def storedLength (d : Desc) : Nat := if isL4wStream d then 512 else if narrows d then stRowBytes d / 2 else stRowBytes d

/-- Stored bytes of a whole stored row. -/
def storedRowLength (d : Desc) : Nat :=
  if dShape d = 3 && !stStat d then 512 else rowIndices d * storedLength d

/-- SHAPE, SHAPE_PARAM and the stored bytes per index that R194 asks of them. -/
def streamShapeOk (d : Desc) : Bool :=
  let p := stParam d
  if dShape d = 0 then dParam d == 0
  else if !stIndexed d || dParam d / 64 % 2 = 1 then false
  else if dShape d = 3 then
    decide (1 ≤ p ∧ p ≤ 32) && (if stStat d then storedLength d == 512 && stRows d == 16 * p else storedLength d == p)
  else if dShape d = 5 then
    (p == 8 || p == 16 || p == 32) && (if stStat d then storedLength d == p else storedLength d == 256)
  else false

/-- Rows of an L4w STREAM (R192). -/
def l4wStreamOk (d : Desc) : Bool :=
  stRows d == 544 && stPitchOut d == 512 && stRowBytes d == (if stPack d then 512 else 256)

/-- Entries that a STREAM names: one for a LINEAR one (R194). -/
def streamEntries (d : Desc) : Nat := if stIndexed d then stIndexCount d / (stRows d * rowIndices d) else 1

/-- The index and lead fields (R190, R194). -/
def streamIndexOk (d : Desc) : Bool :=
  decide (stLead d ≤ 4096) &&
  if stIndexed d then 1 ≤ stIndexCount d && stIndexCount d % (stRows d * rowIndices d) == 0
  else stIndexCount d == 0 && (isL4wStream d || stIndexAddr d == 0)

/-- Every constraint of R190 and of the fields of R155. -/
def streamOk (s : State) (k : Tk) : Bool :=
  let d := k.desc
  streamPairOk d && streamShapeOk d && streamIndexOk d
    && (if isL4wStream d then l4wStreamOk d else !stPack d)
    && decide (8 ≤ stRows d ∧ stRows d ≤ 4096) && stRows d % 8 == 0
    && (stPitchOut d == 512 || stPitchOut d == 1024) && decide (storedRowLength d ≤ stPitchOut d)
    && stSrc d % 256 == 0 && stPitch d % 8 == 0 && stRowBytes d % 8 == 0
    && (stIndexed d == (dFunc d == 1))
    && (match dOutW d 0, dOutW d 1 with
        | .queue q, .none => outQueueOk s k q && pushFits s k q (stRows d) (stPitchOut d)
        | _, _ => false)
    && (pops d).isEmpty

/-! ## Beginning (R198 step 1) -/

def freshStream (d : Desc) (sigma : Int) (bad : Bool) : StreamRun :=
  { stage := .waitLead, entry := 0, entries := streamEntries d, entryId := 0, index := [], landed := [], got := [],
    expired := [], bytes := 0, sigma := sigma, scalePoison := bad, capture := 0x80 }

/-- A STREAM begins: it consults its scale entry if it narrows (R191, R436). -/
def startStream (code : Nat) (t : TicketId) (s : State) : State :=
  match beginTk s t (isFn .stream code) (fun _ _ => true) streamOk with
  | .wait => s
  | .ended s1 => settle s s1
  | .ok s1 k =>
    let run (sigma : Int) (bad : Bool) : State :=
      settle s (modTk s1 t fun q => { q with run := .stream (freshStream q.desc sigma bad) })
    match if narrows k.desc then sigmaFor s1 k (stTid k.desc) .l8f else .found 0 with
    | .invalid => settle s (refuse s1 t)
    | .poisoned => run 0 true
    | .found x => run x false

/-- STREAM_LINEAR: the stream engine begins a STREAM of function 00h. -/
def execStreamLinear (t : TicketId) (s : State) : Outcome State Fault Refusal := .next (startStream 0 t s)

/-- STREAM_INDEXED: the stream engine begins a STREAM of function 01h. -/
def execStreamIndexed (t : TicketId) (s : State) : Outcome State Fault Refusal := .next (startStream 1 t s)

/-! ## Entries (R197 to R199) -/

/-- The STREAM of a ticket that runs. -/
def runningStream (s : State) (t : TicketId) : Option (Tk × StreamRun) :=
  match getTk s t with
  | none => none
  | some k =>
    if s.power != .running || k.phase != .running || unitIsolated s (tkUnit s k) then none
    else (streamOf k).map fun r => (k, r)

/-- No STREAM issued earlier to the same stream engine has still to claim an entry (R189). -/
def streamTurn (s : State) (k : Tk) : Bool :=
  !(tksOf s).any fun o => (o.phase == .issued || o.phase == .running) && decide (o.issueNo < k.issueNo)
    && tkUnit s o == tkUnit s k && !claimedAll o

def outQueue (d : Desc) : Nat := match dOutW d 0 with | .queue q => q | _ => 0

def modStream (k : Tk) (f : StreamRun → StreamRun) (s : State) : State :=
  modInst s k.ticket k.inst fun q => match q.run with | .stream r => { q with run := .stream (f r) } | _ => q

/-- STREAM_ENTRY_START: fewer than LEAD entries of OUT0 are outstanding, so the next entry may start (R199). -/
def execStreamEntryStart (t : TicketId) (s : State) : Outcome State Fault Refusal :=
  match runningStream s t with
  | none => .next s
  | some (k, r) =>
    if r.stage != .waitLead || !streamTurn s k
        || (stLead k.desc != 0 && decide (stLead k.desc ≤ outstanding s k.shelf (outQueue k.desc))) then .next s
    else .next (settle s (modStream k (fun r => { r with stage := .waitStrips }) s))

/-- The READ of a request to another module (R263, R268). -/
def readFlitOf (s : State) (vc : Nat) (lo n : Nat) : Flit :=
  let b := lo - 2 ^ 60
  ownFlit s 0x02 vc (b / 2 ^ 35) ((n - 1) * 2 ^ 43 + 256 * (b % 2 ^ 35)) []

/-- Sends the requests of a list of rows' burst keys: to the homes of this module, or as READ flits on virtual channel 0
(R201). A request that the module's own router refuses leaves its bursts marked as refused. -/
def issueReads (s : State) (k : Tk) (window : Nat) (rows : List (List Nat)) : State :=
  (requestsOf k.merge.2 window rows).foldl (fun s q =>
    if q.lo < 2 ^ 60 then
      { s with homeQueue := s.homeQueue ++ (List.range q.n).map fun i => HomeReq.read k.inst k.ticket (q.lo + i) }
    else match sendRequest s (.stream k.inst k.ticket q.lo q.n []) (readFlitOf s 0 q.lo q.n) with
      | (s', true) => s'
      | (s', false) => (List.range q.n).foldl (fun s i => modInst s k.ticket k.inst (bringBurst (q.lo + i) [] false false)) s') s

/-- Reads the data rows of the entry being filled. -/
def issueRows (s : State) (k : Tk) (index : List (BitVec 64)) : State :=
  issueReads s k (if stIndexed k.desc then k.merge.1 else 0)
    ((List.range (sourceCount k.desc)).map fun i => needs s k.desc index i)

/-- The index entries of the entry being filled that lie where they may be read, by place and global address (R196). -/
def indexWords (s : State) (d : Desc) (r : StreamRun) : List (Nat × Option Nat) :=
  let base := (indexSpan d r).1
  (List.range (sourceCount d)).map fun i => let a := base + 8 * i
    (i, if sourceOk s a 8 then some a else none)

/-- Reads the index bursts of the entry being filled. -/
def issueIndex (s : State) (k : Tk) (r : StreamRun) : State :=
  issueReads s k 0 ((indexWords s k.desc r).map fun p => match p.2 with | some a => rowKeys s a 8 | none => [])

/-- The capture of a narrowing STREAM so far is folded into its scale entry (R191). -/
def foldStream (s : State) (k : Tk) (r : StreamRun) : State :=
  if narrows k.desc && !r.scalePoison then foldCapture s k (stTid k.desc) r.capture else s

/-- The next entry, or the end of the STREAM with the bytes it has pushed as its DETAIL (R198 steps 6 and 7; log entry 45). -/
def endEntry (s : State) (k : Tk) : State :=
  let bytes := stRows k.desc * stPitchOut k.desc
  match getTk s k.ticket with
  | none => s
  | some q =>
    match streamOf q with
    | none => s
    | some r =>
      if q.inst != k.inst || q.phase != .running then s
      else
        let r := { r with entry := r.entry + 1, bytes := r.bytes + bytes, index := [], landed := [], got := [] }
        if r.entry < r.entries then modTk s k.ticket fun q => { q with run := .stream { r with stage := .waitLead } }
        else
          modTk (foldStream s q r) k.ticket fun q => { endTk [] r.bytes q with run := .stream { r with stage := .done } }

/-- A STREAM that reads nothing still names its addresses: an index entry, or a row of a LINEAR one, lies outside the populated ranges
or in the head region (R15, R196). -/
def namesRefused (s : State) (d : Desc) (r : StreamRun) : Bool :=
  if stIndexed d then (indexWords s d r).any fun p => p.2.isNone
  else (List.range (sourceCount d)).any fun i => (sourceAt d [] i).any fun p => !sourceOk s p.1 p.2

/-- STRIP_CLAIM: the entry's strips are claimed in full, then its index or its rows are read (R197, R198 steps 3 and 4). With
a poisoned scale entry every row is poisoned and nothing is read (R436). -/
def execStripClaim (t : TicketId) (s : State) : Outcome State Fault Refusal :=
  match runningStream s t with
  | none => .next s
  | some (k, r) =>
    let d := k.desc
    let q := outQueue d
    if r.stage != .waitStrips || !pushTurn s k q then .next s
    else if unitWrong s k (entriesRead k) then .next (settle s (unitFault s k))
    else match claimEntry s k.shelf q (blankEntry k (stRows d) (stPitchOut d) (storedWidth d) (dFmtOut d 0) (stPack d)) with
      | none => .next s
      | some (s1, id) =>
        let r1 := { r with stage := .reading, entryId := id, index := [], landed := [], got := [] }
        let s2 := modTk s1 t fun x => { x with run := .stream r1 }
        if r.scalePoison then
          let s3 := modEntry s2 k.shelf q id fun e =>
            { e with poison := List.range e.rows, valid := List.range (e.rows / 8) }
          let named := namesRefused s d r1
          .next (settle s (endEntry (modTk s3 t fun q =>
            let q := meetPoison (scaleAddr k (tensorId s k (stTid d)) / 256 * 256) q
            { (if named then addCause .invalid q else q) with wrote := true }) k))
        else if stIndexed d then .next (settle s (issueIndex s2 k r1))
        else .next (settle s (issueRows s2 k []))

/-! ## Arrival (R191 to R196, R202) -/

/-- What bursts in hand give: n bytes at a global address, whether one was refused, and the address of the first poisoned one. -/
structure Fetched where
  bytes : List Byte
  refused : Bool
  badAt : Option Nat
  deriving DecidableEq, Repr

def fetchBytes (s : State) (r : StreamRun) (g n : Nat) : Fetched :=
  let keys := rowKeys s g n
  let part (b : Nat) : List Byte × Bool := (sparseGet none r.got b).getD ([], false)
  { bytes := ((keys.map fun b => fitBytes 256 (part b).1).flatten.drop (g % 256)).take n, refused := keys.any fun b => (part b).1.isEmpty,
    badAt := (keys.find? fun b => (part b).2).map fun b => 256 * (b % 2 ^ 60) }

/-- A poisoned burst was among them. -/
def Fetched.bad (f : Fetched) : Bool := f.badAt.isSome

/-- Adds to the count of rows filled with zeros (object 3230h + d:05), by the die of the stream engine. -/
def countInvalidRows (s : State) (k : Tk) (n : Nat) : State :=
  modDie s (tkHost s k) fun r => { r with invalidRows := (List.range n).foldl (fun x _ => countUp x) r.invalidRows }

/-- An index entry as it is taken, and why it is taken as PAD: INVALID, or its burst is poisoned (R193, R196, R202). -/
def takeWord (s : State) (r : StreamRun) (a : Option Nat) : BitVec 64 × Option Status :=
  match a with
  | none => (padWord, some .invalid)
  | some a =>
    let f := fetchBytes s r a 8
    if f.refused then (padWord, some .invalid)
    else if f.bad then (padWord, some .eccUncorr)
    else
      let w : BitVec 64 := bytesWord 64 f.bytes
      if ixReserved w != 0 then (padWord, some .invalid) else (w, none)

/-- The index bursts have come: the entries are taken, owners are written, and the rows are read. -/
def takeIndex (s : State) (k : Tk) (r : StreamRun) : State :=
  let d := k.desc
  let l := (indexWords s d r).map fun p => takeWord s r p.2
  let ws := l.map (·.1)
  let own := ownersOf d ws
  let bad := l.filter fun p => p.2 == some .invalid
  let s := countInvalidRows s k bad.length
  let s := modInst s k.ticket k.inst fun q =>
    let q := if !bad.isEmpty || own.2 then addCause .invalid q else q
    match (indexWords s d r).findSome? fun p => p.2.bind fun a => (fetchBytes s r a 8).badAt with
    | some a => meetPoison a q
    | none => q
  let s := modEntry s k.shelf (outQueue d) r.entryId fun e => { e with owners := own.1 }
  issueRows (modStream k (fun r => { r with index := ws, got := [] }) s) k ws

/-- The entry with source row i laid in, its data at hand. -/
def placeRow (d : Desc) (e : Entry) (i : Nat) (w : BitVec 64) (stored : List Byte) : Entry :=
  let e := if isL4wStream d then landL4w d e i stored
    else
      let p := landsAt d i
      entryPut e (p.1 * stPitchOut d + p.2) stored
  match sideAt d i with
  | some (row, slot) =>
    let old := sparseGet [] e.side row
    { e with side := sparseSet [] e.side row ((old ++ List.replicate (16 - old.length) 0).set slot (sideWord w)) }
  | none => e

/-- Source row i has landed, which is an output write of the STREAM (R157; log entry 52): block rows whose eight stored rows have
all landed become valid (R73). -/
def markLanded (s : State) (k : Tk) (r : StreamRun) (i : Nat) : State :=
  let s := modStream k (fun r => { r with landed := r.landed ++ [i] }) s
  let s := modInst s k.ticket k.inst fun q => { q with wrote := true }
  let s := if isL4wStream k.desc then pushedRows s k.shelf (outQueue k.desc) r.entryId (poisons k.desc i)
    else pushedPart s k.shelf (outQueue k.desc) r.entryId (poisons k.desc i) (landsAt k.desc i).2 (storedLength k.desc)
  modEntry s k.shelf (outQueue k.desc) r.entryId fun e => { e with valid := validBlocks k.desc (r.landed ++ [i]) }

/-- Source row i lands. A PAD's row and a row that may not be read are zero; a poisoned burst and a residue failure of the
narrowing poison the stored rows. -/
def landRow (s : State) (k : Tk) (r : StreamRun) (i : Nat) (residue : Bool) : State :=
  let d := k.desc
  let q := outQueue d
  let zero (s : State) : State :=
    markLanded (countInvalidRows (modInst s k.ticket k.inst (addCause .invalid)) k 1) k r i
  match sourceAt d r.index i with
  | none => markLanded s k r i
  | some (g, n) =>
    if !sourceOk s g n then zero s
    else
      let f := fetchBytes s r g n
      if f.refused then zero s
      else
        let wrong := residue && narrows d
        let s := match f.badAt with | some a => modInst s k.ticket k.inst (meetPoison a) | none => s
        let s := if wrong then
            let s := logTk s 0x03 (tkUnitByte k) k 0 0
            let s := { s with integrity := { s.integrity with residueFailures := countUp s.integrity.residueFailures } }
            modInst s k.ticket k.inst fun q => { addCause .eccUncorr q with noUnit := false }
          else s
        let s := modStream k (fun r =>
          { r with capture := if narrows d && !f.bad then captureMax r.capture (rowCapture f.bytes) else r.capture }) s
        let s := modEntry s k.shelf q r.entryId fun e =>
          let e := placeRow d e i (r.index.getD i 0) (storedBytes d r.sigma f.bytes)
          if f.bad || wrong then { e with poison := (poisons d i).foldl addOnce e.poison } else e
        markLanded s k r i

/-- Every source row of the entry has landed. -/
def entryLanded (d : Desc) (r : StreamRun) : Bool := (List.range (sourceCount d)).all r.landed.contains

/-- A row that lands behind a TIMEOUT: what it adds to the capture is folded at once, since the STREAM has no end of its own to fold
it at (R191, R203). -/
def foldBehind (s : State) (k : Tk) : State :=
  match (instTk s k.ticket k.inst).bind fun q => (streamOf q).map fun r => (q, r) with
  | some (q, r) => if r.expired.isEmpty then s else foldStream s q r
  | none => s

/-- The index entries that a STREAM waits for have come, and it still takes them. -/
def indexArrived (s : State) (d : Desc) (r : StreamRun) : Bool :=
  indexPending d r && r.expired.isEmpty && (indexWords s d r).all fun p => (p.2.map fun a => gotAll r (rowKeys s a 8)).getD true

/-- The STREAM that a ticket names, running or behind a TIMEOUT, for which source row `row` has arrived: of two the one behind its
TIMEOUT, unless it has nothing to take. -/
def arrivingStream (s : State) (t : TicketId) (row : Nat) : Option (Tk × StreamRun) :=
  let here (k : Tk) : Option (Tk × StreamRun) :=
    (streamOf k).bind fun r =>
      if r.stage == .reading && (indexArrived s k.desc r || rowLandable s k.desc r row) then some (k, r) else none
  match (s.lingering.filter fun k => k.ticket == t).findSome? here with
  | some p => some p
  | none => (getTk s t).bind here

/-- READ_DATA_ARRIVAL: the data that source row `row` needs has arrived, and the row lands. For an INDEXED STREAM whose index
entries are still due it is they that have arrived. A STREAM behind its TIMEOUT issues no further read (R203). -/
def execReadDataArrival (t : TicketId) (row : Nat) (residue : Bool) (s : State) : Outcome State Fault Refusal :=
  match arrivingStream s t row with
  | none => .next s
  | some (k, r) =>
    if s.power != .running || unitIsolated s (tkUnit s k) then .next s
    else if unitWrong s k [] then .next (settle s (unitFault s k))
    else if indexPending k.desc r then .next (settle s (takeIndex s k r))
    else
      let s1 := foldBehind (landRow s k r row residue) k
      .next (settle s (if entryLanded k.desc { r with landed := r.landed ++ [row] } then endEntry s1 k else s1))

/-! ## Timeouts (R203) -/

/-- The STREAM whose read to another module goes under a TAG, running or behind its TIMEOUT, and not yet expired. -/
def timedRead (s : State) (t : TicketId) (tag : Nat) : Option (Tk × StreamRun) :=
  match sparseGet none s.fabReqs tag with
  | some (.stream i u _ _ _) =>
    if u != t then none
    else (instTk s t i).bind fun k => (streamOf k).bind fun r =>
      if r.expired.contains tag || (k.phase != .running && k.phase != .ended && r.expired.isEmpty) then none else some (k, r)
  | _ => none

/-- STREAM_READ_TIMEOUT: the read under a TAG has been outstanding at another module for the fabric read timeout, and the expiry is
counted. With its first one the STREAM completes with TIMEOUT, though all its rows may have landed: its reads in flight continue, and it
issues no further one. -/
def execStreamReadTimeout (read : TicketId × Fin 8192) (s : State) : Outcome State Fault Refusal :=
  let t := read.1
  let tag := read.2
  match timedRead s t tag.val with
  | none => .next s
  | some (k, r) =>
    if s.power != .running || unitIsolated s (tkUnit s k) then .next s
    else
      let s1 := modInst s t k.inst fun q => match q.run with
        | .stream r => { q with run := .stream { r with expired := tag.val :: r.expired } }
        | _ => q
      let s2 := modDie s1 (tkHost s k) fun r => { r with timedOut := countUp r.timedOut }
      if k.phase == .ended && r.expired.isEmpty then .next (settle s (modInst (dropWaiting s2 k.inst) t k.inst (addCause .timeout)))
      else if k.phase != .running then .next (settle s s2)
      else
        let s3 := dropWaiting (noteProgress s2 k) k.inst
        let s4 := modTk s3 t fun q => { addCause .timeout q with phase := .ended }
        .next (settle s (foldBehind s4 k))

end Sys2Proof.Machine
end

