-- ==== Sys2Proof/Machine/Transfer.lean ====
section
/-! DEFINITION. Transfers between modules: PUT, GET, FABRIC_OP_TIMEOUT (R155, R210, R264, R268, R269). -/

namespace Sys2Proof.Machine

open Host

/-- Fields of R155 and R264 that both functions keep. -/
def xferFieldsOk (d : Desc) : Bool := pgBytes d % 256 == 0 && decide (pgVc d < 4)

/-- A PUT reads memory of this module and writes where a memory target may be (R155, R210). -/
def putOk (s : State) (k : Tk) : Bool :=
  let d := k.desc
  xferFieldsOk d && isLocal s (pgSrc d) && dOutW d 0 == .none
    && namedRange (globalLocal (pgSrc d)) (pgBytes d) && targetOk s (pgDst d) (pgBytes d)

/-- A GET reads any module's memory into memory of this one or into a queue end (R155, R210). -/
def getOk (s : State) (k : Tk) : Bool :=
  let d := k.desc
  xferFieldsOk d && pgSrc d % 256 == 0
    && (!isLocal s (pgSrc d) || namedRange (globalLocal (pgSrc d)) (pgBytes d))
    && match dOutW d 0 with
       | .none => isLocal s (pgDst d) && namedRange (globalLocal (pgDst d)) (pgBytes d)
       | .queue q => pgDst d == 0 && outQueueOk s k q && pushFits s k q (getRows d) 512
       | .memory _ => false

/-- A descriptor of the transfer family with this function. -/
def isXfer (f : Nat) (d : Desc) : Bool := dFamily d == some .putget && dFunc d == f

/-- The causes that bursts read from memory give, the first poisoned one by its address (R293, R268). -/
def transferCauses (bad : Option Nat) (hot : Bool) (q : Tk) : Tk :=
  let q := match bad with | some a => meetPoison a q | none => q
  if hot then addCause .hot q else q

/-- Reads n bytes of this module's memory burst by burst: the bursts, the first that was poisoned or out of reach, and whether one was
served by a stack at level 05h. -/
def readBursts (s : State) (a n : Nat) : State × List (List Byte) × Option Nat × Bool :=
  (List.range (n / 256)).foldl (fun r i =>
    let x := readSpan r.1 (a + 256 * i) 256
    let y := takenBurst x.1 x.2.1 x.2.2
    (y.1, r.2.1 ++ [y.2], r.2.2.1.or (if x.2.2 then some (a + 256 * i) else none),
      r.2.2.2 || (spanBursts (a + 256 * i) 256).any (burstHot s))) (s, [], none, false)

/-- PUT: bytes of this module's memory are written to memory here or on another module; a remote write is one WRITE flit of
one burst each (R155, R268). -/
def execPut (t : TicketId) (s : State) : Outcome State Fault Refusal :=
  match beginTk s t (isXfer 0) (fun _ _ => true) putOk with
  | .wait => .next s
  | .ended s1 => .next (settle s s1)
  | .ok s1 k =>
    let d := k.desc
    let r := readBursts s1 (globalLocal (pgSrc d)) (pgBytes d)
    let s3 := writeOn r.1 k (pgVc d) (pgDst d) r.2.1.flatten
    .next (settle s (modTk s3 t fun q =>
      endTk [] (pgBytes d) { transferCauses r.2.2.1 r.2.2.2 q with wrote := decide (pgBytes d ≠ 0) }))

/-- Claims the entries that a GET fills, in order, while each finds its strips: from row `row` on, what was claimed and the rows of
those that still wait (R149). -/
def claimRows (s : State) (k : Tk) (q : Nat) : List Nat → Nat → State × List (Nat × Nat) × List Nat
  | [], _ => (s, [], [])
  | n :: l, row =>
    match claimEntry s k.shelf q (blankEntry k n 512 512 (dFmtOut k.desc 0) false) with
    | none => (s, [], n :: l)
    | some (s, id) =>
      let r := claimRows s k q l (row + n)
      (r.1, (row, id) :: r.2.1, r.2.2)

/-- Burst i of a GET has landed. -/
def noteLanded (s : State) (k : Tk) (i : Nat) : State :=
  modInst s k.ticket k.inst fun x =>
    match x.run with
    | .xfer r => { x with run := .xfer { r with landed := i :: r.landed } }
    | _ => x

/-- Burst i of a GET lands in its entry: half of a block row is 8 bursts, and a block row is valid once all of its bursts that
the GET brings have landed (R73). -/
def landBurst (s : State) (k : Tk) (r : XferRun) (q i : Nat) (data : List Byte) (bad : Bool) : State :=
  let row := i / 2
  let landed := i :: r.landed
  let full (b : Nat) : Bool :=
    (List.range 16).all fun x => decide (pgBytes k.desc ≤ 256 * (16 * b + x)) || landed.contains (16 * b + x)
  match (r.entries.filter fun p => decide (p.1 ≤ row)).getLast? with
  | none => s
  | some (first, id) =>
    let s := modEntry s k.shelf q id fun e =>
      let e := entryPut e (512 * (row - first) + 256 * (i % 2)) data
      let e := if bad then { e with poison := addOnce e.poison (row - first) } else e
      if full (row / 8) then { e with valid := addOnce e.valid ((row - first) / 8) } else e
    let s := pushedPart s k.shelf q id [row - first] (256 * (i % 2)) 256
    noteLanded s k i

/-- A burst that a GET has read goes to memory or into its entry. A descriptor of an old epoch discards it. -/
def getLands (s : State) (k : Tk) (i : Nat) (data : List Byte) (bad hot : Bool) : State :=
  let x := takenBurst s data bad
  let s := modInst x.1 k.ticket k.inst (transferCauses (if bad then some (globalLocal (pgSrc k.desc) / 256 * 256 + 256 * i) else none) hot)
  match k.run with
  | .xfer r =>
    let s := modInst s k.ticket k.inst fun q => { q with wrote := true }
    match dOutW k.desc 0 with
    | .queue q => landBurst s k r q i x.2 bad
    | _ => queueWrites (noteLanded s k i) k (globalLocal (pgDst k.desc) + 256 * i) x.2
  | _ => s

/-- n bursts of a GET from burst `lo` on have been asked for: READ flits of at most 256 bursts to another module, or reads at the homes
here. -/
def getReads (s : State) (k : Tk) (lo n : Nat) : State :=
  let d := k.desc
  if isLocal s (pgSrc d) then
    let a := globalLocal (pgSrc d)
    (List.range n).foldl (fun s i =>
      match getTk s k.ticket with
      | none => s
      | some k =>
        let x := readSpan s (a + 256 * (lo + i)) 256
        getLands x.1 k (lo + i) x.2.1 x.2.2 ((spanBursts (a + 256 * (lo + i)) 256).any (burstHot s))) s
  else
    (List.range ((n + 255) / 256)).foldl (fun s i =>
      let m := min 256 (n - 256 * i)
      match sendRequest s (.get k.inst k.ticket (lo + 256 * i) m []) (readFlitOf s (pgVc d) (2 ^ 60 + pgSrc d / 256 + lo + 256 * i) m) with
      | (s', true) => s'
      | (s', false) => modTk s' k.ticket (addCause .invalid)) s

/-- A GET whose requests have all been made and answered ends; DETAIL counts the bytes. -/
def endIfAnswered (s : State) (t : TicketId) (inst : Nat) : State :=
  match getTk s t with
  | none => s
  | some k =>
    let more := match k.run with | .xfer r => !r.todo.isEmpty | _ => false
    if k.inst = inst && k.phase == .running && isXfer 1 k.desc && !more && !(reqsOf s).any fun r => r.inst == some inst then
      modTk s t (endTk [] (pgBytes k.desc))
    else s

/-- Rows of the entries that a GET fills in a queue end. -/
def getEntryRows (d : Desc) : List Nat := entryRows (getRows d + 1) (getRows d)

/-- A GET into a queue end as far as its strips allow: the entries from row `row` on that find room are claimed, and their bursts are
asked for, two to a row (R149, R155). -/
def getEntries (s : State) (k : Tk) (q : Nat) (r : XferRun) (row : Nat) : State :=
  let c := claimRows s k q r.todo row
  let upTo := (pgBytes k.desc / 256).min (2 * (row + (r.todo.take c.2.1.length).sum))
  let s1 := modTk c.1 k.ticket fun x => { x with run := .xfer { r with entries := r.entries ++ c.2.1, todo := c.2.2 } }
  endIfAnswered (getReads s1 k (2 * row) (upTo - 2 * row)) k.ticket k.inst

/-- Rows of the entries that a GET has claimed. -/
def rowsClaimed (d : Desc) (r : XferRun) : Nat := ((getEntryRows d).take r.entries.length).sum

/-- GET: the bytes are read where they lie and written to local memory or pushed into a queue end, entry by entry as each finds its
strips; the GET ends once every burst has come (R149, R268). -/
def execGet (t : TicketId) (s : State) : Outcome State Fault Refusal :=
  let ready (s : State) (k : Tk) : Bool := match dOutW k.desc 0 with
    | .queue q => !getOk s k || (pushTurn s k q && claimsAll s k q 512 ((getEntryRows k.desc).take 1))
    | _ => true
  match beginTk s t (isXfer 1) ready getOk with
  | .wait =>
    match getTk s t with
    | none => .next s
    | some k =>
      match k.run, dOutW k.desc 0 with
      | .xfer r, .queue q =>
        if s.power != .running || k.phase != .running || !isXfer 1 k.desc || r.todo.isEmpty || unitIsolated s (tkUnit s k) then .next s
        else if unitWrong s k (entriesRead k) then .next (settle s (unitFault s k))
        else .next (settle s (getEntries s k q r (rowsClaimed k.desc r)))
      | _, _ => .next s
  | .ended s1 => .next (settle s s1)
  | .ok s1 k =>
    let d := k.desc
    let run : XferRun := { entries := [], landed := [], todo := match dOutW d 0 with | .queue _ => getEntryRows d | _ => [] }
    let s2 := modTk s1 t fun q => { q with run := .xfer run }
    .next (settle s (match dOutW d 0 with
      | .queue q => getEntries s2 k q run 0
      | _ => endIfAnswered (getReads s2 k 0 (pgBytes d / 256)) t k.inst))

/-- Requests of a descriptor that count the fabric operation timeout: those of PUT and GET, and BURST_ADDs (R269, R279). -/
def timedAbroad (s : State) (inst : Nat) : Bool :=
  s.fabReqs.any fun p => match p.2 with
    | some (.put i _) => i == inst
    | some (.get i _ _ _ _) => i == inst
    | some (.burstAdd _ i) => i == inst
    | _ => false

/-- FABRIC_OP_TIMEOUT: a request of a PUT, GET or Arrival collective has been outstanding for the fabric operation timeout: the
descriptor completes with TIMEOUT and issues nothing further; what is outstanding continues (R269). -/
def execFabricOpTimeout (t : TicketId) (s : State) : Outcome State Fault Refusal :=
  match getTk s t with
  | none => .next s
  | some k =>
    if s.power != .running || !(k.phase == .ended || k.phase == .running) || k.causes.contains .timeout || !timedAbroad s k.inst then .next s
    else if dFamily k.desc == some .collective then
      let c := coChannel k.desc
      match (s.chans[c]).op with
      | some o => .next (settle s (pump (expireColl s c o true) c))
      | none => .next s
    else if dFamily k.desc != some .putget then .next s
    else .next (settle s (modTk (dropWaiting (noteProgress s k) k.inst) t fun q => { addCause .timeout q with phase := .ended }))

end Sys2Proof.Machine
end

