-- ==== Sys2Proof/Machine/Fabric.lean ====
section
/-! DEFINITION. The fabric's ports: flits received and passed on, links, lanes and training (R152, R258 to R268, R272, R279, R298,
R331). -/

namespace Sys2Proof.Machine

open Host

/-! ## Links (R259) -/

/-- A LINK flit to the module at a port. -/
def sendLink (s : State) (p : PortId) (arg : Nat) : State :=
  emit s (.flit p (sealFlit (ownFlit s 0 0 (s.ports[p]).peer.toNat arg [])))

/-- A flit taken in at a port is acknowledged and its credit returned, in a LINK flit (log entry 51). -/
def linkBack (s : State) (p : PortId) (f : Flit) : State :=
  let n := (s.ports[p]).rxSeq
  sendLink (modPort s p fun r => { r with rxSeq := n + 1 }) p (n.toNat * 2 ^ 52 + 2 ^ (6 * f.vc.toNat))

/-- A flit that fails the receiver's check is not taken in: a LINK flit with NAK asks for the replay of what follows the last flit
that was (R259; log entry 51). -/
def linkNak (s : State) (p : PortId) : State := sendLink s p (((s.ports[p]).rxSeq - 1).toNat * 2 ^ 52 + 2 ^ 51)

/-- A damaged flit at a port that carries traffic. -/
def damaged (s : State) (p : PortId) (f : Flit) : Bool := s.power == .running && portUsable s.ports[p] && !intact f

/-- A port's tap on received payloads: a WRITE's address is in the flit (R298). A flit from the module itself passes no port. -/
def tapReceived (s : State) (p : PortId) (f : Flit) (a : Option Nat) : State :=
  if f.src.toNat = ownModule s then s else tapFlit s (0x20 + p.val) f a

/-- A flit of one type that arrives undamaged for this module: at a port that carries traffic, or from the module itself through Midway,
where the port that the command names plays no part (R266). -/
def arrives (s : State) (p : PortId) (f : Flit) (typ : Nat) : Bool :=
  s.power == .running && (s.ownFlits.contains f || (portUsable s.ports[p] && intact f)) && f.typ.toNat == typ
    && f.dest.toNat == ownModule s

/-- A flit is taken in: it leaves Midway, or its link is acknowledged. -/
def landFlit (s : State) (p : PortId) (f : Flit) : State :=
  if s.ownFlits.contains f then { s with ownFlits := s.ownFlits.erase f } else linkBack s p f

/-- A received flit of a type: its own module's, at a usable port, of a size that a flit has. -/
def receive (p : PortId) (f : Flit) (typ : Nat) (serve : State → State) (s : State) : Outcome State Fault Refusal :=
  if !flitSized f then .fault .malformedTransfer
  else if !s.ownFlits.contains f && damaged s p f then .next (settle s (linkNak s p))
  else if !arrives s p f typ then .next s
  else .next (settle s (serve (landFlit s p f)))

/-! ## Requests that are answered (R268) -/

/-- What the answer to a request does where it is not data: a status for a write, a set or an add, INVALID for a read. A READ of the
restore logic that is refused brings nothing, and its timeout ends the restore (R338; DEDUCED, log entry 25). -/
def answerReq (s : State) (r : FabReq) (x : BitVec 8) : State :=
  let bad := x == Status.invalid.code
  let note (k : Tk) : Tk :=
    if bad then addCause .invalid k
    else if x == Status.eccUncorr.code then meetPoison 0 k
    else if x == Status.hot.code && dFamily k.desc == some .putget then addCause .hot k
    else k
  match r with
  | .put i t => modInst s t i note
  | .get i t _ _ _ => endIfAnswered (modInst s t i note) t i
  | .stream i t lo n seen =>
    (List.range n).foldl (fun s b => if seen.contains b then s else modInst s t i (bringBurst (lo + b) [] false false)) s
  | .flagSet i t =>
    if bad then
      (match instTk s t i with
       | some k => refuseSet (modInst s t i (addCause .invalid)) k
       | none => s)
    else s
  | .burstAdd c i =>
    if (s.chans[c]).op.any fun o => o.k.inst == i then
      pump (modOp s c fun o => { o with addsDue := o.addsDue - 1, causes := if bad then addOnce o.causes .invalid else o.causes }) c
    else s
  | .mirror j step _ =>
    if (s.slots[j]).copy.any fun c => c.step == step then
      if bad then failCopy s j .invalid
      else advanceCopy (modSlot s j fun r => { r with copy := r.copy.map fun c => { c with acks := c.acks - 1 } }) j
    else s
  | .restoreHeader _ _ _ | .restore _ _ _ _ _ _ => s

/-- A request that waited goes out under the TAG that has come free (R268). -/
def sendWaiting (s : State) : State :=
  match freeTag s, s.waitReqs with
  | some t, (r, f) :: l =>
    let s := { s with waitReqs := l }
    let s := match r with
      | .burstAdd c i =>
        (match (s.chans[c]).op with
         | some o =>
           if o.k.inst = i && coDigest o.k.desc then
             let k := if collFn o.k.desc = 1 then ((List.range (memberCount s c)).find? fun m => memberModule s c m == f.dest.toNat).getD 0 else 0
             modOp s c fun o => { o with digOut := foldDigest o.digOut (digKey k f.dest.toNat) (withTag f t).arg.toNat f.payload }
           else s
         | none => s)
      | _ => s
    match sendRequest s r f with
    | (s', true) => s'
    | (s', false) => if f.typ = 6 then s' else answerReq s' r Status.invalid.code
  | _, _ => s

/-- The request under a TAG is answered for good. -/
def closeReq (s : State) (tag : Nat) : State := sendWaiting (putReq s tag none)

def flitTag (f : Flit) : Nat := bitsOf f.arg 63 51

/-! ## WRITE and READ (R210, R264, R268, R331) -/

/-- The half of a net-host entry whose MODULE is the flit's SRC that holds n bytes at a local address: where the half begins. -/
def netHome (s : State) (f : Flit) (a n : Nat) : Option Nat :=
  (List.range 16).findSome? fun i =>
    let e := sparseGet 0 s.netHosts i
    if !netValid e || netModule e != f.src.toNat then none
    else (List.range 2).findSome? fun h =>
      let b := netBase e + h * netHalf e
      if decide (b ≤ a ∧ a + n ≤ b + netHalf e) then some b else none

/-- A request of another module for n bytes at a local address is served: populated and clear of the head region, and on virtual
channel 7 within its own net. -/
def peerMay (s : State) (f : Flit) (a n : Nat) : Bool :=
  a % 256 == 0 && jobRange a n && (f.vc != 7 || (netHome s f a n).isSome)

/-- A burst from a partner's mirror engine passes the receiving tap, with its copy sequence number behind the header (R298,
R324). -/
def tapMirror (s : State) (f : Flit) (a : Nat) : State :=
  match if f.vc = 7 then netHome s f a 256 else none with
  | none => s
  | some b =>
    let s := tapBurst s 0x61 false (globalOf s a) f.payload false
    if b + 4096 ≤ a then tapBurst s 0x61 true ((a - b - 4096) / 256) f.payload false else s

/-- The status of an answered WRITE: lost with a tripped stack, at level 05h, or performed (R221, R222; log entry 50). -/
def writeAnswer (lost hot : Bool) : Status := if lost then .eccUncorr else if hot then .hot else .ok

/-- WRITE_FLIT: the home writes the burst and acknowledges it. A burst that a copy still holds is served later (R329). -/
def execWriteFlit (p : PortId) (f : Flit) (s : State) : Outcome State Fault Refusal :=
  let a := bitsOf f.arg 42 0
  if arrives s p f 1 && flitSized f && peerMay s f a 256 && heldBurst s (a / 256) then .next s
  else receive p f 1 (fun s =>
    let s := tapReceived s p f (writeAddr f)
    if !peerMay s f a 256 then ackTo s f .invalid
    else
      let r := writeWhole (tapMirror s f a) (a / 256) f.payload
      let s := r.1
      ackTo s f (writeAnswer r.2 (burstHot s (a / 256)))) s

/-- READ_FLIT: one DATA flit for each burst, marked HOT or POISON; a request that is not served is answered by an ACK. -/
def execReadFlit (p : PortId) (f : Flit) (s : State) : Outcome State Fault Refusal :=
  let a := bitsOf f.arg 42 0
  let n := bitsOf f.arg 50 43 + 1
  receive p f 2 (fun s =>
    if !peerMay s f a (256 * n) then ackTo s f .invalid
    else (List.range n).foldl (fun s i =>
      let b := a / 256 + i
      let bad := burstBad s b
      let arg := tagArg (flitTag f) (i * 2 ^ 43 + 2 * bnat (burstHot s b) + bnat bad)
      let x := takenBurst (touchBurst s b) (burstBytes s b) bad
      (sendFlitAt x.1 (ownFlit x.1 0x03 4 f.src.toNat arg x.2) (some (globalOf s (256 * b)))).1) s) s

/-! ## DATA and ACK (R201, R268) -/

/-- Burst i of a request comes back; the request is closed with its last one. -/
def takeData (s : State) (p : PortId) (f : Flit) : State :=
  let tag := flitTag f
  let i := bitsOf f.arg 50 43
  let bad := bitOf f.arg 0
  let hot := bitOf f.arg 1
  match sparseGet none s.fabReqs tag with
  | some (.get inst t lo n seen) =>
    if n ≤ i || seen.contains i then s
    else
      let seen := i :: seen
      match instTk s t inst with
      | none => if seen.length = n then closeReq s tag else putReq s tag (some (.get inst t lo n seen))
      | some k =>
        let s := tapReceived s p f (some (pgSrc k.desc / 256 * 256 + 256 * (lo + i)))
        let s := getLands s k (lo + i) f.payload bad hot
        if seen.length = n then endIfAnswered (closeReq s tag) t inst else putReq s tag (some (.get inst t lo n seen))
  | some (.stream inst t lo n seen) =>
    if n ≤ i || seen.contains i then s
    else
      let seen := i :: seen
      let s := tapReceived s p f (some (256 * (lo + i - 2 ^ 60)))
      let s := modInst s t inst (bringBurst (lo + i) f.payload bad hot)
      if seen.length = n then closeReq s tag else putReq s tag (some (.stream inst t lo n seen))
  | some (.restoreHeader j run a) => if i = 0 then closeReq (headerArrives (tapReceived s p f (some a)) j run a f.payload bad) tag else s
  | some (.restore j run a lo n seen) =>
    if n ≤ i || seen.contains i then s
    else
      let seen := i :: seen
      let s := payloadArrives (tapReceived s p f (some (a + 256 * i))) j run (lo + i) f.payload bad
      if seen.length = n then closeReq s tag else putReq s tag (some (.restore j run a lo n seen))
  | _ => s

/-- DATA_FLIT. -/
def execDataFlit (p : PortId) (f : Flit) (s : State) : Outcome State Fault Refusal := receive p f 3 (fun s => takeData s p f) s

/-- ACK_FLIT: the request is answered with a status; a read is answered so only where it is refused. -/
def execAckFlit (p : PortId) (f : Flit) (s : State) : Outcome State Fault Refusal :=
  receive p f 4 (fun s =>
    let tag := flitTag f
    match sparseGet none s.fabReqs tag with
    | none => s
    | some r =>
      let s := putReq s tag none
      sendWaiting (answerReq s r (f.arg.setWidth 8))) s

/-! ## FLAGSET (R152) -/

/-- FLAGSET_FLIT: the set is performed at the flag's home or refused. The flit names no job slot, so the flag's own stands for
it (log entry 50). -/
def execFlagsetFlit (p : PortId) (f : Flit) (s : State) : Outcome State Fault Refusal :=
  receive p f 5 (fun s =>
    let d : Die := Fin.ofNat 4 (bitsOf f.arg 35 34)
    let flag : BitVec 12 := BitVec.ofNat 12 (bitsOf f.arg 47 36)
    let inc : BitVec 8 := f.arg.setWidth 8
    if controlWrong s (.dispatch d) [(.flag d, flag.toNat)] then
      controlFault s (.dispatch d) (unitByte 0 d.val) (feSlot (flagEntry s d flag)) 0
    else match if inc = 0 then none else setFlagAt s d flag (feSlot (flagEntry s d flag)) none 0 inc with
    | some s' => ackTo (noteWaits s') f .ok
    | none => ackTo s f .invalid) s

/-! ## Flits of the collectives (R263, R272, R279) -/

/-- BURST_ADD_FLIT: performed at the home of the channel's collective and acknowledged. -/
def execBurstAddFlit (p : PortId) (f : Flit) (s : State) : Outcome State Fault Refusal :=
  receive p f 6 (fun s =>
    let c : ChanId := Fin.ofNat 64 (bitsOf f.arg 50 45)
    pump (performAdd s c f) c) s

/-- A block of the collective in flight is kept for the chain, and the collective goes on; a block past COUNT, any block of a CHAIN for
a norm collective, and a misplaced LAST abort it (R272). -/
def takeBlock (s : State) (f : Flit) (residue : Bool) : State :=
  let c := argChannel f
  match (s.chans[c]).op with
  | none => s
  | some o =>
    let b := bitsOf f.arg 25 3
    if !currentFlit s c f || o.played || (isNormColl o.k.desc && f.typ == 0x11) then s
    else if coCount o.k.desc ≤ 64 * b || (bitOf f.arg 0 && !lastBlock s c o.k.desc b) then abortAll s c
    else if o.blocks.any (fun x => x.src == f.src.toNat && x.block == b && x.result == (f.typ == 0x11)) then s
    else
      let x : Blk := { src := f.src.toNat, result := f.typ == 0x11, block := b, nonfinite := bitOf f.arg 2, arg := f.arg, payload := f.payload }
      let s := modOp s c fun o => { o with blocks := o.blocks ++ [x] }
      if residue && !isGather o.k.desc then engineFails s c else pump s c

/-- CHAIN_FLIT. -/
def execChainFlit (p : PortId) (f : Flit) (residue : Bool) (s : State) : Outcome State Fault Refusal :=
  receive p f 0x10 (fun s => takeBlock s f residue) s

/-- RESULT_FLIT. -/
def execResultFlit (p : PortId) (f : Flit) (residue : Bool) (s : State) : Outcome State Fault Refusal :=
  receive p f 0x11 (fun s => takeBlock s f residue) s

/-- RIDE_FLIT: a block of the ride record. -/
def execRideFlit (p : PortId) (f : Flit) (residue : Bool) (s : State) : Outcome State Fault Refusal :=
  receive p f 0x13 (fun s =>
    let c := argChannel f
    match (s.chans[c]).op with
    | none => s
    | some o =>
      let b := bitsOf f.arg 25 3
      if !currentFlit s c f || o.played || !isNormColl o.k.desc || o.blocks.any (fun x => x.src == f.src.toNat && x.block == b) then s
      else
        let x : Blk := { src := f.src.toNat, result := false, block := b, nonfinite := false, arg := f.arg, payload := f.payload }
        let s := modOp s c fun o => { o with blocks := o.blocks ++ [x] }
        if residue then engineFails s c else pump s c) s

/-- READY, DIGEST and NOTICE: for the collective in flight at once, for one to come held; a CSEQ that the engine finds wrong faults it (R294). A NOTICE DIGEST_BAD behind the completion of
the last one still makes its step suspect (R286; log entry 79). -/
def controlFlit (s : State) (p : PortId) (f : Flit) : State :=
  let c := argChannel f
  if unitIsolated s .collective then s
  else if (s.chans[c]).op.any fun o => unitWrong s o.k [] then
    (match (s.chans[c]).op with
     | some o => unitFault s o.k
     | none => s)
  else if currentFlit s c f then pump (takeControl s c p f) c
  else if futureFlit s c f then modChan s c fun r => { r with held := r.held ++ [f] }
  else match (s.chans[c]).last with
    | some (q, slot, t, step) =>
      if f.typ = 0x15 && bitsOf f.arg 7 0 = 2 && q.toNat = bitsOf f.arg 57 26 then digestWrong s c p slot t step else s
    | none => s

/-- READY_FLIT. -/
def execReadyFlit (p : PortId) (f : Flit) (s : State) : Outcome State Fault Refusal := receive p f 0x12 (fun s => controlFlit s p f) s

/-- DIGEST_FLIT. -/
def execDigestFlit (p : PortId) (f : Flit) (s : State) : Outcome State Fault Refusal := receive p f 0x14 (fun s => controlFlit s p f) s

/-- A NOTICE with one code. -/
def notice (code : Nat) (p : PortId) (f : Flit) (s : State) : Outcome State Fault Refusal :=
  if flitSized f && intact f && bitsOf f.arg 7 0 != code then .next s else receive p f 0x15 (fun s => controlFlit s p f) s

/-- NOTICE_ABSENT. -/
def execNoticeAbsent (p : PortId) (f : Flit) (s : State) : Outcome State Fault Refusal := notice 1 p f s

/-- NOTICE_DIGEST_BAD. -/
def execNoticeDigestBad (p : PortId) (f : Flit) (s : State) : Outcome State Fault Refusal := notice 2 p f s

/-- NOTICE_ABORT. -/
def execNoticeAbort (p : PortId) (f : Flit) (s : State) : Outcome State Fault Refusal := notice 3 p f s

/-! ## LINK (R259) -/

/-- Flits in the replay buffer that an ACK_SEQ acknowledges. -/
def ackedCount (r : PortR) (ack : BitVec 12) : Nat :=
  let n := r.replayBuf.length
  let k := (ack + 1 - (r.nextSeq - BitVec.ofNat 12 n)).toNat
  if k ≤ n then k else 0

/-- LINK_FLIT: credits come back, flits are acknowledged, and a NAK has those after ACK_SEQ replayed (log entry 51). -/
def execLinkFlit (p : PortId) (f : Flit) (s : State) : Outcome State Fault Refusal :=
  if !flitSized f then .fault .malformedTransfer
  else if damaged s p f then .next (settle s (linkNak s p))
  else if s.power != .running || !portUsable s.ports[p] || f.typ != 0 then .next s
  else
    let r := s.ports[p]
    let left := r.replayBuf.drop (ackedCount r (BitVec.ofNat 12 (bitsOf f.arg 63 52)))
    let credits : Vector Nat 8 := Vector.ofFn fun (v : Fin 8) => r.credits[v] + bitsOf f.arg (6 * v.val + 5) (6 * v.val)
    let s1 := modPort s p fun r => { r with replayBuf := left, credits := credits }
    let s2 := if bitOf f.arg 51 then
        left.foldl (fun s g => emit s (.replayed p g)) (modPort s1 p fun r => { r with replays := countUp r.replays })
      else s1
    .next (settle s (drainOut s2.outQueue.length s2))

/-! ## Routing (R263, R266) -/

/-- The types of R263. -/
def knownType (t : BitVec 8) : Bool := t.toNat ≤ 6 || (0x10 ≤ t.toNat && t.toNat ≤ 0x15)

/-- FLIT_FORWARD: a flit for another module leaves by a port of its entry's mask that the occupancy picks, or is dropped. -/
def execFlitForward (inPort outPort : PortId) (f : Flit) (s : State) : Outcome State Fault Refusal :=
  if !flitSized f then .fault .malformedTransfer
  else if damaged s inPort f then .next (settle s (linkNak s inPort))
  else if s.power != .running || !portUsable s.ports[inPort] || f.typ = 0 || !knownType f.typ || f.dest.toNat == ownModule s then .next s
  else if controlWrong s (.linkDie (linkDieOf inPort)) [(.routing (linkDieOf inPort), f.dest.toNat)] then
    .next (settle s (dropStranded (linkDieFault s (linkDieOf inPort))))
  else
    let ps := routePorts s f.dest.toNat
    let key := (if f.typ = 3 then f.dest else f.src).toNat * 8192 + flitTag f
    let a : Option Nat := if f.typ = 3 then (sparseGet none s.readsPassed key).map fun a => a + 256 * bitsOf f.arg 50 43 else writeAddr f
    let taken (s : State) : State := tapReceived (linkBack s inPort f) inPort f a
    if f.ttl = 0 || ps.isEmpty then .next (settle s (dropFlit (taken s) f))
    else if !ps.contains outPort || (s.ports[outPort]).credits[vcIx f] = 0 then .next s
    else
      let s1 := if f.typ = 2 then
          { s with readsPassed := sparseSet none s.readsPassed key (some (f.dest.toNat * localSize + bitsOf f.arg 42 0)) }
        else s
      .next (settle s (transmit (taken s1) outPort { f with ttl := f.ttl - 1 } a))

/-- FLIT_OF_OTHER_TYPE: dropped and counted (R263). -/
def execFlitOfOtherType (p : PortId) (f : Flit) (s : State) : Outcome State Fault Refusal :=
  if damaged s p f then .next (settle s (linkNak s p))
  else if s.power != .running || !portUsable s.ports[p] || knownType f.typ then .next s
  else .next (settle s (countDrop (linkBack s p f)))

/-! ## Lanes and training (R260, R261) -/

/-- The spare lane may be used: lane repair owns it, and it carries nothing and has not failed. -/
def spareFree (s : State) (p : PortId) : Bool :=
  let r := s.ports[p]
  sparseGet 0x20 s.owners.lanes p.val == 0x20 && r.repaired.isNone && r.moving.isNone && !r.spareBad

/-- The half that holds a lane: false for lanes 0 to 3. -/
def laneHalf (l : Nat) : Bool := 4 ≤ l

/-- The port runs on the half without the failed lane, or goes DOWN where it had only that half (R261). A move onto the spare that is
under way goes on where its lane lies in the half that is left. -/
def loseHalf (s : State) (p : PortId) (l : Nat) : State :=
  let r := s.ports[p]
  if r.state = 4 then
    if laneHalf l = r.lostHalf.getD true then s
    else failEntry (dropStranded (modPort s p fun r => { portDown r with downed := true })) 0x06 (unitByte 0 0) p.val 0 0
  else
    failEntry (modPort s p fun r =>
      { r with state := 4, moving := r.moving.filter fun m => laneHalf m.val != laneHalf l, lostHalf := some (laneHalf l) })
      0x05 (unitByte 0 0) p.val 0 0

/-- LANE_FAILURE: the spare begins to train, or the port falls to HALF or DOWN. Lane 8 is the spare. -/
def execLaneFailure (p : PortId) (lane : Fin 9) (s : State) : Outcome State Fault Refusal :=
  let r := s.ports[p]
  if s.power != .running || !portUsable r then .next s
  else
    let s1 := modPort s p fun r => { r with failures := countUp r.failures, spareBad := r.spareBad || lane = 8 }
    if h : lane.val < 8 then
      let l : Fin 8 := ⟨lane.val, h⟩
      if r.repaired = some l || r.moving = some l then .next s
      else if r.state = 2 && spareFree s p then .next (settle s (modPort s1 p fun r => { r with moving := some l }))
      else .next (settle s (loseHalf s1 p l.val))
    else if r.spareBad then .next s
    else match r.repaired, r.moving with
      | some l, _ => .next (settle s (loseHalf s1 p l.val))
      | none, some l => .next (settle s (loseHalf s1 p l.val))
      | none, none => .next (settle s s1)

/-- SPARE_LANE_SWITCH: the trained spare takes over the failing lane; the port enters UP_SPARE and the repair is recorded (R260
step 3). A port that has fallen to HALF meanwhile stays HALF. -/
def execSpareLaneSwitch (p : PortId) (s : State) : Outcome State Fault Refusal :=
  let r := s.ports[p]
  match r.moving with
  | none => .next s
  | some l =>
    if s.power != .running || !(r.state = 2 || r.state = 4) then .next s
    else
      let s1 := modPort s p fun r => { r with state := if r.state = 4 then 4 else 3, repaired := some l, moving := none }
      let s2 := { s1 with nv := { s1.nv with lanes := s1.nv.lanes.set p (some l) } }
      .next (settle s (failEntry s2 0x04 (unitByte 0 0) l.val p.val 0))

/-- PORT_TRAINING_COMPLETE: a port that trains joins traffic: UP, UP_SPARE where its lane stays repaired, HALF where the narrower
view of the two ends says so (R261); `half` is the half that the peer's view leaves out. A port trains after a reset and after a
write of its enable, and one that carries traffic falls to HALF when the peer has. -/
def execPortTrainingComplete (p : PortId) (peer : BitVec 13) (half : Option Bool) (s : State) : Outcome State Fault Refusal :=
  let r := s.ports[p]
  let trains := !s.isolated.contains (.linkDie (linkDieOf p)) && (r.state = 1 || (r.state = 0 && !r.downed && bitOf s.fabric.portEnable p.val))
  let narrows := (r.state = 2 || r.state = 3) && half.isSome
  if s.power != .running || !(trains || narrows) then .next s
  else
    let lost := r.lostHalf.or half
    let st : Fin 5 := if lost.isSome then 4 else if r.repaired.isSome then 3 else 2
    let s1 := modPort s p fun r => { r with state := st, peer := peer.setWidth 16, downed := false, lostHalf := lost }
    let s2 := if lost.isSome && r.lostHalf.isNone then failEntry s1 0x05 (unitByte 0 0) p.val 0 0 else s1
    .next (settle s (drainOut s2.outQueue.length s2))

end Sys2Proof.Machine
end

