-- ==== Sys2Proof/Machine/Owner.lean ====
section
/-! DEFINITION. Owners of shared resources: claims, releases and the software alert (R385 to R387). -/

namespace Sys2Proof.Machine

def ownerNone : BitVec 8 := 0xFF
def ownerHead : BitVec 8 := 0x22
def ownerManager : BitVec 8 := 0x23
def ownerModule : BitVec 8 := 0x24

def isSlotOwner (o : BitVec 8) : Bool := o.toNat < 16

/-- Owner of an oscillator that nobody has claimed (R385). -/
def oscDefault (i : Nat) : BitVec 8 := if 5 ≤ i / 64 || i % 64 < 16 then ownerModule else ownerNone

def tapOwner (s : State) (i : Nat) : BitVec 8 := sparseGet ownerNone s.owners.taps i
def oscOwner (s : State) (i : Nat) : BitVec 8 := sparseGet (oscDefault i) s.owners.oscillators i
def laneOwner (s : State) (i : Nat) : BitVec 8 := sparseGet 0x20 s.owners.lanes i

/-- A claim request's fields (R386). -/
structure ClaimReq where
  op : Nat
  kind : Nat
  index : Nat
  owner : BitVec 8
  base : Nat
  count : Nat
  deriving DecidableEq, Repr

def claimOf (l : List Byte) : ClaimReq :=
  { op := fieldNat l 0 1, kind := fieldNat l 1 1, index := fieldNat l 2 2, owner := BitVec.ofNat 8 (fieldNat l 4 1),
    base := fieldNat l 8 4, count := fieldNat l 12 4 }

/-- The "Owners allowed" column, and indices in range (R385). -/
def claimAllowed (r : ClaimReq) : Bool :=
  match r.kind with
  | 0 => r.index < 128 && isSlotOwner r.owner
  | 1 => r.index < 320 && 16 ≤ r.index % 64 && isSlotOwner r.owner
  | 2 => r.index < 32 && r.owner == 0x20
  | 3 => r.index == 0 && (r.owner == ownerHead || r.owner == ownerManager)
  | 4 => isSlotOwner r.owner || r.owner == 0x21 || r.owner == ownerHead
  | _ => false

/-- Present owner of a resource that is no range. -/
def holderOf (s : State) (r : ClaimReq) : BitVec 8 :=
  match r.kind with
  | 0 => tapOwner s r.index
  | 1 => oscOwner s r.index
  | 2 => laneOwner s r.index
  | _ => s.owners.alert

def setHolder (s : State) (r : ClaimReq) (o : BitVec 8) : State :=
  let w := s.owners
  match r.kind with
  | 0 => { s with owners := { w with taps := sparseSet ownerNone w.taps r.index o } }
  | 1 => { s with owners := { w with oscillators := sparseSet (oscDefault r.index) w.oscillators r.index o } }
  | 2 => { s with owners := { w with lanes := sparseSet 0x20 w.lanes r.index o } }
  | _ => { s with owners := { w with alert := o, software := w.software && o != ownerNone } }

/-- EXCLUDED ranges are kept in the non-volatile store (R385). -/
def keepExcluded (s : State) : State :=
  { s with nv := { s.nv with excluded := s.owners.ranges.filterMap fun p =>
      if p.2.2.2 = 0x21 then some (p.1, p.2.1, p.2.2.1) else none } }

/-- Claims a tier-2 range: a new entry, unless the owner holds this very range. -/
def claimRange (s : State) (r : ClaimReq) : State × Status :=
  let a := r.base * 0x200000
  let n := r.count * 0x200000
  let w := s.owners
  if r.count = 0 || !inTier2 a n || headBase < a + n then (s, .invalid)
  else if !rangeFree s a n r.owner then (s, .conflict)
  else if w.ranges.any fun p => p.2 == (r.base, r.count, r.owner) then (s, .ok)
  else match (List.range 64).find? fun i => (sparseGet (0, 0, 0) w.ranges i).2.1 == 0 with
    | none => (s, .invalid)
    | some i => (keepExcluded { s with owners := { w with ranges := sparseSet (0, 0, 0) w.ranges i (r.base, r.count, r.owner) } }, .ok)

/-- Whether a release must wait (R387). -/
def releaseBusy (s : State) (r : ClaimReq) : Bool :=
  match r.kind with
  | 0 => s.cvus.toList.any fun c => c.armed && c.tap.toNat == r.index
  | 1 => isSlotOwner r.owner && slotBusy s (Fin.ofNat 16 r.owner.toNat) none
  | 2 => ((s.ports[(Fin.ofNat 32 r.index : PortId)]).repaired).isSome
  | _ => false

def claimResult (s : State) (r : ClaimReq) : State × Status :=
  if !claimAllowed r then (s, .invalid)
  else match r.op with
    | 1 =>
      if r.kind = 4 then claimRange s r
      else if holderOf s r == ownerNone || holderOf s r == r.owner then (setHolder s r r.owner, .ok)
      else (s, .conflict)
    | 2 =>
      if r.kind = 4 then
        let e := sparseGet (0, 0, 0) s.owners.ranges r.index
        if 64 ≤ r.index || e.2.1 = 0 then (s, .invalid)
        else if e.2.2 != r.owner then (s, .conflict)
        else (keepExcluded { s with owners := { s.owners with ranges := sparseErase s.owners.ranges r.index } }, .ok)
      else if holderOf s r != r.owner then (s, .conflict)
      else if releaseBusy s r then (s, .busy)
      else (setHolder s r ownerNone, .ok)
    | _ => (s, .invalid)

/-- A write of 7F00h:10; 7F00h:11 holds the result. -/
def writeClaim (data : List Byte) (s : State) : WriteResult :=
  if data.length > 16 then failWith s .invalid
  else
    let r := claimResult s (claimOf (fitBytes 16 data))
    ({ r.1 with owners := { r.1.owners with claimStatus := r.2 } }, some r.2)

/-- The party behind a port, for 7F00h:12. -/
def partyOf (port : Port) : Option (BitVec 8) :=
  match port with
  | .ucie => some ownerHead
  | .request _ _ => some ownerManager
  | .tool _ _ => none

/-- A write of 7F00h:12, the owner's alone (R387). -/
def writeSoftwareAlert (port : Port) (data : List Byte) (s : State) : WriteResult :=
  if data.length != 1 || 1 < leNat data then failWith s .invalid
  else if partyOf port != some s.owners.alert then failWith s .conflict
  else okWith { s with owners := { s.owners with software := leNat data == 1 } }

end Sys2Proof.Machine
end

