-- ==== Sys2Proof/Machine/Security.lean ====
section
/-! DEFINITION. Library loads and switches, firmware bundles, measurements and quotes (R181 to R185, R401 to R408). -/

namespace Sys2Proof.Machine

open Host

/-! ## Signed images (R182, R401, R402) -/

/-- The firmware key of a slot in the fuses. -/
def fusedKey (i : Fin 4) : List Byte := (List.finRange 64).map (Config.firmwareKey i)

/-- The firmware keys that are not revoked. -/
def firmwareKeys (s : State) : List (List Byte) :=
  ((List.finRange 4).filter fun i => !(s.security.revoked)[i]).map fusedKey

/-- A library image in whole: its fields, digest and signature under one of the keys given (R183). -/
def imageOk (keys : List (List Byte)) (b : List Byte) : Bool :=
  let n := fieldNat b 8 4
  fieldNat b 0 4 == 0x4E445431 && inRange 1024 65536 n && n % 256 == 0
    && sliceBytes b 16 32 == shake256 (sliceBytes b 256 n)
    && keys.any fun k => Config.slhVerify k (b.take (256 + n)) (sliceBytes b (256 + n) 29792)

/-- The code of an image, its version, its digest. -/
def imageCode (b : List Byte) : List Byte := sliceBytes b 256 (fieldNat b 8 4)
def imageVersion (b : List Byte) : BitVec 32 := BitVec.ofNat 32 (fieldNat b 4 4)
def imageDigest (b : List Byte) : List Byte := sliceBytes b 16 32

def up256 (n : Nat) : Nat := (n + 255) / 256 * 256
def bundleHub (b : List Byte) : Nat := fieldNat b 12 4
def bundleHead (b : List Byte) : Nat := fieldNat b 16 4
def bundleLib (b : List Byte) : Nat := fieldNat b 20 4
/-- Bytes of a bundle, from its header's lengths. -/
def bundleBytes (b : List Byte) : Nat := 30208 + bundleHub b + bundleHead b + up256 (bundleLib b)
def bundleImage (b : List Byte) : List Byte := sliceBytes b (30208 + bundleHub b + bundleHead b) (bundleLib b)

/-- A bundle that verifies (R402). -/
def bundleOk (s : State) (b : List Byte) : Bool :=
  let slot := fieldNat b 10 1
  let hub := sliceBytes b 30208 (bundleHub b)
  let head := sliceBytes b (30208 + bundleHub b) (bundleHead b)
  fieldNat b 0 4 == 0x46575431 && slot < 4 && s.security.fusedSvn.toNat ≤ fieldNat b 8 2
    && bundleHub b % 256 == 0 && bundleHead b % 256 == 0
    && sliceBytes b 32 32 == shake256 hub && sliceBytes b 64 32 == shake256 head && sliceBytes b 96 32 == shake256 (bundleImage b)
    && !(s.security.revoked)[(Fin.ofNat 4 slot)]
    && Config.slhVerify (fusedKey (Fin.ofNat 4 slot)) (b.take 256) (sliceBytes b 256 29792)
    && imageOk [fusedKey (Fin.ofNat 4 slot)] (bundleImage b)

/-- The bundle that the module was delivered with verifies, its signature and digests being right: its key is not revoked, and its SVN
is at least the fused one (R402; log entry 15). -/
def factoryOk (s : State) : Bool :=
  s.security.fusedSvn.toNat ≤ Config.factorySvn.toNat
    && ((s.security.revoked.toList.all fun r => !r) || !(s.security.revoked)[Config.factoryKeySlot])

/-! ## Measurements (R406) -/

def extendMr (s : State) (i : Fin 8) (d : List Byte) : State :=
  { s with security := { s.security with mr := s.security.mr.set i (shake256 ((s.security.mr)[i] ++ fitBytes 32 d)) } }

/-- A write of 7000h:0A. -/
def writeExtend (data : List Byte) (s : State) : WriteResult :=
  if 32 < data.length then failWith s .invalid else okWith (extendMr s 7 data)

/-! ## Libraries (R183, R184) -/

def bankOf (r : DieR) (b : Bool) : Bank := if b then r.bankB else r.bankA
def setBank (r : DieR) (b : Bool) (x : Bank) : DieR := if b then { r with bankB := x } else { r with bankA := x }
def setCmdStatus (s : State) (d : Die) (st : Status) : State := modDie s d fun r => { r with cmdStatus := st }

/-- A write of 3300h + d:05. -/
def writeLoadSource (d : Die) (data : List Byte) (s : State) : WriteResult :=
  writeValue 8 data (fun v => v % 256 == 0 && inDieStacks d v 256) (fun v s =>
    modDie s d fun r => { r with loadSource := BitVec.ofNat 64 v }) s

/-- A write of 3300h + d:06. -/
def writeLoad (d : Die) (data : List Byte) (s : State) : WriteResult :=
  let b := data == [2]
  let r := s.dies[d]
  if data != [1] && data != [2] then failWith s .invalid
  else
    let st := (bankOf r b).state
    if st == .active || st == .draining || st == .loading then failWith (setCmdStatus s d .busy) .busy
    else okWith (modDie s d fun r =>
      { setBank r b { bankOf r b with state := .loading } with loading := some (r.loadSource.toNat, b), cmdStatus := .busy })

/-- A write of 3300h + d:07. -/
def writeSwitch (d : Die) (data : List Byte) (s : State) : WriteResult :=
  let r := s.dies[d]
  let b := !r.activeB
  if data != [1] then failWith s .invalid
  else if (bankOf r b).state == .loading then failWith (setCmdStatus s d .busy) .busy
  else if (bankOf r b).state != .loaded then failWith (setCmdStatus s d .invalid) .invalid
  else
    let s := modDie s d fun r =>
      let r := setBank (setBank r b { bankOf r b with state := .active }) (!b) { bankOf r (!b) with state := .draining }
      { r with activeB := b, cmdStatus := .ok }
    okWith (settleBanks s d)

/-- LIBRARY_LOAD_COMPLETE: the verifier has judged the image of a load (R183 steps 3 and 4). -/
def execLibraryLoadComplete (d : Die) (s : State) : Outcome State Fault Refusal :=
  match (s.dies[d]).loading with
  | none => .next s
  | some (a, b) =>
    if s.power != .running then .next s
    else
      let n := 256 + memNat s (a + 8) 4 % 2 ^ 17 + 29792
      let img := memBytes s a n
      let ok := !spanBad s a n && imageOk (firmwareKeys s) img
      let s1 := modDie (readSpan s a n).1 d fun r =>
        let x : Bank := if ok then { state := .loaded, version := imageVersion img, code := imageCode img } else {}
        { setBank r b x with loading := none, cmdStatus := if ok then .ok else .invalid }
      let s2 := if ok then extendMr s1 ⟨3 + d.val, by omega⟩ (imageDigest img) else s1
      .next (settle s (raiseEvent s2 0x05 d 0 0 0 0 ((if ok then 0 else 0x10) + 256 * bnat b)))

/-! ## Updates (R405) -/

/-- A write of 7000h:06. -/
def writeUpdateSource (data : List Byte) (s : State) : WriteResult :=
  writeValue 8 data (fun v => v % 256 == 0 && headBase ≤ v && v < tier2End) (fun v s =>
    { s with security := { s.security with updateSource := BitVec.ofNat 64 v } }) s

/-- SVN of the running bundle. -/
def runningSvn (s : State) : Nat :=
  if s.security.runningB then fieldNat s.nv.slotB 8 2
  else if s.nv.factoryA then Config.factorySvn.toNat
  else fieldNat s.nv.slotA 8 2

/-- A write of 7000h:07. -/
def writeUpdate (data : List Byte) (s : State) : WriteResult :=
  let c := s.security
  if c.updating.isSome then failWith s .busy
  else if data == [1] then okWith { s with security := { c with updating := some c.updateSource.toNat, status := 0x0B } }
  else if data == [2] then
    okWith { s with nv := { s.nv with bootB := !c.runningB }, security := { c with status := 0 } }
  else if data == [3] then
    okWith { s with security := { c with status := 0, fusedSvn := BitVec.ofNat 16 (max c.fusedSvn.toNat (runningSvn s)) } }
  else failWith s .invalid

/-- UPDATE_COMPLETE: the bundle has been verified and, where it verifies, written into the slot that is not running. -/
def execUpdateComplete (s : State) : Outcome State Fault Refusal :=
  match s.security.updating with
  | none => .next s
  | some a =>
    if s.power != .running then .next s
    else
      let b := memBytes s a (bundleBytes (memBytes s a 256))
      let ok := !spanBad s a b.length && bundleOk s b
      let c := { s.security with updating := none, status := if ok then 0x00 else 0x10 }
      let s1 := (readSpan s a b.length).1
      let n := if !ok then s1.nv
        else if s.security.runningB then { s1.nv with slotA := b, factoryA := false } else { s1.nv with slotB := b }
      .next (settle s { s1 with security := c, nv := n })

/-! ## Quotes (R408) -/

/-- The first 384 bytes of a quote. -/
def quoteHead (s : State) (qseq : BitVec 32) (nonce : List Byte) : List Byte :=
  let c := s.security
  leBytes 4 0x51545431 ++ leBytes 2 1 ++ wordBytes 2 s.fabric.moduleId ++ wordBytes 4 qseq ++ wordBytes 4 s.nv.powerUps
    ++ wordBytes 4 c.firmware ++ wordBytes 2 c.fusedSvn ++ leBytes 10 0 ++ fitBytes 32 nonce ++ (c.mr.toList).flatten
    ++ (List.finRange 16).map Config.serial ++ leBytes 48 0

/-- A write of 7000h:0B. -/
def writeNonce (data : List Byte) (s : State) : WriteResult :=
  let c := s.security
  if c.quoting.isSome then failWith s .busy
  else if 32 < data.length then failWith s .invalid
  else
    let q := s.nv.quotes + 1
    okWith { s with nv := { s.nv with quotes := q },
                    security := { c with quoting := some (quoteHead s q data), quoteStatus := .busy } }

/-- QUOTE_READY: the quote being signed is written to 7000h:0C. -/
def execQuoteReady (s : State) : Outcome State Fault Refusal :=
  match s.security.quoting with
  | none => .next s
  | some h =>
    if s.power != .running then .next s
    else .next (settle s { s with security :=
      { s.security with quoting := none, quote := h ++ fitBytes 17088 (Config.slhSign h), quoteStatus := .ok } })

end Sys2Proof.Machine
end

