-- ==== Sys2Proof/Machine/Power.lean ====
section
/-! DEFINITION. Power, reset and boot (R50, R223, R376, R380, R401 to R406, R411 to R422). -/

namespace Sys2Proof.Machine

open Host

/-! ## What survives (R223, R333, R402, R412, R416, R432) -/

/-- Whether a reset leaves the burst at b as it is: tier 2 but for the head region, while it keeps its power. -/
def burstKept (keep : Bool) (b : Nat) : Bool := keep && decide (tier2Base ≤ 256 * b) && decide (256 * b < headBase)

/-- An update cut short leaves its slot without a valid header (R405). -/
def cutUpdate (s : State) : NvR :=
  if s.security.updating.isNone then s.nv
  else if s.security.runningB then { s.nv with slotA := [], factoryA := false }
  else { s.nv with slotB := [] }

/-- Failure entries that a reset clears. -/
def resetClears (keep : Bool) (e : FailEntry) : Bool :=
  (1 ≤ e.kind.toNat && e.kind.toNat ≤ 6) || (9 ≤ e.kind.toNat && e.kind.toNat ≤ 0x0B)
    || ((e.kind = 0x07 || e.kind = 0x08) && !burstKept keep (e.detail.toNat / 256))

/-- Everything but the non-volatile store, the fuses and a tier 2 that keeps its power returns to its reset value. The
repair maps stand in the engines and ports at once (R50, R260). -/
def wipe (s : State) (p : PowerState) (keep : Bool) : State :=
  let n := cutUpdate s
  let n := { n with failures := n.failures.map fun e => if resetClears keep e then { e with outstanding := false } else e }
  { State.reset with
    pending := s.pending, sent := s.sent, power := p, vinOk := s.vinOk, pwrOk := s.pwrOk, resetN := s.resetN,
    tier2Kept := s.tier2Kept && keep, tripped := s.tripped && keep, degraded := s.degraded && keep, nv := n, commits := n.commits, freeReads := s.freeReads,
    security := { fusedSvn := s.security.fusedSvn, revoked := s.security.revoked },
    pm := { State.reset.pm with wear := n.wear },
    owners := { ranges := n.excluded.map fun (p : Nat × Nat × Nat) => (p.1, p.2.1, p.2.2, (0x21 : BitVec 8)) },
    engines := Vector.ofFn fun e =>
      { state := if n.retired[e] then EngState.retired else .active, retiredRows := n.rows[e], retiredCols := n.cols[e] },
    ports := Vector.ofFn fun p => { repaired := n.lanes[p] },
    homes := resetHomes.map fun r => { r with class_ := none },
    mem := s.mem.filter fun c => burstKept keep (c.1 / 256),
    upsets := s.upsets.filter fun u => match u with | .sector b _ _ => burstKept keep b | _ => false,
    poison := s.poison.filter fun c => burstKept keep c.1,
    cleared := (s.poison.filter fun c => !burstKept keep c.1).foldl (fun l c => sparseSet false l c.1 true) s.cleared }

/-- The wear count and the commit count go to the non-volatile store (R333, R359). -/
def storeCounts (s : State) : State := { s with nv := { s.nv with wear := s.pm.wear, commits := s.commits } }

/-! ## Straps (R376, R422) -/

def strapsOf (r : StrapRead × StrapRead × StrapRead) : Straps :=
  let a := r.1
  let mgr := !a.mgrSelN && a.node == 0
  let agree := r.2.1 == a && r.2.2 == a
  { node := a.node, site := a.site, manager := agree && mgr, error := !agree || !(mgr || (a.mgrSelN && a.node != 0)) }

/-- The strap pins as bits: SITE_ID, MGR_SEL_N, NODE_ID. -/
def strapBits (a : StrapRead) : BitVec 9 := a.site ++ BitVec.ofBool a.mgrSelN ++ a.node

/-! ## Boot (R402 to R406) -/

/-- The bundle of a slot verifies. -/
def slotVerifies (s : State) (b : Bool) : Bool :=
  if b then bundleOk s s.nv.slotB else if s.nv.factoryA then factoryOk s else bundleOk s s.nv.slotA

/-- The slot that boots: the one selected, or the other where it does not verify; none where neither does. -/
def bootSlot (s : State) : Option Bool :=
  if slotVerifies s s.nv.bootB then some s.nv.bootB
  else if slotVerifies s (!s.nv.bootB) then some (!s.nv.bootB)
  else none

/-- The delivered bundle, whose bytes the manual does not give, is the one running. -/
def runsFactory (s : State) (b : Bool) : Bool := !b && s.nv.factoryA

def slotBytes (s : State) (b : Bool) : List Byte := if b then s.nv.slotB else s.nv.slotA

/-- Digest i of the bundle that runs: 0 hub, 1 head, 2 library code. -/
def bootDigest (s : State) (b : Bool) (i : Fin 3) : List Byte :=
  if runsFactory s b then (List.finRange 32).map (Config.factoryDigest i)
  else match i with
    | 0 => sliceBytes (slotBytes s b) 32 32
    | 1 => sliceBytes (slotBytes s b) 64 32
    | 2 => imageDigest (bundleImage (slotBytes s b))

/-- The record that MR2 takes at boot, zero-padded. -/
def bootRecordOf (s : State) (b : Bool) (a : StrapRead) : List Byte :=
  let key := if runsFactory s b then Config.factoryKeySlot.val else fieldNat (slotBytes s b) 10 1
  let rev := (List.finRange 4).foldl (fun n (i : Fin 4) => n + bnat (s.security.revoked)[i] * 2 ^ i.val) 0
  fitBytes 32 ((List.finRange 8).map (Config.bootRecord (BitVec.ofNat 8 key) s.security.fusedSvn (BitVec.ofNat 4 rev) (strapBits a)))

/-- Step 5 of R403 for a power-up: it is counted, and one that follows a loss of power without a STOP is recorded and adds
60 s of wear (R359, R412). -/
def countPowerUp (s : State) : State :=
  if s.tier2Kept then { s with nv := { s.nv with stopped := false } }
  else
    let lost := !s.nv.stopped
    let s := { s with nv := { s.nv with powerUps := s.nv.powerUps + 1, stopped := false }, tier2Kept := true }
    if lost then
      let w := s.nv.wear + 60
      failEntry { s with pm := { s.pm with wear := w }, nv := { s.nv with wear := w } } 0x0F (unitByte 0 0) 0 0 0
    else s

/-- The library bank that slot b's bundle brings (R185, R403 step 7). -/
def bootBank (s : State) (b : Bool) : Bank :=
  let img := bundleImage (slotBytes s b)
  if runsFactory s b then { state := .active } else { state := .active, version := imageVersion img, code := imageCode img }

/-- What step n of R403 leaves, with slot b running. The repair maps, the empty sets and the zero-filled tiers are those of `wipe`; every
stack takes its first class as it comes up (R219), and MR2 goes with MR0 (log entry 38). -/
def bootStep (b : Bool) (i : BootInput) (n : Nat) (s : State) : State :=
  match n with
  | 2 =>
    let s := { s with security := { s.security with runningB := b,
                                                    firmware := if runsFactory s b then 0 else BitVec.ofNat 32 (fieldNat (slotBytes s b) 4 4) } }
    extendMr (extendMr s 0 (bootDigest s b 0)) 2 (bootRecordOf s b i.straps.1)
  | 3 => extendMr s 1 (bootDigest s b 1)
  | 4 => (List.finRange 8).foldl (fun s h => sampleStack h i.sensors[h] s) s
  | 5 => countPowerUp s
  | 7 =>
    let bank := bootBank s b
    (List.finRange 4).foldl (fun s d =>
      extendMr (modDie s d fun r => { r with bankA := bank, activeB := false }) ⟨3 + d.val, by omega⟩ (bootDigest s b 2))
      { s with security := { s.security with bootLibrary := bank.version } }
  | 8 =>
    let quiet : Fin 5 := if s.straps.error then 3 else 0
    { s with field := { s.field with stateA := quiet, stateB := quiet } }
  | 9 => { s with power := .running }
  | _ => s

/-- The steps of R403 from step 2 up to, and without, step n. -/
def bootSteps (b : Bool) (i : BootInput) (n : Nat) (s : State) : State := (List.range (n - 2)).foldl (fun s x => bootStep b i (x + 2) s) s

/-- The boot chain from the release of RESET_N. A boot fault shows one of the codes of R8 in 7000h:08; the steps before the one that fails
have been done (R404). -/
def boot (i : BootInput) (s : State) : State :=
  let s := { wipe s .held s.tier2Kept with straps := strapsOf i.straps }
  match bootSlot s with
  | none => { s with power := .bootFault true, security := { s.security with status := 0x10 } }
  | some b =>
    match i.laterFailure.filter fun p => p.2.failure with
    | some p =>
      let s := bootSteps b i (3 + p.1.val) s
      { s with power := .bootFault false, security := { s.security with status := p.2.code } }
    | none => bootSteps b i 10 s

/-! ## The commands -/

/-- POWER_ON: VIN_56 above 48 V and the inrush done: powered and held in reset (R415 step 1). -/
def execPowerOn (s : State) : Outcome State Fault Refusal :=
  if s.power == .off then .next { s with power := .held, vinOk := true } else .next s

/-- A loss of power (R412). -/
def losePower (s : State) : State := { wipe s .off false with vinOk := false }

/-- LOCKOUT. -/
def execLockout (s : State) : Outcome State Fault Refusal := .next (losePower s)

/-- OVERVOLTAGE_SHUTDOWN. -/
def execOvervoltageShutdown (s : State) : Outcome State Fault Refusal := .next (losePower s)

/-- RAIL_OUT_OF_REGULATION: the second-stage rails fall until RESET_N pulses (R416). -/
def execRailOutOfRegulation (s : State) : Outcome State Fault Refusal :=
  if s.power == .off then .next s else .next (wipe s .railsDown false)

/-- The module enters reset with VIN_56 in range (R223, R416, R421). -/
def enterReset (s : State) : State := if s.power == .off then s else wipe s .held true

/-- RESET_N_ASSERT: a low of `micros` µs; between 10 and 30 it resets the module or does not (R421). -/
def execResetNAssert (micros : Nat) (taken : Bool) (s : State) : Outcome State Fault Refusal :=
  if 30 ≤ micros || (10 ≤ micros && taken) then .next { enterReset s with resetN := false } else .next { s with resetN := false }

/-- RESET_N_RELEASE: RESET_N stands high; with PWR_OK high too, for 1 ms, a module held in reset boots. -/
def execResetNRelease (i : BootInput) (s : State) : Outcome State Fault Refusal :=
  let s := { s with resetN := true }
  if s.power == .held && s.pwrOk then .next (boot i s) else .next s

/-- PWR_OK_FALL (R417). -/
def execPwrOkFall (s : State) : Outcome State Fault Refusal :=
  let s := { s with pwrOk := false }
  if s.power == .running then .next (settle s (storeCounts s)) else .next s

/-- PWR_OK_RISE. -/
def execPwrOkRise (s : State) : Outcome State Fault Refusal := .next { s with pwrOk := true }

end Sys2Proof.Machine
end

