-- ==== Sys2Proof/Machine/Read.lean ====
section
/-! DEFINITION. What each object of the dictionary reads as (R9, R429, R431 and the tables of objects). -/

namespace Sys2Proof.Machine

/-! ## Values as bytes -/

def u8 (x : Nat) : Option (List Byte) := some (leBytes 1 x)
def u16 (x : Nat) : Option (List Byte) := some (leBytes 2 x)
def u32 (x : Nat) : Option (List Byte) := some (leBytes 4 x)
def u64 (x : Nat) : Option (List Byte) := some (leBytes 8 x)
def boolByte (b : Bool) : Option (List Byte) := u8 (bnat b)

/-- A write-only object reads as 0 in its width (R10). -/
def wo (n : Nat) : Option (List Byte) := some (List.replicate n 0)

/-- n entries of a table from key a on, each of `bytes` bytes. -/
def tableBytes {w : Nat} (d : BitVec w) (l : Sparse (BitVec w)) (a n bytes : Nat) : List Byte :=
  ((List.range n).map fun i => wordBytes bytes (sparseGet d l (a + i))).flatten

/-- The number whose bit i is `f i`, for i below n. -/
def bitMap (n : Nat) (f : Nat → Bool) : Nat := (List.range n).foldl (fun a i => a + bnat (f i) * 2 ^ i) 0

def strBytes (s : String) : List Byte := s.toList.map fun c => BitVec.ofNat 8 c.toNat

/-! ## Parts -/

/-- FLAGS of a heartbeat (R374). -/
def heartbeatFlags (s : State) : Nat :=
  bnat s.field.managerLost + 2 * bnat s.straps.error + 4 * bnat s.field.dupA + 8 * bnat s.field.dupB

/-- 1100h:03 (R391). -/
def hierarchyStatus (s : State) : Nat :=
  bnat s.straps.error + 2 * bnat s.field.dupA + 4 * bnat s.field.dupB + 16 * bnat s.field.managerLost

/-- An entry of the failure record (R333). -/
def failBytes (e : FailEntry) : List Byte :=
  wordBytes 4 e.fseq ++ wordBytes 1 e.kind ++ wordBytes 1 e.unit ++ wordBytes 2 e.where_ ++ wordBytes 4 e.powerCycle
    ++ wordBytes 4 e.commits ++ wordBytes 8 e.detail ++ leBytes 2 (e.slot.toNat * 4096) ++ wordBytes 2 e.step ++ leBytes 4 0

/-- An entry of the integrity log (R314). -/
def logBytes (e : LogEntry) : List Byte :=
  wordBytes 4 e.seq ++ wordBytes 1 e.cause ++ wordBytes 1 e.unit ++ leBytes 2 (e.slot.toNat * 4096 + e.ticket.toNat)
    ++ wordBytes 2 e.step ++ wordBytes 2 e.where_ ++ wordBytes 4 e.detail

/-- An entry of the summary's list of outstanding failures (R431). -/
def outstandingBytes (e : FailEntry) : List Byte :=
  wordBytes 4 e.fseq ++ wordBytes 1 e.kind ++ wordBytes 1 e.unit ++ wordBytes 2 e.where_ ++ wordBytes 8 e.detail

/-- 6010h+j:0F, as MIRROR_DUE of R173. -/
def mirrorDueWord (r : SlotR) : Nat := match r.mirrorDue with | some t => 1 + t.toNat * 2 ^ 32 | none => 0

/-- 6010h+j:10. -/
def intervalWord (r : SlotR) : Nat :=
  if r.inForce.mirrorFixed then r.fixedInterval.toNat else (r.jobExponent.map (·.toNat)).getD (kMax r)

def roleCode : Role → Nat
  | .member => 0 | .backup => 1 | .disabled => 0xFF

/-- 5100h+c:08. -/
def inFlightCseq (r : ChanR) : Nat := match r.op with | some o => o.cseq.toNat | none => 0xFFFFFFFF

/-- An entry of 6021h:01. -/
def hostedWord (s : State) (i : Nat) : Nat :=
  let e := sparseGet 0 s.netHosts i
  (halfStep s e 0).toNat + (halfStep s e 1).toNat * 2 ^ 32

/-- Tickets of a die in flight, of one slot where it is named. -/
def ticketCount (s : State) (d : Die) (j : Option Slot) : Nat :=
  ((tksOf s).filter fun k => k.ringDie == d && j.all fun x => dSlot k.desc == x).length

/-- VERSION of a firmware slot, 0 when it is invalid (7000h:02, :03). -/
def slotVersion (s : State) (b : Bool) : Nat :=
  if runsFactory s b || !slotVerifies s b then 0 else fieldNat (slotBytes s b) 4 4

def rangeBytes (s : State) (i : Nat) : List Byte :=
  let e := sparseGet (0, 0, 0) s.owners.ranges i
  leBytes 4 e.1 ++ leBytes 4 e.2.1 ++ wordBytes 1 e.2.2 ++ leBytes 7 0

def homeOf (i : Nat) : Home := Fin.ofNat 12 i

/-! ## The summary (R390, R431) -/

def summaryHead (s : State) : List Byte :=
  fitBytes 64 (wordBytes 4 s.generation ++ leBytes 2 1 ++ leBytes 2 s.fabric.moduleId.toNat ++ leBytes 1 s.straps.node.toNat
    ++ leBytes 1 (128 * bnat s.straps.manager + s.straps.site.toNat) ++ leBytes 1 (moduleState s) ++ leBytes 1 0
    ++ leBytes 2 (heartbeatFlags s))

def summaryPace (s : State) : List Byte :=
  ((List.finRange 16).map fun j =>
    let r := s.slots[j]
    leBytes 4 (profileWord r) ++ wordBytes 2 r.jobPace ++ leBytes 2 (runningPace s j) ++ wordBytes 4 r.paceEpoch ++ leBytes 4 0).flatten
  ++ fitBytes 64 (leBytes 1 s.pm.mode.code ++ leBytes 1 (limitReasons s) ++ leBytes 2 (localLimit s)
    ++ (List.range 8).map fun i => BitVec.ofNat 8 (homeLevel s (homeOf i)))

def summaryJobs (s : State) : List Byte :=
  ((List.finRange 16).map fun j =>
    let r := s.slots[j]
    wordBytes 4 r.dataStep ++ wordBytes 4 r.streamStep ++ wordBytes 2 r.epoch ++ leBytes 1 r.slotState.code ++ leBytes 5 0).flatten
  ++ (List.range 64).map fun i => BitVec.ofNat 8 (bitMap 8 fun b => bitOf (variantEntry s (8 * i + b)) 7)

def summaryQueues (s : State) : List Byte :=
  ((List.finRange 4).flatMap fun d => (List.finRange 16).map fun j =>
    let r := ringsOf s d j
    wordBytes 2 r.h.head ++ wordBytes 2 r.h.tail ++ wordBytes 2 r.x.head ++ wordBytes 2 r.x.tail ++ wordBytes 2 r.c.head
      ++ wordBytes 2 r.c.tail ++ leBytes 2 (ticketCount s d (some j)) ++ leBytes 2 0).flatten
  ++ ((List.finRange 4).map fun d =>
    let u := (s.dies[d]).u
    wordBytes 2 u.head ++ wordBytes 2 u.tail ++ leBytes 2 (ticketCount s d none) ++ leBytes 2 0).flatten

def summaryColls (s : State) : List Byte :=
  ((List.finRange 64).map fun c =>
    let r := s.chans[c]
    wordBytes 1 r.slot ++ leBytes 1 (roleCode r.role) ++ leBytes 2 0 ++ leBytes 4 (inFlightCseq r) ++ wordBytes 4 r.nextCseq).flatten

def summaryResilience (s : State) : List Byte :=
  ((List.finRange 16).map fun j =>
    let r := s.slots[j]
    leBytes 2 (bnat (liveBuffer s j)) ++ leBytes 2 (intervalWord r) ++ wordBytes 4 r.finalStep ++ wordBytes 4 r.lastMirrored
      ++ leBytes 4 0 ++ leBytes 8 (mirrorDueWord r) ++ leBytes 8 0).flatten

def suspectWord (s : State) : Nat := bitMap 16 fun j => (s.slots[(Fin.ofNat 16 j : Slot)]).suspect

def summaryUnits (s : State) : List Byte :=
  let out := s.nv.failures.filter (·.outstanding)
  (s.engines.toList.map fun e =>
    leBytes 1 e.state.code ++ leBytes 1 e.retiredRows.length ++ leBytes 1 e.retiredCols.length ++ leBytes 1 0).flatten
  ++ (s.ports.toList.map fun p => BitVec.ofNat 8 p.state.val)
  ++ ((List.range 8).map fun i => BitVec.ofNat 8 (bnat (homeTripped s (homeOf i))))
  ++ leBytes 2 (bitMap 2 fun p => s.integrity.swap[(Fin.ofNat 2 p : Fin 2)])
  ++ leBytes 2 (suspectWord s) ++ leBytes 2 out.length ++ leBytes 2 s.nv.failures.length ++ wordBytes 4 s.nv.nextFseq
  ++ leBytes 76 0 ++ fitBytes 1024 ((out.reverse.take 64).map outstandingBytes).flatten

def summaryRest (s : State) : List Byte :=
  (s.slots.toList.map fun r => wordBytes 8 r.energy).flatten ++ wordBytes 8 s.pm.unattributed ++ wordBytes 8 s.pm.moduleEnergy
  ++ (s.dies.toList.map fun d =>
    leBytes 1 (bnat d.activeB) ++ leBytes 1 0 ++ wordBytes 2 d.libEpoch ++ wordBytes 2 d.bankA.version ++ wordBytes 2 d.bankB.version).flatten
  ++ ((List.range 16).map fun i => leBytes 8 (hostedWord s i)).flatten

/-- Object 1F80h. -/
def summary (s : State) : List Byte :=
  fitBytes 8192 (summaryHead s ++ summaryPace s ++ summaryJobs s ++ summaryQueues s ++ summaryColls s ++ summaryResilience s
    ++ summaryUnits s ++ summaryRest s)

/-! ## Objects -/

def readIdentity (s : State) (u : Nat) : Option (List Byte) :=
  match u with
  | 0 => u8 8
  | 1 => some (strBytes "Baloarad")
  | 2 => some (strBytes "BLD-LYT8")
  | 3 => some (strBytes "A1")
  | 4 => some ((List.finRange 16).map Config.serial)
  | 5 => u32 s.security.firmware.toNat
  | 6 => u32 s.security.bootLibrary.toNat
  | 7 => u32 s.nv.powerUps.toNat
  | 8 => u32 s.commits.toNat
  | _ => none

def readField (s : State) (u : Nat) : Option (List Byte) :=
  let f := s.field
  match u with
  | 0 => u8 0x0E
  | 1 => u8 s.straps.node.toNat
  | 2 => boolByte s.straps.manager
  | 3 => u8 (hierarchyStatus s)
  | 4 => u8 f.arbRate.toNat
  | 5 => u8 f.dataRate.toNat
  | 6 => u8 f.vcid.toNat
  | 7 => u8 f.sdt.toNat
  | 8 => u16 f.heartbeatMs.toNat
  | 9 => u8 f.stateA.val
  | 0x0A => u8 f.stateB.val
  | 0x0B => u32 f.errorsA.toNat
  | 0x0C => u32 f.errorsB.toNat
  | 0x0D => u64 (if s.straps.manager then f.presence.toNat else 0)
  | 0x0E => u16 f.segmentMs.toNat
  | _ => none

def readPower (s : State) (u : Nat) : Option (List Byte) :=
  let p := s.pm
  match u with
  | 0 => u8 0x0D
  | 1 => u8 p.mode.code
  | 2 => u16 (moduleMax s)
  | 3 => u16 (localLimit s)
  | 4 => u8 (limitReasons s)
  | 5 => u16 p.cap.toNat
  | 6 => boolByte p.distrusted
  | 7 => u32 p.wear.toNat
  | 8 => u32 wearBudget
  | 9 => u8 p.peakStatus.code.toNat
  | 0x0A => u32 p.guardEntries.toNat
  | 0x0B => u32 p.distrustEntries.toNat
  | 0x0C => u32 p.capUnmet.toNat
  | 0x0D => u32 p.eventsDropped.toNat
  | _ => none

def readPace (s : State) (j : Slot) (u : Nat) : Option (List Byte) :=
  let r := s.slots[j]
  match u with
  | 0 => u8 5
  | 1 => u16 r.jobPace.toNat
  | 2 => u32 r.paceEpoch.toNat
  | 3 => u16 r.initialPace.toNat
  | 4 => u16 (runningPace s j)
  | 5 => u16 r.ceiling.toNat
  | _ => none

def readEngPace (s : State) (e : Eng) (u : Nat) : Option (List Byte) :=
  match u with
  | 0 => u8 2
  | 1 => u16 (if engRetired s e then 0 else (s.engines[e]).maxPace.toNat)
  | 2 => u16 (Config.paceAtTest e s.pm.railTarget).toNat
  | _ => none

def readEnergy (s : State) (u : Nat) : Option (List Byte) :=
  if u = 0 then u8 0x13
  else if u ≤ 0x10 then u64 (s.slots[(Fin.ofNat 16 (u - 1) : Slot)]).energy.toNat
  else match u with
    | 0x11 => u64 s.pm.unattributed.toNat
    | 0x12 => u64 s.pm.moduleEnergy.toNat
    | 0x13 => wo 4
    | _ => none

def readThrottle (s : State) (u : Nat) : Option (List Byte) :=
  if u = 0 then u8 0x0B
  else if u ≤ 8 then u8 (homeLevel s (homeOf (u - 1)))
  else match u with
    | 0x09 => u32 s.warnEntries.toNat
    | 0x0A => u32 s.critEntries.toNat
    | 0x0B => u32 s.throttleMicros.toNat
    | _ => none

/-- Retired index i of a list, FFFFh past its end (R54). -/
def retiredAt (l : List (Fin 520)) (i : Nat) : Nat := match l[i]? with | some n => n.val | none => 0xFFFF

def readEngine (s : State) (e : Eng) (u : Nat) : Option (List Byte) :=
  let r := s.engines[e]
  if 0x10 ≤ u && u ≤ 0x16 then u16 (retiredAt r.retiredRows (u - 0x10))
  else if 0x18 ≤ u && u ≤ 0x1E then u16 (retiredAt r.retiredCols (u - 0x18))
  else match u with
    | 0 => u8 0x21
    | 1 => u8 r.state.code
    | 2 => u8 r.retiredRows.length
    | 3 => u8 r.retiredCols.length
    | 4 => u32 r.corrected.toNat
    | 5 => u32 r.uncorrectable.toNat
    | 6 => u32 r.mismatches.toNat
    | 0x20 => wo 2
    | 0x21 => wo 1
    | _ => none

def readAcc (s : State) (e : Eng) (u : Nat) : Option (List Byte) :=
  let r := s.accs[e]
  match u with
  | 0 => u8 6
  | 1 => u16 (bitMap 16 fun m => (accSet s e (Fin.ofNat 16 m)).state == .opened)
  | 2 => u16 (bitMap 16 fun m => (accSet s e (Fin.ofNat 16 m)).state == .invalid)
  | 3 => u32 r.corrected.toNat
  | 4 => u32 r.uncorrectable.toNat
  | 5 => u32 r.longDrains.toNat
  | 6 => u32 r.forcedDrains.toNat
  | _ => none

def readIntegrity (s : State) (u : Nat) : Option (List Byte) :=
  let g := s.integrity
  match u with
  | 0 => u8 0x0D
  | 1 => u8 (bitMap 2 fun p => g.swap[(Fin.ofNat 2 p : Fin 2)])
  | 2 => u32 g.cleanTiles.toNat
  | 3 => u8 g.columnLimit.toNat
  | 4 => u8 g.engineLimit.toNat
  | 5 => u16 (suspectWord s)
  | 6 => u32 g.aborted.toNat
  | 7 => u32 g.replays.toNat
  | 8 => u32 g.replayMismatches.toNat
  | 9 => u32 g.residueFailures.toNat
  | 0x0A => u32 g.controlFaults.toNat
  | 0x0B => u32 g.diagnostics.toNat
  | 0x0C => u32 g.nextLogSeq.toNat
  | 0x0D => some (fitBytes 4096 (g.log.map logBytes).flatten)
  | _ => none

def readNumerics (s : State) (j : Slot) (u : Nat) : Option (List Byte) :=
  let r := s.slots[j]
  match u with
  | 0 => u8 6
  | 1 => u64 r.seed.toNat
  | 2 => u64 r.scaleBase.toNat
  | 3 => u32 r.scaleCount.toNat
  | 4 => u32 r.dataStep.toNat
  | 5 => u32 r.streamStep.toNat
  | 6 => boolByte r.skew
  | _ => none

def readDispatch (s : State) (d : Die) (u : Nat) : Option (List Byte) :=
  let r := s.dies[d]
  match u with
  | 0 => u8 7
  | 1 => u32 r.stall.toNat
  | 2 => u16 (ticketCount s d none)
  | 3 => u32 r.deadlocks.toNat
  | 4 => u64 r.u.base.toNat
  | 5 => u32 r.u.size.toNat
  | 6 => u16 r.u.head.toNat
  | 7 => u16 r.u.tail.toNat
  | _ => none

def readStreams (s : State) (d : Die) (u : Nat) : Option (List Byte) :=
  let r := s.dies[d]
  match u with
  | 0 => u8 5
  | 1 => u16 r.window.toNat
  | 2 => u8 r.gap.toNat
  | 3 => u32 r.readTimeout.toNat
  | 4 => u32 r.timedOut.toNat
  | 5 => u32 r.invalidRows.toNat
  | _ => none

def readRings (s : State) (d : Die) (j : Slot) (u : Nat) : Option (List Byte) :=
  let r := ringsOf s d j
  match u with
  | 0 => u8 0x0E
  | 1 => u64 r.h.base.toNat
  | 2 => u32 r.h.size.toNat
  | 3 => u16 r.h.head.toNat
  | 4 => u16 r.h.tail.toNat
  | 5 => u64 r.x.base.toNat
  | 6 => u32 r.x.size.toNat
  | 7 => u16 r.x.head.toNat
  | 8 => u16 r.x.tail.toNat
  | 9 => u64 r.c.base.toNat
  | 0x0A => u32 r.c.size.toNat
  | 0x0B => u16 r.c.head.toNat
  | 0x0C => u16 r.c.tail.toNat
  | 0x0D => u32 r.nextSeq.toNat
  | 0x0E => u16 (s.slots[j]).epoch.toNat
  | _ => none

def readRingmaster (s : State) (d : Die) (u : Nat) : Option (List Byte) :=
  let r := s.dies[d]
  match u with
  | 0 => u8 0x0C
  | 1 => boolByte r.activeB
  | 2 => u8 r.bankA.state.code
  | 3 => u8 r.bankB.state.code
  | 4 => u16 r.libEpoch.toNat
  | 5 => u64 r.loadSource.toNat
  | 6 => wo 1
  | 7 => wo 1
  | 8 => u8 r.cmdStatus.code.toNat
  | 9 => u32 r.bankA.version.toNat
  | 0x0A => u32 r.bankB.version.toNat
  | 0x0B => u8 (bitMap 8 fun c => (ctxOf s d (Fin.ofNat 8 c)).isSome)
  | 0x0C => u32 r.eventsDropped.toNat
  | _ => none

def readHome (s : State) (h : Home) (u : Nat) : Option (List Byte) :=
  let r := s.homes[h]
  match u with
  | 0 => u8 7
  | 1 => boolByte (homeTripped s h)
  | 2 => u32 r.corrected.toNat
  | 3 => u32 r.uncorrectable.toNat
  | 4 => u64 r.lastUncorr.toNat
  | 5 => u32 r.scrubInterval.toNat
  | 6 => u32 r.scrubPasses.toNat
  | 7 => u64 (homeBase h + 256 * r.scrubBurst)
  | _ => none

def readCvu (s : State) (n : Fin 16) (u : Nat) : Option (List Byte) :=
  let r := s.cvus[n]
  match u with
  | 0 => u8 7
  | 1 => boolByte r.armed
  | 2 => boolByte r.measure
  | 3 => u8 r.tap.toNat
  | 4 => u32 r.counted.toNat
  | 5 => u32 r.last.toNat
  | 6 => u32 r.mismatches.toNat
  | 7 => u16 r.armedBy.toNat
  | _ => none

def readFabric (s : State) (u : Nat) : Option (List Byte) :=
  let r := s.fabric
  match u with
  | 0 => u8 5
  | 1 => u16 r.moduleId.toNat
  | 2 => u32 r.opTimeout.toNat
  | 3 => u32 r.portEnable.toNat
  | 4 => u32 r.dropped.toNat
  | 5 => u32 r.unroutable.toNat
  | _ => none

def readPort (s : State) (p : PortId) (u : Nat) : Option (List Byte) :=
  let r := s.ports[p]
  match u with
  | 0 => u8 5
  | 1 => u8 r.state.val
  | 2 => u8 (match r.repaired with | some l => l.val | none => 0xFF)
  | 3 => u32 r.replays.toNat
  | 4 => u32 r.failures.toNat
  | 5 => u16 r.peer.toNat
  | _ => none

def readChannel (s : State) (c : ChanId) (u : Nat) : Option (List Byte) :=
  let r := s.chans[c]
  match u with
  | 0 => u8 0x0B
  | 1 => u8 r.slot.toNat
  | 2 => u8 (roleCode r.role)
  | 3 => u16 r.members.toNat
  | 4 => u16 r.own.toNat
  | 5 => some (tableBytes 0 s.members (c.val * 8192) 8192 4)
  | 6 => u16 r.backed.toNat
  | 7 => u32 r.nextCseq.toNat
  | 8 => u32 (inFlightCseq r)
  | 9 => u32 r.absentMarks.toNat
  | 0x0A => u32 r.digestMismatches.toNat
  | 0x0B => u32 r.timeouts.toNat
  | _ => none

def readModule (s : State) (u : Nat) : Option (List Byte) :=
  match u with
  | 0 => u8 7
  | 1 => u8 (moduleState s)
  | 2 => u8 s.straps.site.toNat
  | 3 => u16 s.nv.failures.length
  | 4 => u32 s.nv.nextFseq.toNat
  | 5 => some (fitBytes 32768 (s.nv.failures.map failBytes).flatten)
  | 6 => u32 s.rateWindow.toNat
  | 7 => u8 (proposal s 0)
  | _ => none

def readResilience (s : State) (j : Slot) (u : Nat) : Option (List Byte) :=
  let r := s.slots[j]
  match u with
  | 0 => u8 0x18
  | 1 => u8 r.slotState.code
  | 2 => u16 r.commitFlag.toNat
  | 3 => u8 r.commitInc.toNat
  | 4 => u16 r.committedFlag.toNat
  | 5 => u64 r.recordBase.toNat
  | 6 => u32 r.recordBytes.toNat
  | 7 => u64 r.imageBase.toNat
  | 8 => u64 r.keepBase.toNat
  | 9 => some (tableBytes 0 s.buffers (j.val * 512) 512 32)
  | 0x0A => u16 r.fixedInterval.toNat
  | 0x0B => u16 r.intervalLimits.toNat
  | 0x0C => u32 r.mirrorTid.toNat
  | 0x0D => u16 r.partner.toNat
  | 0x0E => u64 r.netBase.toNat
  | 0x0F => u64 (mirrorDueWord r)
  | 0x10 => u16 (intervalWord r)
  | 0x11 => u32 r.lastMirrored.toNat
  | 0x12 => u32 r.finalStep.toNat
  | 0x13 => u16 r.restoreSource.toNat
  | 0x14 => u64 r.restoreBase.toNat
  | 0x15 => u32 r.restoreStep.toNat
  | 0x16 => wo 1
  | 0x17 => u8 r.restoreStatus.code.toNat
  | 0x18 => wo 1
  | _ => none

/-- The identity certificate (R407). -/
def certificateBytes : List Byte :=
  leBytes 4 0x49445431 ++ leBytes 2 1 ++ leBytes 2 0 ++ (List.finRange 16).map Config.serial ++ (List.finRange 4).map Config.issuer
    ++ leBytes 4 0 ++ (List.finRange 32).map Config.attestKey ++ List.replicate 64 0 ++ (List.finRange 29792).map Config.certSignature

def readSecurity (s : State) (u : Nat) : Option (List Byte) :=
  let c := s.security
  match u with
  | 0 => u8 0x10
  | 1 => boolByte c.runningB
  | 2 => u32 (slotVersion s false)
  | 3 => u32 (slotVersion s true)
  | 4 => u16 c.fusedSvn.toNat
  | 5 => u8 (15 + 16 * bitMap 4 fun i => c.revoked[(Fin.ofNat 4 i : Fin 4)])
  | 6 => u64 c.updateSource.toNat
  | 7 => wo 1
  | 8 => u8 c.status.toNat
  | 9 => some c.mr.toList.flatten
  | 0x0A => wo 32
  | 0x0B => wo 32
  | 0x0C => some (fitBytes 17472 c.quote)
  | 0x0D => u8 c.quoteStatus.code.toNat
  | 0x0E => some certificateBytes
  | 0x0F => u32 s.nv.quotes.toNat
  | 0x10 => u16 s.field.relayMs.toNat
  | _ => none

def readOwners (s : State) (u : Nat) : Option (List Byte) :=
  match u with
  | 0 => u8 0x12
  | 1 => some ((List.range 128).map (tapOwner s))
  | 2 => some ((List.range 576).map (oscOwner s))
  | 3 => some ((List.range 32).map (laneOwner s))
  | 4 => u8 s.owners.alert.toNat
  | 5 => some ((List.range 64).map (rangeBytes s)).flatten
  | 0x10 => wo 16
  | 0x11 => u8 s.owners.claimStatus.code.toNat
  | 0x12 => boolByte s.owners.software
  | _ => none

/-- A one-entry object: sub-index 0 alone. -/
def onlySub0 (u : Nat) (v : Option (List Byte)) : Option (List Byte) := if u = 0 then v else none

/-- An object whose only sub-index is 1. -/
def onlySub1 (u : Nat) (v : Option (List Byte)) : Option (List Byte) := if u = 0 then u8 1 else if u = 1 then v else none

/-- Prepared fields of a slot (R383). -/
def preparedBits (r : SlotR) : Nat := if r.phase == .idle then 0 else r.prepared.bits

/-- The objects below 3000h. -/
def readLow (s : State) (i u : Nat) : Option (List Byte) :=
  if i = 0x1000 then readIdentity s u
  else if i = 0x1100 then readField s u
  else if i = 0x1F01 then onlySub0 u (wo 1)
  else if i = 0x1F10 || i = 0x1F11 || i = 0x1F12 then onlySub0 u (wo 4)
  else if i = 0x1F13 then
    if u = 0 then u8 0x10 else if u ≤ 0x10 then u32 (profileWord s.slots[(Fin.ofNat 16 (u - 1) : Slot)]) else none
  else if i = 0x1F14 then onlySub0 u (u16 s.prepareMs.toNat)
  else if i / 16 = 0x1F2 then onlySub1 u (u8 (preparedBits s.slots[(Fin.ofNat 16 i : Slot)]))
  else if i = 0x1F80 then onlySub0 u (some (summary s))
  else if i = 0x2000 then readPower s u
  else if i / 16 = 0x201 then readPace s (Fin.ofNat 16 i) u
  else if i / 8 = 0x2020 / 8 then readEngPace s (Fin.ofNat 8 i) u
  else if i = 0x2080 then readEnergy s u
  else if i = 0x2100 then readThrottle s u
  else none

/-- The objects 3000h to 3FFFh. -/
def readMid (s : State) (i u : Nat) : Option (List Byte) :=
  if i / 8 = 0x3000 / 8 then readEngine s (Fin.ofNat 8 i) u
  else if i / 8 = 0x3008 / 8 then readAcc s (Fin.ofNat 8 i) u
  else if i = 0x3010 then readIntegrity s u
  else if 0x3018 ≤ i && i < 0x3028 then
    let r := s.slots[(Fin.ofNat 16 (i - 0x3018) : Slot)]
    match u with
    | 0 => u8 2
    | 1 => u64 r.sigBase.toNat
    | 2 => u32 r.sigEntries.toNat
    | _ => none
  else if i = 0x3100 then
    match u with
    | 0 => u8 2
    | 1 => u64 s.mixerInput.toNat
    | 2 => u64 (mix s.mixerInput).toNat
    | _ => none
  else if i / 16 = 0x311 then readNumerics s (Fin.ofNat 16 i) u
  else if i = 0x3120 then
    match u with
    | 0 => u8 2
    | 1 => some (tableBytes 0 s.variants 0 512 32)
    | 2 => u16 (s.variants.filter fun p => bitOf p.2 7).length
    | _ => none
  else if i / 4 = 0x3200 / 4 then readDispatch s (Fin.ofNat 4 i) u
  else if i / 4 = 0x3210 / 4 then onlySub0 u (some (tableBytes 0 s.queueEnds (i % 4 * 4096) 4096 8))
  else if i / 4 = 0x3220 / 4 then onlySub0 u (some (tableBytes 0 s.flags (i % 4 * 4096) 4096 4))
  else if i / 4 = 0x3230 / 4 then readStreams s (Fin.ofNat 4 i) u
  else if i / 64 = 0x3240 / 64 then readRings s (Fin.ofNat 4 (i / 16 - 0x324)) (Fin.ofNat 16 i) u
  else if i / 4 = 0x3300 / 4 then readRingmaster s (Fin.ofNat 4 i) u
  else none

/-- The objects from 4000h on. -/
def readHigh (s : State) (i u : Nat) : Option (List Byte) :=
  if 0x4000 ≤ i && i < 0x400C then readHome s (homeOf (i - 0x4000)) u
  else if i / 16 = 0x410 then readCvu s (Fin.ofNat 16 i) u
  else if i = 0x5000 then readFabric s u
  else if i = 0x5010 then onlySub0 u (some (tableBytes 0 s.routes 0 8192 8))
  else if 0x5040 ≤ i && i < 0x5060 then readPort s (Fin.ofNat 32 (i - 0x5040)) u
  else if 0x5100 ≤ i && i < 0x5140 then readChannel s (Fin.ofNat 64 (i - 0x5100)) u
  else if i = 0x6000 then readModule s u
  else if i / 16 = 0x601 then readResilience s (Fin.ofNat 16 i) u
  else if i = 0x6020 then onlySub1 u (some (tableBytes 0 s.netHosts 0 16 32))
  else if i = 0x6021 then onlySub1 u (some ((List.range 16).map fun k => leBytes 8 (hostedWord s k)).flatten)
  else if i = 0x6030 then onlySub1 u (u8 (alertCause s))
  else if i = 0x7000 then readSecurity s u
  else if i = 0x7F00 then readOwners s u
  else none

/-- The value of an object; none of an unimplemented index or sub-index (R9, R429). -/
def objRead (s : State) (index : BitVec 16) (sub : BitVec 8) : Option (List Byte) :=
  let i := index.toNat
  let u := sub.toNat
  if i < 0x3000 then readLow s i u else if i < 0x4000 then readMid s i u else readHigh s i u

end Sys2Proof.Machine
end

