-- ==== Sys2Proof/Machine/Objects.lean ====
section
/-! DEFINITION. Writes of each object, and the requests that the agent takes: reads, segments, whole values (R10, R366 to R373,
R397, R398). -/

namespace Sys2Proof.Machine

open Host

/-! ## Command objects (WO) -/

def isCommand (index : BitVec 16) (sub : BitVec 8) : Bool :=
  let i := index.toNat
  let u := sub.toNat
  (u = 0 && (i = 0x1F01 || i = 0x1F10 || i = 0x1F11 || i = 0x1F12)) || (i = 0x2080 && u = 0x13)
    || (i / 8 = 0x3000 / 8 && (u = 0x20 || u = 0x21)) || (i / 4 = 0x3300 / 4 && (u = 6 || u = 7))
    || (i / 16 = 0x601 && (u = 0x16 || u = 0x18)) || (i = 0x7000 && (u = 7 || u = 0x0A || u = 0x0B)) || (i = 0x7F00 && u = 0x10)

/-! ## Writes by object -/

/-- After a write of the routes or of the port enable, waiting flits without a usable port are dropped (R266). -/
def reroute (r : WriteResult) : WriteResult := (dropStranded r.1, r.2)

/-- A write of 1F01h: who may, and STOP's refusal (R380). What it does follows its ACK. -/
def writeReset (port : Port) (data : List Byte) (s : State) : WriteResult :=
  if port.requester == .tool then failWith s .invalid
  else if data == [1] || data == [3] then okWith s
  else if data == [2] then (if (tksOf s).isEmpty then okWith s else failWith s .busy)
  else failWith s .invalid

/-- Both controllers restart with the present settings (R368, R380). A controller that met a duplicate stays in listen-only
mode, as does one of a module with a strap error (R376, R377). -/
def restartField (s : State) : State :=
  let f := s.field
  let state (dup : Bool) : Fin 5 := if s.straps.error || dup then 3 else 0
  { s with field := { f with used := (f.arbRate, f.dataRate, f.vcid, f.sdt), stateA := state f.dupA, stateB := state f.dupB } }

/-- What an accepted write of 1F01h does once it has been answered. -/
def afterReset (data : List Byte) (s : State) : State :=
  if data == [1] then enterReset s
  else if data == [2] then wipe { storeCounts s with nv := { (storeCounts s).nv with stopped := true } } .stopped true
  else restartField s

def writeField (u : Nat) (data : List Byte) (s : State) : WriteResult :=
  let put (f : Nat → FieldR → FieldR) (v : Nat) (s : State) : State := { s with field := f v s.field }
  match u with
  | 4 => writeValue 1 data (· ≤ 1) (put fun v f => { f with arbRate := BitVec.ofNat 8 v }) s
  | 5 => writeValue 1 data (· ≤ 3) (put fun v f => { f with dataRate := BitVec.ofNat 8 v }) s
  | 6 => writeValue 1 data (fun _ => true) (put fun v f => { f with vcid := BitVec.ofNat 8 v }) s
  | 7 => writeValue 1 data (fun _ => true) (put fun v f => { f with sdt := BitVec.ofNat 8 v }) s
  | 8 => writeValue 2 data (inRange 10 10000) (put fun v f => { f with heartbeatMs := BitVec.ofNat 16 v }) s
  | 0x0E => writeValue 2 data (inRange 10 10000) (put fun v f => { f with segmentMs := BitVec.ofNat 16 v }) s
  | _ => failWith s .invalid

def writeIntegrity (u : Nat) (data : List Byte) (s : State) : WriteResult :=
  let put (f : Nat → IntegrityR → IntegrityR) (v : Nat) (s : State) : State := { s with integrity := f v s.integrity }
  match u with
  | 2 => writeValue 4 data (1024 ≤ ·) (put fun v g => { g with cleanTiles := BitVec.ofNat 32 v }) s
  | 3 => writeValue 1 data (inRange 1 15) (put fun v g => { g with columnLimit := BitVec.ofNat 8 v }) s
  | 4 => writeValue 1 data (inRange 2 15) (put fun v g => { g with engineLimit := BitVec.ofNat 8 v }) s
  | _ => failWith s .invalid

/-- The largest ring H of a slot (R316). -/
def largestH (s : State) (j : Slot) : Nat := (List.finRange 4).foldl (fun a d => max a (ringsOf s d j).h.size.toNat) 0

def writeSignature (j : Slot) (u : Nat) (data : List Byte) (s : State) : WriteResult :=
  if slotBusy s j none then failWith s .invalid
  else match u with
    | 1 => writeValue 8 data (fun v => align4k v && inJobTier2 v 1) (fun v s => modSlot s j fun r => { r with sigBase := BitVec.ofNat 64 v }) s
    | 2 => writeValue 4 data (fun v => v == 0 || (isPow2 v && 4 * largestH s j ≤ v))
        (fun v s => modSlot s j fun r => { r with sigEntries := BitVec.ofNat 32 v }) s
    | _ => failWith s .invalid

def writeNumerics (j : Slot) (u : Nat) (data : List Byte) (s : State) : WriteResult :=
  let put (f : Nat → SlotR → SlotR) (v : Nat) (s : State) : State := modSlot s j (f v)
  match u with
  | 1 => writeValue 8 data (fun _ => true) (put fun v r => { r with seed := BitVec.ofNat 64 v }) s
  | 2 => writeValue 8 data (fun v => v % 256 == 0 && inTier1 v 1) (put fun v r => { r with scaleBase := BitVec.ofNat 64 v }) s
  | 3 => writeValue 4 data (fun _ => true) (put fun v r => { r with scaleCount := BitVec.ofNat 32 v }) s
  | 6 => writeValue 1 data (· ≤ 1) (put fun v r => { r with skew := v == 1 }) s
  | _ => failWith s .invalid

def writeDispatch (d : Die) (u : Nat) (data : List Byte) (s : State) : WriteResult :=
  match u with
  | 1 => writeValue 4 data (inRange 100 1000000) (fun v s => modDie s d fun r => { r with stall := BitVec.ofNat 32 v }) s
  | 4 => writeRing d 0 .uBase data s
  | 5 => writeRing d 0 .uSize data s
  | _ => failWith s .invalid

def writeStreams (d : Die) (u : Nat) (data : List Byte) (s : State) : WriteResult :=
  let put (f : Nat → DieR → DieR) (v : Nat) (s : State) : State := modDie s d (f v)
  match u with
  | 1 => writeValue 2 data (inRange 1 256) (put fun v r => { r with window := BitVec.ofNat 16 v }) s
  | 2 => writeValue 1 data (· ≤ 15) (put fun v r => { r with gap := BitVec.ofNat 8 v }) s
  | 3 => writeValue 4 data (inRange 100 1000000) (put fun v r => { r with readTimeout := BitVec.ofNat 32 v }) s
  | _ => failWith s .invalid

/-- The ring field that a sub-index of 3240h + 16d + j names. -/
def ringFieldOf (u : Nat) : Option RingField :=
  match u with
  | 1 => some .hBase | 2 => some .hSize | 5 => some .xBase | 6 => some .xSize | 9 => some .cBase | 0x0A => some .cSize
  | _ => none

def writeRings (d : Die) (j : Slot) (u : Nat) (data : List Byte) (s : State) : WriteResult :=
  match ringFieldOf u with
  | some f => writeRing d j f data s
  | none => failWith s .invalid

def writeFabric (port : Port) (u : Nat) (data : List Byte) (s : State) : WriteResult :=
  match u with
  | 1 => if rwmOk s port then writeModuleId data s else failWith s .invalid
  | 2 => writeValue 4 data (inRange 100 1000000) (fun v s =>
      { s with fabric := { s.fabric with opTimeout := BitVec.ofNat 32 v } }) s
  | 3 => reroute (writePortEnable data s)
  | _ => failWith s .invalid

/-- Writes of 6010h + j; `aux` is the header that a restore's source answers with. -/
def writeSlotObject (port : Port) (j : Slot) (u : Nat) (data aux : List Byte) (s : State) : WriteResult :=
  let put (f : Nat → SlotR → SlotR) (v : Nat) (s : State) : State := modSlot s j (f v)
  match u with
  | 9 => writeBuffers j data s
  | 0x0D => if rwmOk s port then writeResilience j u data s else failWith s .invalid
  | 0x0E => if rwmOk s port then writeResilience j u data s else failWith s .invalid
  -- 8,192 and above name no module, and no bit is called reserved: the write fails (log entry 62)
  | 0x13 => writeValue 2 data (· < 8192) (put fun v r => { r with restoreSource := BitVec.ofNat 16 v }) s
  | 0x14 => writeValue 8 data (fun _ => true) (put fun v r => { r with restoreBase := BitVec.ofNat 64 v }) s
  | 0x15 => writeValue 4 data (fun _ => true) (put fun v r => { r with restoreStep := BitVec.ofNat 32 v }) s
  | 0x16 => writeRestore j data aux s
  | 0x18 => writeSlotAbort j data s
  | _ => writeResilience j u data s

def writeSecurity (u : Nat) (data : List Byte) (s : State) : WriteResult :=
  match u with
  | 6 => writeUpdateSource data s
  | 7 => writeUpdate data s
  | 0x0A => writeExtend data s
  | 0x0B => writeNonce data s
  | 0x10 => writeValue 2 data (inRange 1 10000) (fun v s => { s with field := { s.field with relayMs := BitVec.ofNat 16 v } }) s
  | _ => failWith s .invalid

def writeLow (port : Port) (i u : Nat) (data : List Byte) (s : State) : WriteResult :=
  if i = 0x1100 then writeField u data s
  else if i / 16 = 0x1F2 && u = 1 then writePrepared port (Fin.ofNat 16 i) data s
  else if i / 16 = 0x201 && u = 3 then writeInitialPace (Fin.ofNat 16 i) data s
  else if i = 0x2000 && u = 5 then writeCap data s
  else if i = 0x2080 && u = 0x13 then writeEnergyClear data s
  else if i = 0x2100 && u = 0x0B then
    writeValue 4 data (inRange 100 100000) (fun v s => { s with throttleMicros := BitVec.ofNat 32 v }) s
  else if u != 0 then failWith s .invalid
  else if i = 0x1F01 then writeReset port data s
  else if i = 0x1F10 then writePrepare port data s
  else if i = 0x1F11 then writeCommit data s
  else if i = 0x1F12 then writeAbort data s
  else if i = 0x1F14 then writeValue 2 data (inRange 1 10000) (fun v s => { s with prepareMs := BitVec.ofNat 16 v }) s
  else failWith s .invalid

def writeMid (i u : Nat) (data : List Byte) (s : State) : WriteResult :=
  if i / 8 = 0x3000 / 8 && u = 0x20 then writeRetire (Fin.ofNat 8 i) data s
  else if i / 8 = 0x3000 / 8 && u = 0x21 then writeRetireEngine (Fin.ofNat 8 i) data s
  else if i = 0x3010 then writeIntegrity u data s
  else if 0x3018 ≤ i && i < 0x3028 then writeSignature (Fin.ofNat 16 (i - 0x3018)) u data s
  else if i = 0x3100 && u = 1 then
    writeValue 8 data (fun _ => true) (fun v s => { s with mixerInput := BitVec.ofNat 64 v }) s
  else if i / 16 = 0x311 then writeNumerics (Fin.ofNat 16 i) u data s
  else if i = 0x3120 && u = 1 then writeVariants data s
  else if i / 4 = 0x3200 / 4 then writeDispatch (Fin.ofNat 4 i) u data s
  else if i / 4 = 0x3210 / 4 && u = 0 then writeQueueEnds (Fin.ofNat 4 i) data s
  else if i / 4 = 0x3220 / 4 && u = 0 then writeFlags (Fin.ofNat 4 i) data s
  else if i / 4 = 0x3230 / 4 then writeStreams (Fin.ofNat 4 i) u data s
  else if i / 64 = 0x3240 / 64 then writeRings (Fin.ofNat 4 (i / 16 - 0x324)) (Fin.ofNat 16 i) u data s
  else if i / 4 = 0x3300 / 4 then
    match u with
    | 5 => writeLoadSource (Fin.ofNat 4 i) data s
    | 6 => writeLoad (Fin.ofNat 4 i) data s
    | 7 => writeSwitch (Fin.ofNat 4 i) data s
    | _ => failWith s .invalid
  else failWith s .invalid

def writeHigh (port : Port) (i u : Nat) (data aux : List Byte) (s : State) : WriteResult :=
  if 0x4000 ≤ i && i < 0x400C && u = 5 then
    writeValue 4 data (inRange 1 65535) (fun v s =>
      modHome s (homeOf (i - 0x4000)) fun r => { r with scrubInterval := BitVec.ofNat 32 v }) s
  else if i / 16 = 0x410 && u = 2 then
    let n : Fin 16 := Fin.ofNat 16 i
    if (s.cvus[n]).armed then failWith s .invalid
    else writeValue 1 data (· ≤ 1) (fun v s => modCvu s n fun r => { r with measure := v == 1 }) s
  else if i = 0x5000 then writeFabric port u data s
  else if i = 0x5010 && u = 0 then reroute (writeRoutes data s)
  else if 0x5100 ≤ i && i < 0x5140 then writeChannel (Fin.ofNat 64 (i - 0x5100)) u data s
  else if i = 0x6000 && u = 6 then
    writeValue 4 data (1024 ≤ ·) (fun v s => { s with rateWindow := BitVec.ofNat 32 v }) s
  else if i / 16 = 0x601 then writeSlotObject port (Fin.ofNat 16 i) u data aux s
  else if i = 0x6020 && u = 1 then (if rwmOk s port then writeNetHosts data s else failWith s .invalid)
  else if i = 0x7000 then writeSecurity u data s
  else if i = 0x7F00 && u = 0x10 then writeClaim data s
  else if i = 0x7F00 && u = 0x12 then writeSoftwareAlert port data s
  else failWith s .invalid

/-- A write of an object by its range: every index, sub-index and access class (R9, R10, R367). -/
def objStore (port : Port) (index : BitVec 16) (sub : BitVec 8) (data aux : List Byte) (s : State) : WriteResult :=
  let i := index.toNat
  let u := sub.toNat
  if i < 0x3000 then writeLow port i u data s else if i < 0x4000 then writeMid i u data s else writeHigh port i u data aux s

/-- A write of a configuration object that stores the value already held (R373). -/
def heldAlready (s t : State) (index : BitVec 16) (sub : BitVec 8) : Bool :=
  !isCommand index sub && (objRead s index sub).isSome && objRead t index sub == objRead s index sub

/-- A write of an object's whole value; one that stores the value already held changes nothing (R373) but the code bits of the table
entries that it writes, which are computed again (R296). -/
def objWrite (port : Port) (index : BitVec 16) (sub : BitVec 8) (data aux : List Byte) (s : State) : WriteResult :=
  match objStore port index sub data aux s with
  | (t, some .ok) => if heldAlready s t index sub then okWith { s with upsets := t.upsets } else (t, some .ok)
  | r => r

/-! ## Reads (R371, R389) -/

def snapOf (s : State) (r : Requester) : Option Snapshot :=
  match r with
  | .manager => s.snapRequest
  | .tool => s.snapTool
  | .headDie => s.snapUcie

def putSnap (s : State) (r : Requester) (x : Snapshot) : State :=
  match r with
  | .manager => { s with snapRequest := some x }
  | .tool => { s with snapTool := some x }
  | .headDie => { s with snapUcie := some x }

def failRead (s : State) (a : Asked) : State := answer s a opFail .invalid [Status.invalid.code]

/-- Segment k of a value. -/
def answerSegment (s : State) (a : Asked) (v : List Byte) (k : Nat) : State :=
  let rest := v.drop (2048 * k)
  if rest.isEmpty then failRead s a
  else answer s a (if rest.length ≤ 2048 then opDataLast else opDataMore) .ok (rest.take 2048)

def performRead (a : Asked) (s : State) : State :=
  let r := a.port.requester
  match objRead s a.index a.sub with
  | none => failRead s a
  | some v =>
    if v.length ≤ 2048 then (if a.seg = 0 then answerSegment s a v 0 else failRead s a)
    else if a.seg = 0 then answerSegment (putSnap s r { index := a.index, sub := a.sub, data := v }) a v 0
    else match snapOf s r with
      | some x => if x.index == a.index && x.sub == a.sub then answerSegment s a x.data a.seg.toNat else failRead s a
      | none => failRead s a

/-! ## Writes (R371 to R373) -/

/-- A whole write, and what a command of 1F01h does behind its ACK. -/
def performWrite (a : Asked) (data aux : List Byte) (s : State) : State :=
  let t := agentWrite a data (isCommand a.index a.sub) (objWrite a.port a.index a.sub data aux) s
  if a.index == 0x1F01 && a.sub == 0 && (asBefore s a.index a.sub data).isNone && (writeReset a.port data s).2 == some .ok then
    afterReset data t
  else t

/-- The open segmented write that stands where a requester's would: the mailbox holds its own (R372, R398). -/
def openFor (s : State) (r : Requester) : Option OpenWrite := s.openWrites.find? fun o => (o.holder == .headDie) == (r == .headDie)

/-- The open writes without the one that stands where a requester's would. -/
def othersOpen (s : State) (r : Requester) : List OpenWrite := s.openWrites.filter fun o => (o.holder == .headDie) != (r == .headDie)

/-- The open write that a segment continues: same requester and object, next in order. -/
def continues (s : State) (a : Asked) : Option OpenWrite :=
  (openFor s a.port.requester).filter fun o =>
    o.holder == a.port.requester && o.index == a.index && o.sub == a.sub && o.next == a.seg.toNat

def performMore (a : Asked) (data : List Byte) (s : State) : State :=
  let r := a.port.requester
  let put (o : OpenWrite) : State := { s with openWrites := othersOpen s r ++ [o] }
  if data.length != 2048 then answerWrite s a .invalid
  else if a.seg = 0 then
    if (openFor s r).any fun o => o.holder != r then answerWrite s a .busy
    else answerWrite (put { holder := r, index := a.index, sub := a.sub, next := 1, data := data }) a .ok
  else match continues s a with
    | some o => answerWrite (put { o with next := a.seg.toNat + 1, data := o.data ++ data }) a .ok
    | none => answerWrite s a .invalid

def performLast (a : Asked) (data aux : List Byte) (s : State) : State :=
  if a.seg = 0 then performWrite a data aux s
  else match continues s a with
    | some o => performWrite a (o.data ++ data) aux { s with openWrites := othersOpen s a.port.requester }
    | none => answerWrite s a .invalid

/-! ## Requests (R366, R398) -/

def opRead : BitVec 3 := 0
def opWriteMore : BitVec 3 := 1
def opWriteLast : BitVec 3 := 2

def AgentReq.asked (r : AgentReq) : Asked := { port := r.port, index := r.index, sub := r.sub, seg := r.seg }

def performReq (s : State) (r : AgentReq) : State :=
  if r.op == opRead then performRead r.asked s
  else if r.op == opWriteMore then performMore r.asked r.data s
  else performLast r.asked r.data r.aux s

/-- OBJ_CMD as a submission writes it: GO, LENGTH, INDEX, SUB, OP, SEG; a READ carries 1 byte (R370, R397). -/
def objCmdOf (r : AgentReq) : BitVec 64 :=
  BitVec.ofNat 64 (2 ^ 63 + (if r.op == opRead then 1 else r.data.length) * 2 ^ 32) ||| (acceptOf r.asked r.op).setWidth 64

/-- A request as it comes: a frame ends the silence of its bus; the mailbox shows a submission in OBJ_CMD, with DONE clear and the data
in OBJ_DATA. -/
def noteSubmit (s : State) (r : AgentReq) : State :=
  match r.port with
  | .request c _ | .tool c _ => heardOn s c.bus
  | .ucie => { s with mailbox := { s.mailbox with objCmd := objCmdOf r, objDone := false, objData := overlay s.mailbox.objData 0 r.data } }

/-- A request reaches the agent. It waits while the agent is held; a second one on a mailbox whose DONE is clear is ignored. -/
def submit (r : AgentReq) (s : State) : State :=
  if !agentServes s r.port then (if r.port == .ucie then s else noteSubmit s r)
  else if r.port == .ucie && !s.mailbox.objDone then s
  else
    let s := noteSubmit s r
    if s.agentHeld.isSome then { s with agentQueue := s.agentQueue ++ [r] } else performReq s r

/-- What waited is performed in order, until a request holds the agent again. -/
def drainAgent : Nat → State → State
  | 0, s => s
  | n + 1, s =>
    if s.agentHeld.isSome then s
    else match s.agentQueue with
      | [] => s
      | r :: l => drainAgent n (performReq { s with agentQueue := l } r)

/-- The held access is answered, and the agent goes on. -/
def answerHeld (s : State) (h : Held) (st : Status) : State :=
  let a := h.asked
  let s := { setLast s h.slot st with agentHeld := none }
  let s := answerWrite (noteCommand s (isCommand a.index a.sub) a.index a.sub h.data st) a st
  drainAgent (s.agentQueue.length + 1) s

/-! ## The commands -/

/-- OBJECT_READ. -/
def execObjectRead (port : Port) (index : BitVec 16) (sub : BitVec 8) (seg : BitVec 5) (s : State) : Outcome State Fault Refusal :=
  .next (settle s (submit { port := port, op := opRead, index := index, sub := sub, seg := seg, data := [], aux := [] } s))

/-- WRITE_MORE. -/
def execWriteMore (port : Port) (index : BitVec 16) (sub : BitVec 8) (seg : BitVec 5) (data : List Byte) (s : State) :
    Outcome State Fault Refusal :=
  .next (settle s (submit { port := port, op := opWriteMore, index := index, sub := sub, seg := seg, data := data, aux := [] } s))

/-- WRITE_LAST. -/
def execWriteLast (port : Port) (index : BitVec 16) (sub : BitVec 8) (seg : BitVec 5) (data : List Byte) (s : State) :
    Outcome State Fault Refusal :=
  .next (settle s (submit { port := port, op := opWriteLast, index := index, sub := sub, seg := seg, data := data, aux := [] } s))

/-- A whole value is written on a port. -/
def submitWrite (port : Port) (index : BitVec 16) (sub : BitVec 8) (data aux : List Byte) (s : State) : State :=
  submit { port := port, op := opWriteLast, index := index, sub := sub, seg := 0, data := data, aux := aux } s

/-- OBJECT_WRITE. -/
def execObjectWrite (port : Port) (index : BitVec 16) (sub : BitVec 8) (data : List Byte) (s : State) : Outcome State Fault Refusal :=
  .next (settle s (submitWrite port index sub data [] s))

/-- SEGMENT_TIMEOUT: the open segmented write whose last segment came first is discarded. -/
def execSegmentTimeout (s : State) : Outcome State Fault Refusal := .next (settle s { s with openWrites := s.openWrites.tail })

/-- PREPARE_ACKNOWLEDGE: a unit has taken the prepared profile; with the last one the phase is PREPARED (R382 step 4). -/
def execPrepareAcknowledge (u : ModUnit) (s : State) : Outcome State Fault Refusal :=
  match s.agentHeld with
  | none => .next s
  | some h =>
    let r := s.slots[h.slot]
    if !r.unacked.contains u then .next s
    else
      let rest := r.unacked.filter (· != u)
      if rest.isEmpty then
        .next (settle s (answerHeld (modSlot s h.slot fun r => { r with unacked := [], phase := .prepared }) h .ok))
      else .next (settle s (modSlot s h.slot fun r => { r with unacked := rest }))

/-- PREPARE_TIMEOUT: the change ends ABORTED and every unit discards the prepared profile (R382 step 4′). -/
def execPrepareTimeout (s : State) : Outcome State Fault Refusal :=
  match s.agentHeld with
  | none => .next s
  | some h => .next (settle s (answerHeld (modSlot s h.slot fun r => { r with unacked := [], phase := .idle }) h .aborted))

end Sys2Proof.Machine
end

