-- ==== Sys2Proof/Machine/Commands.lean ====
section
/-! DEFINITION. The commands that are a write of one named object: each goes through the agent as that object's write (R366,
R367, R380 to R387, R405, R408). -/

namespace Sys2Proof.Machine

open Host

/-- A write of one object as a command. -/
def writeCmd (port : Port) (index : Nat) (sub : Nat) (data aux : List Byte) (s : State) : Outcome State Fault Refusal :=
  .next (settle s (submitWrite port (BitVec.ofNat 16 index) (BitVec.ofNat 8 sub) data aux s))

def execReset (port : Port) (s : State) := writeCmd port 0x1F01 0 [1] [] s
def execStop (port : Port) (s : State) := writeCmd port 0x1F01 0 [2] [] s
def execFieldReset (port : Port) (s : State) := writeCmd port 0x1F01 0 [3] [] s

def execPrepare (port : Port) (word : BitVec 32) (s : State) := writeCmd port 0x1F10 0 (wordBytes 4 word) [] s
def execPreparedFieldsWrite (port : Port) (j : Slot) (value : BitVec 8) (s : State) := writeCmd port (0x1F20 + j.val) 1 [value] [] s
def execCommit (port : Port) (word : BitVec 32) (s : State) := writeCmd port 0x1F11 0 (wordBytes 4 word) [] s
def execAbort (port : Port) (word : BitVec 32) (s : State) := writeCmd port 0x1F12 0 (wordBytes 4 word) [] s

/-- CLAIM: the request with OP 01h; RELEASE: with OP 02h (R386). -/
def execClaim (port : Port) (request : BitVec 128) (s : State) := writeCmd port 0x7F00 0x10 (overlay (wordBytes 16 request) 0 [1]) [] s
def execRelease (port : Port) (request : BitVec 128) (s : State) := writeCmd port 0x7F00 0x10 (overlay (wordBytes 16 request) 0 [2]) [] s
def execSoftwareAlert (port : Port) (value : Bool) (s : State) := writeCmd port 0x7F00 0x12 (leBytes 1 (bnat value)) [] s

def execUpdateWrite (port : Port) (s : State) := writeCmd port 0x7000 7 [1] [] s
def execUpdateSelect (port : Port) (s : State) := writeCmd port 0x7000 7 [2] [] s
def execCommitSvn (port : Port) (s : State) := writeCmd port 0x7000 7 [3] [] s
def execExtend (port : Port) (value : List Byte) (s : State) := writeCmd port 0x7000 0x0A value [] s
def execQuoteNonce (port : Port) (nonce : List Byte) (s : State) := writeCmd port 0x7000 0x0B nonce [] s

def execLoadBankA (port : Port) (d : Die) (s : State) := writeCmd port (0x3300 + d.val) 6 [1] [] s
def execLoadBankB (port : Port) (d : Die) (s : State) := writeCmd port (0x3300 + d.val) 6 [2] [] s
def execLibrarySwitch (port : Port) (d : Die) (s : State) := writeCmd port (0x3300 + d.val) 7 [1] [] s

def execMixerTestInput (port : Port) (x : BitVec 64) (s : State) := writeCmd port 0x3100 1 (wordBytes 8 x) [] s

/-- Bytes of a ring field's value: a base has 8, a size 4 (R165). -/
def ringFieldBytes (slot : Option Slot) (which : Nat) : Nat :=
  match slot with
  | some _ => if which = 1 || which = 5 || which = 9 then 8 else 4
  | none => if which = 4 then 8 else 4

/-- RING_CONFIG_WRITE: sub-index `which` of 3240h + 16d + j, or of 3200h + d for ring U. -/
def execRingConfigWrite (port : Port) (d : Die) (slot : Option Slot) (which : BitVec 8) (value : BitVec 64) (s : State) :=
  let index := match slot with | some j => 0x3240 + 16 * d.val + j.val | none => 0x3200 + d.val
  writeCmd port index which.toNat (wordBytes (ringFieldBytes slot which.toNat) value) [] s

def execQueueEndTableWrite (port : Port) (d : Die) (data : List Byte) (s : State) := writeCmd port (0x3210 + d.val) 0 data [] s
def execFlagTableWrite (port : Port) (d : Die) (data : List Byte) (s : State) := writeCmd port (0x3220 + d.val) 0 data [] s
def execVariantTableWrite (port : Port) (data : List Byte) (s : State) := writeCmd port 0x3120 1 data [] s
def execBufferTableWrite (port : Port) (j : Slot) (data : List Byte) (s : State) := writeCmd port (0x6010 + j.val) 9 data [] s
def execNetHostTableWrite (port : Port) (data : List Byte) (s : State) := writeCmd port 0x6020 1 data [] s
def execRoutingTableWrite (port : Port) (data : List Byte) (s : State) := writeCmd port 0x5010 0 data [] s
def execPortEnableWrite (port : Port) (value : BitVec 32) (s : State) := writeCmd port 0x5000 3 (wordBytes 4 value) [] s
def execChannelConfigWrite (port : Port) (c : ChanId) (sub : BitVec 8) (data : List Byte) (s : State) :=
  writeCmd port (0x5100 + c.val) sub.toNat data [] s

def execPowerCapWrite (port : Port) (watts : BitVec 16) (s : State) := writeCmd port 0x2000 5 (wordBytes 2 watts) [] s
def execInitialPaceWrite (port : Port) (j : Slot) (pace : BitVec 16) (s : State) := writeCmd port (0x2010 + j.val) 3 (wordBytes 2 pace) [] s
def execEnergyClear (port : Port) (value : BitVec 32) (s : State) := writeCmd port 0x2080 0x13 (wordBytes 4 value) [] s
def execRetireRequest (port : Port) (e : Eng) (word : BitVec 16) (s : State) := writeCmd port (0x3000 + e.val) 0x20 (wordBytes 2 word) [] s
def execRetireEngine (port : Port) (e : Eng) (value : Bool) (s : State) := writeCmd port (0x3000 + e.val) 0x21 (leBytes 1 (bnat value)) [] s

def execRestoreCommand (port : Port) (j : Slot) (peer : List Byte) (s : State) := writeCmd port (0x6010 + j.val) 0x16 [1] peer s
def execSlotAbort (port : Port) (j : Slot) (s : State) := writeCmd port (0x6010 + j.val) 0x18 [1] [] s

end Sys2Proof.Machine
end

