-- ==== Sys2Proof/Machine/Field.lean ====
section
/-! DEFINITION. The field network: heartbeats, alarms, duplicates, silence, the field relay (R374 to R379, R400). -/

namespace Sys2Proof.Machine

open Host

/-! ## Frames of its own -/

/-- Sends a frame of the module's own on both buses. -/
def sendBoth (s : State) (func : BitVec 5) (data : List Byte) : State :=
  sendFrame (sendFrame s .fbA func s.straps.node 0 data) .fbB func s.straps.node 0 data

def isWorker (s : State) : Bool := !s.straps.manager && !s.straps.error

/-! ## Heartbeats and alarms (R374) -/

/-- The 16 bytes of a HEARTBEAT or an ALARM. -/
def beatBytes (s : State) (kind number : Nat) (seq : BitVec 16) : List Byte :=
  wordBytes 2 s.fabric.moduleId ++ leBytes 1 (moduleState s) ++ leBytes 1 kind ++ leBytes 4 number ++ wordBytes 2 seq
    ++ leBytes 2 (heartbeatFlags s) ++ leBytes 4 0

/-- HEARTBEAT: one frame number for the interval, on both buses. -/
def execHeartbeat (s : State) : Outcome State Fault Refusal :=
  if s.power != .running then .next s
  else
    let n := s.field.heartbeatSeq + 1
    let s1 := { s with field := { s.field with heartbeatSeq := n } }
    .next (settle s (sendBoth s1 0x0C (beatBytes s1 0 s.generation.toNat n)))

/-- KIND and FSEQ of the newest failure entry, or 0. -/
def newestFailure (s : State) : Nat × Nat :=
  match s.nv.failures.getLast? with
  | some e => (e.kind.toNat, e.fseq.toNat)
  | none => (0, 0)

/-- ALARM: the latest entry and state, when one is due. -/
def execAlarm (s : State) : Outcome State Fault Refusal :=
  if s.power != .running || !s.field.alarmDue then .next s
  else
    let n := s.field.alarmSeq + 1
    let s1 := { s with field := { s.field with alarmSeq := n, alarmDue := false } }
    .next (settle s (sendBoth s1 0x00 (beatBytes s1 (newestFailure s).1 (newestFailure s).2 n)))

/-! ## What is heard (R375, R377, R378) -/

/-- The module's own NODE in a frame it did not send. -/
def duplicate (s : State) (b : Bus) : State :=
  let s := setBus s b 3
  match b with
  | .fbA => { s with field := { s.field with dupA := true } }
  | .fbB => { s with field := { s.field with dupB := true } }

def presenceBit (x : BitVec 64) (n : Nat) (v : Bool) : BitVec 64 :=
  if v then x ||| BitVec.ofNat 64 (2 ^ n) else x &&& ~~~(BitVec.ofNat 64 (2 ^ n))

/-- What a frame that names a node that sent it does on its bus: an ignored one ends the bus's silence alone, one with the module's own
NODE is a duplicate, and any other ends the silence and does `f`. -/
def heardFrame (c : Carrier) (node : BitVec 6) (f : State → State) (s : State) : State :=
  if !frameTaken s c then heardOn s c.bus
  else if node = s.straps.node then duplicate s c.bus
  else f (heardOn s c.bus)

/-- HEARTBEAT_RECEIVED. An ALARM shows a duplicate and a live bus, and nothing of R378. -/
def execHeartbeatReceived (frame : BeatFrame) (node : BitVec 6) (s : State) : Outcome State Fault Refusal :=
  .next (settle s (heardFrame frame.carrier node (fun s1 =>
    if frame.alarm then s1
    else if s.straps.manager then { s1 with field := { s1.field with presence := presenceBit s1.field.presence node.toNat true } }
    else if isWorker s && node = 0 then { s1 with field := { s1.field with managerLost := false } }
    else s1) s))

/-- MANAGER_LOST: a worker has heard no HEARTBEAT from node 0 for three intervals. -/
def execManagerLost (s : State) : Outcome State Fault Refusal :=
  if s.power != .running || !isWorker s then .next s
  else .next (settle s { s with field := { s.field with managerLost := true } })

/-- WORKER_PRESENCE_EXPIRY: the manager has heard nothing from a node for three intervals. -/
def execWorkerPresenceExpiry (node : Fin 64) (s : State) : Outcome State Fault Refusal :=
  if s.power != .running || !s.straps.manager then .next s
  else .next (settle s { s with field := { s.field with presence := presenceBit s.field.presence node.val false } })

/-- BUS_SILENT: no frame for three intervals, or the controller has left error-active state. A controller in listen-only mode stays
reported as such, one that is bus-off until its recovery, and one that is error-passive is not reported as silent. An error frame that is
seen is counted (R391). -/
def busTrouble (s : State) (b : Bus) (what : BusTrouble) : State :=
  let x := busState s b
  match what with
  | .silent => if x = 0 then setBus s b 4 else s
  | .errorPassive => if x = 0 || x = 4 then setBus s b 1 else s
  | .busOff => if x = 3 then s else setBus s b 2
  | .errorFrame =>
    match b with
    | .fbA => { s with field := { s.field with errorsA := countUp s.field.errorsA } }
    | .fbB => { s with field := { s.field with errorsB := countUp s.field.errorsB } }

def execBusSilent (b : Bus) (what : BusTrouble) (s : State) : Outcome State Fault Refusal :=
  if s.power != .running then .next s else .next (settle s (busTrouble s b what))

/-- BUS_OFF_RECOVERY: the standard's automatic recovery, or frames are seen again after silence: the bus is error-active again (R368).
A controller in listen-only mode stays so until reset (R377). -/
def execBusOffRecovery (b : Bus) (s : State) : Outcome State Fault Refusal :=
  if s.power != .running || busState s b = 3 then .next s else .next (settle s (setBus s b 0))

/-! ## The field relay (R397, R400) -/

/-- FR_STATUS: DONE, the response's bytes, its acceptance field, and the status in [7:0] (log entry 39). -/
def relayStatus (bytes : Nat) (accept : BitVec 32) (st : Status) : BitVec 64 :=
  BitVec.ofNat 64 (2 ^ 63 + bytes * 2 ^ 32 + accept.toNat / 256 * 256 + st.code.toNat)

def relayBus (cmd : BitVec 64) : Bus := if bitOf cmd 58 then .fbB else .fbA
def relayNode (cmd : BitVec 64) : BitVec 6 := cmd.extractLsb' 48 6
def relayLength (cmd : BitVec 64) : Nat := bitsOf cmd 47 32
def relayAccept (cmd : BitVec 64) : BitVec 32 := cmd.extractLsb' 0 32

/-- FIELD_RELAY: a write of FR_CMD, with the request's data written to FR_REQ. A GO that meets an unanswered request is ignored; after a
boot fault the write is kept and no frame is sent (R438). -/
def execFieldRelay (cmd : BitVec 64) (data : List Byte) (s : State) : Outcome State Fault Refusal :=
  let f := s.field
  let req := overlay f.frReq 0 data
  if !s.mailbox.linkUp || f.frWaiting || !(s.power == .running || s.power == .bootFault false) then .next s
  else if !bitOf cmd 63 || s.power != .running then .next (settle s { s with field := { f with frCmd := cmd, frReq := req } })
  else if !s.straps.manager then
    .next (settle s { s with field := { f with frCmd := cmd, frReq := req, frStatus := relayStatus 0 0 .invalid } })
  else
    let s1 := { s with field := { f with frCmd := cmd, frReq := req, frStatus := 0, frWaiting := true } }
    .next (settle s (sendFrame s1 (relayBus cmd) 0x04 (relayNode cmd) (relayAccept cmd) (fitBytes (relayLength cmd) req)))

/-- A RESPONSE that matches the relayed request: its bus, its node, and the object and segment it names. -/
def relayMatches (s : State) (b : Bus) (node : BitVec 6) (accept : BitVec 32) : Bool :=
  let c := s.field.frCmd
  s.field.frWaiting && relayBus c == b && relayNode c == node && bitsOf accept 31 8 == bitsOf (relayAccept c) 31 8
    && bitsOf accept 4 0 == bitsOf (relayAccept c) 4 0

/-- RESPONSE: a RESPONSE frame is received. A TOOL_RESPONSE shows a duplicate and a live bus, and answers no relay. -/
def execResponse (frame : AnswerFrame) (node : BitVec 6) (accept : BitVec 32) (data : List Byte) (s : State) : Outcome State Fault Refusal :=
  .next (settle s (heardFrame frame.carrier node (fun s1 =>
    if !frame.tool && relayMatches s frame.carrier.bus node accept then
      { s1 with field := { s1.field with frWaiting := false, frResp := data, frStatus := relayStatus data.length accept .ok } }
    else s1) s))

/-- RELAY_TIMEOUT. -/
def execRelayTimeout (s : State) : Outcome State Fault Refusal :=
  if !s.field.frWaiting then .next s
  else .next (settle s { s with field := { s.field with frWaiting := false, frStatus := relayStatus 0 0 .timeout } })

end Sys2Proof.Machine
end

