-- ==== Sys2Proof/Machine/Mainband.lean ====
section
/-! DEFINITION. The head die's transactions: writes, reads, doorbells, the event ring and the UCIe link (R136 to R138, R392 to
R399, R438). -/

namespace Sys2Proof.Machine

open Host

/-! ## Writes and reads (R393, R394) -/

/-- A transaction carries 1 to 256 whole bursts. -/
def burstsCarried (n : Nat) : Bool := n % 256 == 0 && 1 ≤ n / 256 && n / 256 ≤ 256

/-- MAINBAND_WRITE. -/
def execMainbandWrite (tag : BitVec 10) (addr : BitVec 56) (data : List Byte) (s : State) : Outcome State Fault Refusal :=
  if !burstsCarried data.length then .fault .malformedTransfer
  else .next (settle s (headWrite tag addr ((pieces 256 data).map fun d => (d, none)) s))

/-- MAINBAND_WRITE_MASKED. -/
def execMainbandWriteMasked (tag : BitVec 10) (addr : BitVec 56) (data : List Byte) (mask : List Bool) (s : State) :
    Outcome State Fault Refusal :=
  if !burstsCarried data.length || mask.length != data.length then .fault .malformedTransfer
  else .next (settle s (headWrite tag addr (((pieces 256 data).zip (pieces 256 mask)).map fun p => (p.1, some p.2)) s))

/-- A READ's answers: one DATA for each burst. -/
def headRead (tag : BitVec 10) (addr : BitVec 56) (n : Nat) (s : State) : State :=
  let none_ (st : Status) : State :=
    (List.range n).foldl (fun s i => emit s (.data tag i st (List.replicate 256 0))) s
  match mainbandState s with
  | .silent => s
  | .busy => none_ .busy
  | .served =>
    let b := globalLocal addr.toNat / 256
    if !headRangeOk s addr (256 * (n - 1) + 1) false then none_ .invalid
    else (List.range n).foldl (fun s i =>
      let bad := burstBad s (b + i)
      let x := takenBurst (touchBurst s (b + i)) (burstBytes s (b + i)) bad
      emit x.1 (.data tag i (if bad then .eccUncorr else .ok) x.2)) s

/-- MAINBAND_READ: bursts − 1 in `bursts`. -/
def execMainbandRead (tag : BitVec 10) (addr : BitVec 56) (bursts : BitVec 8) (s : State) : Outcome State Fault Refusal :=
  .next (settle s (headRead tag addr (bursts.toNat + 1) s))

/-! ## Doorbells (R136 to R138, R395, R396) -/

/-- DOORBELL_H. -/
def execDoorbellH (tag : BitVec 10) (d : Die) (j : Slot) (v : BitVec 16) (s : State) := doorbell tag .h d j v s

/-- DOORBELL_C. -/
def execDoorbellC (tag : BitVec 10) (d : Die) (j : Slot) (v : BitVec 16) (s : State) := doorbell tag .c d j v s

/-- DOORBELL_U. -/
def execDoorbellU (tag : BitVec 10) (d : Die) (v : BitVec 16) (s : State) := doorbell tag .u d 0 v s

/-! ## The transactions as they stand on the link (R393, R395) -/

/-- The command of a doorbell word. RING 11b is reserved, and ring X has none. -/
def bellCommand (tag : BitVec 10) (w : BitVec 64) : Option Instr :=
  let die : Die := Fin.ofNat 4 (bitsOf w 29 28)
  let slot : Slot := Fin.ofNat 16 (bitsOf w 27 24)
  let value : BitVec 16 := w.extractLsb' 0 16
  match bitsOf w 31 30 with
  | 0 => some (.doorbellH tag die slot value)
  | 1 => some (.doorbellC tag die slot value)
  | 2 => some (.doorbellU tag die value)
  | _ => none

/-- The command of an ATOMIC: ATOP, and two operands of 8 bytes. -/
def atomicCommand (tag : BitVec 10) (addr : BitVec 56) (atop : BitVec 8) (a b : BitVec 64) : Option Instr :=
  let wide := bitOf atop 7
  match (Config.atomicCode (atop.setWidth 7)).val with
  | 0 => some (.atomicAdd none tag addr wide a)
  | 1 => some (.atomicSwap none tag addr wide a)
  | 2 => some (.atomicAnd none tag addr wide a)
  | 3 => some (.atomicOr none tag addr wide a)
  | 4 => some (.atomicXor none tag addr wide a)
  | 5 => some (.atomicMin none tag addr wide a)
  | 6 => some (.atomicMax none tag addr wide a)
  | 7 => some (.atomicMinu none tag addr wide a)
  | 8 => some (.atomicMaxu none tag addr wide a)
  | 9 => some (.atomicCas tag addr a b)
  | _ => none

/-- The command of a request that the head die sends: its 16-byte header and what follows it. -/
def headCommand (header rest : List Byte) : Option Instr :=
  let tag : BitVec 10 := BitVec.ofNat 10 (fieldNat header 2 2)
  let bursts : BitVec 8 := BitVec.ofNat 8 (fieldNat header 4 1)
  let addr : BitVec 56 := BitVec.ofNat 56 (fieldNat header 8 8)
  let n := bursts.toNat + 1
  match fieldNat header 0 1 with
  | 0x01 => some (.mainbandWrite tag addr (fitBytes (256 * n) rest))
  | 0x02 =>
    let l := pieces 288 (fitBytes (288 * n) rest)
    some (.mainbandWriteMasked tag addr (l.flatMap fun p => p.drop 32)
      (l.flatMap fun p => (List.range 256).map fun i => (p.getD (i / 8) 0).getLsbD (i % 8)))
  | 0x03 => some (.mainbandRead tag addr bursts)
  | 0x04 => atomicCommand tag addr (BitVec.ofNat 8 (fieldNat header 5 1)) (BitVec.ofNat 64 (fieldNat rest 0 8)) (BitVec.ofNat 64 (fieldNat rest 8 8))
  | 0x05 => bellCommand tag (BitVec.ofNat 64 (fieldNat header 8 8))
  | _ => none

/-! ## The sideband registers by their offsets (R397) -/

/-- OBJ_STATUS: DONE as it stands, and the last answer. -/
def objStatusWord (m : MailboxR) : BitVec 64 := (BitVec.ofBool m.objDone).append (m.objStatus.setWidth 63)

/-- A register read at an offset; one that the table does not list reads 0. -/
def mailboxRead (s : State) (off : Nat) : BitVec 64 :=
  let m := s.mailbox
  let f := s.field
  let part (l : List Byte) (base : Nat) : BitVec 64 := BitVec.ofNat 64 (fieldNat l (off - base) 8)
  if off % 8 != 0 then 0
  else if off = 0x0000 then m.objCmd
  else if off = 0x0008 then objStatusWord m
  else if 0x0800 ≤ off && off < 0x1000 then part m.objData 0x0800
  else if off = 0x1000 then m.evBase
  else if off = 0x1008 then m.evSize
  else if off = 0x1010 then m.evHead
  else if off = 0x1018 then m.evTail
  else if off = 0x2000 then f.frCmd
  else if off = 0x2008 then f.frStatus
  else if 0x2800 ≤ off && off < 0x3000 then part f.frReq 0x2800
  else if 0x3000 ≤ off && off < 0x3800 then part f.frResp 0x3000
  else 0

/-- The command that a register write at an offset is; none for one that only stores, or that no register takes. -/
def mailboxCommand (s : State) (off : Nat) (v : BitVec 64) : Option Instr :=
  let index : BitVec 16 := v.extractLsb' 16 16
  let sub : BitVec 8 := v.extractLsb' 8 8
  let seg : BitVec 5 := v.extractLsb' 0 5
  let data := fitBytes (bitsOf v 47 32) s.mailbox.objData
  if off = 0x0000 && bitOf v 63 then
    match bitsOf v 7 5 with
    | 0 => some (.objectRead .ucie index sub seg)
    | 1 => some (.writeMore .ucie index sub seg data)
    | 2 => some (.writeLast .ucie index sub seg data)
    | _ => none
  else if off = 0x1000 then some (.evRingConfigWrite false v)
  else if off = 0x1008 then some (.evRingConfigWrite true v)
  else if off = 0x1010 then some (.evHeadWrite v)
  else if off = 0x2000 then some (.fieldRelay v s.field.frReq)
  else none

/-- A register write that only stores: OBJ_CMD without GO, OBJ_DATA, FR_REQ. Any other leaves the state. -/
def mailboxStore (s : State) (off : Nat) (v : BitVec 64) : State :=
  if off = 0x0000 && !bitOf v 63 then { s with mailbox := { s.mailbox with objCmd := v } }
  else if 0x0800 ≤ off && off < 0x1000 && off % 8 == 0 then
    { s with mailbox := { s.mailbox with objData := overlay (fitBytes 2048 s.mailbox.objData) (off - 0x0800) (wordBytes 8 v) } }
  else if 0x2800 ≤ off && off < 0x3000 && off % 8 == 0 then
    { s with field := { s.field with frReq := overlay (fitBytes 2048 s.field.frReq) (off - 0x2800) (wordBytes 8 v) } }
  else s

/-! ## The event ring (R397, R399) -/

/-- The mailbox registers answer: the link is up and the hub runs. -/
def mailboxUp (s : State) : Bool := s.mailbox.linkUp && (s.power == .running || s.power == .bootFault false)

/-- EV_HEAD_WRITE. One that makes an empty ring non-empty has EVENT_PENDING sent (R399). -/
def execEvHeadWrite (v : BitVec 64) (s : State) : Outcome State Fault Refusal :=
  let m := s.mailbox
  let t := { s with mailbox := { m with evHead := v } }
  if !mailboxUp s then .next s
  else if m.evSize != 0 && m.evHead == m.evTail && v != m.evTail then .next (settle s (emit t .eventPending))
  else .next (settle s t)

/-- EV_RING_CONFIG_WRITE: EV_SIZE or EV_BASE. A value the register does not admit is ignored (log entry 41). -/
def execEvRingConfigWrite (size : Bool) (v : BitVec 64) (s : State) : Outcome State Fault Refusal :=
  let n := v.toNat
  let ok := if size then n = 0 || (isPow2 n && inRange 16 65536 n)
    else n % 4096 = 0 && decide (headBase ≤ n) && decide (n < tier2End)
  if !mailboxUp s || !ok then .next s
  else
    let m := { s.mailbox with evHead := 0, evTail := 0 }
    .next (settle s { s with mailbox := if size then { m with evSize := v } else { m with evBase := v } })

/-! ## The link (R392) -/

/-- UCIE_LINK_DOWN. -/
def execUcieLinkDown (s : State) : Outcome State Fault Refusal := .next (settle s { s with mailbox := { s.mailbox with linkUp := false } })

/-- UCIE_LINK_RETRAINED. -/
def execUcieLinkRetrained (s : State) : Outcome State Fault Refusal := .next (settle s { s with mailbox := { s.mailbox with linkUp := true } })

end Sys2Proof.Machine
end

