-- ==== Sys2Proof/Machine/Ringmaster.lean ====
section
/-! DEFINITION. The Ringmaster: publication on ring X, the control registers, and LR and SC of a context (R166 to R177, R230, R235). -/

namespace Sys2Proof.Machine

open Host

/-! ## Contexts -/

/-- Registers at a routine's entry by their names (R170). -/
def Ctx.sp (x : Ctx) : BitVec 64 := x.regs[2]
def Ctx.a0 (x : Ctx) : BitVec 64 := x.regs[10]
def Ctx.a1 (x : Ctx) : BitVec 64 := x.regs[11]
def Ctx.a2 (x : Ctx) : BitVec 64 := x.regs[12]
def Ctx.a3 (x : Ctx) : BitVec 64 := x.regs[13]

/-- The context of die d that may act, with its CALL. -/
def actingCtx (s : State) (d : Die) (c : CtxId) : Option (Ctx × Tk) :=
  match ctxOf s d c with
  | none => none
  | some x =>
    if s.power != .running || unitIsolated s (.ringmaster d) || !ctxActs x then none
    else (getTk s x.ticket).map fun k => (x, k)

/-- What an acting context does, unless the Ringmaster meets a wrong control field or table entry in it (R294, R296). -/
def withCtx (s : State) (d : Die) (c : CtxId) (reads : List (CodedTable × Nat)) (f : Ctx → Tk → Outcome State Fault Refusal) :
    Outcome State Fault Refusal :=
  match actingCtx s d c with
  | none => .next s
  | some (x, k) =>
    if controlWrong s (.ringmaster d) reads then
      .next (settle s (controlFault s (.ringmaster d) (unitByte 5 d.val) x.slot x.ticket.val))
    else f x k

def modCtx (s : State) (d : Die) (c : CtxId) (f : Ctx → Ctx) : State :=
  match ctxOf s d c with
  | some x => putCtx s d c (some (f x))
  | none => s

/-- A context's event: a replay raises none (R307; log entry 84). -/
def ctxEvent (s : State) (d : Die) (c : CtxId) (x : Ctx) (k : Tk) (code detail : Nat) : State :=
  if k.isReplay then s else raiseEvent s code d c.val x.slot.val x.ticket.val x.epoch detail

/-- A context's store: a replay performs none (R307). -/
def ctxStore (s : State) (k : Tk) (a : Nat) (l : List Byte) : State := if k.isReplay then s else (writeSpan s a l).1

/-- DETAIL of a CALL: the library epoch and bits [47:0] of a0 (R171). -/
def callDetail (s : State) (d : Die) (x : Ctx) (a0 : BitVec 64) : Nat := (ctxEpoch s d x).toNat * 2 ^ 48 + a0.toNat % 2 ^ 48

/-- A routine returns; its CALL ends with OK. -/
def returnCtx (s : State) (d : Die) (c : CtxId) (x : Ctx) (a0 : BitVec 64) : State := endContext s d c [] (callDetail s d x a0)

/-! ## Publication on ring X (R171 to R173) -/

/-- Every earlier-fetched CALL of the slot on the die has completed. -/
def publicationFree (s : State) (k : Tk) : Bool :=
  !(tksOf s).any fun o => dFamily o.desc == some .call && o.shelf == k.shelf && dSlot o.desc == dSlot k.desc
    && decide (o.inst < k.inst) && o.phase != .completed

/-- The tail moves: the CALL's ticket is kept beside each slot published (R171). -/
def publish (s : State) (k : Tk) (tail : BitVec 16) : State :=
  modRings s k.ringDie (dSlot k.desc) fun r =>
    let t := r.x.tail.toNat
    { r with
      x := { r.x with tail := tail }
      xParent := (List.range (slotsUpTo r.x t tail.toNat)).foldl (fun l i =>
        sparseSet none l ((t + i) % r.x.size.toNat) (some (k.ticket, k.idx))) r.xParent }

/-- Writes as many of a context's formed descriptors to ring X as find free slots, and publishes them. A first publication is held,
descriptors and all, while an earlier CALL is not done, so that they take the slots that follow those of the earlier CALLs (R172; log
entry 85). A replay's go to the replay alone (R307). -/
def writeFormed (s : State) (d : Die) (c : CtxId) : State :=
  match actingCtx s d c with
  | none => s
  | some (x, k) =>
    if k.isReplay then
      modReplay (modCtx s d c fun x => { x with todo := [] }) (dSlot k.desc) fun r =>
        { r with descs := r.descs ++ x.todo.map fun e => ((k.ticket, k.idx), e) }
    else if x.todo.isEmpty then s
    else if !x.published && !publicationFree s k then modCtx s d c fun x => { x with held := true }
    else
      let r := (ringsOf s k.ringDie (dSlot k.desc)).x
      let n := min (rxSpace s k) x.todo.length
      if n = 0 then s
      else
        let s := ((List.range n).zip x.todo).foldl (fun s p =>
          (writeSpan s (r.base.toNat + 128 * ((r.tail.toNat + p.1) % r.size.toNat)) (wordBytes 128 p.2)).1) s
        publish (modCtx s d c fun x => { x with todo := x.todo.drop n, published := true }) k
          (BitVec.ofNat 16 ((r.tail.toNat + n) % r.size.toNat))

/-- The routine returns once it has written all it formed and its publication is out. -/
def finishRoutine (s : State) (d : Die) (c : CtxId) : State :=
  match actingCtx s d c with
  | none => s
  | some (x, _) =>
    match x.ret with
    | some a0 => if x.todo.isEmpty then returnCtx s d c x a0 else s
    | none => s

/-- PUBLICATION_RELEASE: every earlier-fetched CALL of the slot on the die has completed, so a held publication proceeds. -/
def execPublicationRelease (d : Die) (c : CtxId) (s : State) : Outcome State Fault Refusal :=
  match ctxOf s d c with
  | none => .next s
  | some x =>
    match getTk s x.ticket with
    | some k =>
      if s.power != .running || unitIsolated s (.ringmaster d) || !x.held || !publicationFree s k then .next s
      else .next (settle s (finishRoutine (writeFormed (modCtx s d c fun x => { x with held := false }) d c) d c))
    | none => .next s

/-- A new tail that does not pass the head (R173). -/
def rxTailOk (s : State) (k : Tk) (tail : BitVec 16) : Bool :=
  let r := (ringsOf s k.ringDie (dSlot k.desc)).x
  decide (tail.toNat < r.size.toNat) && decide (slotsUpTo r r.tail.toNat tail.toNat ≤ rxSpace s k)

/-- The descriptors that stand in ring X from its tail up to another. -/
def storedUpTo (s : State) (r : Ring) (tail : BitVec 16) : List Desc :=
  (List.range (slotsUpTo r r.tail.toNat tail.toNat)).map fun i =>
    descOf (memBytes s (r.base.toNat + 128 * ((r.tail.toNat + i) % r.size.toNat)) 128)

/-- A publication of the slots up to a new tail takes place, or, if it is the context's first and an earlier CALL is not done, is held
with the descriptors that stand there (R172). -/
def publishOrHold (s : State) (d : Die) (c : CtxId) (x : Ctx) (k : Tk) (tail : BitVec 16) : State :=
  if x.published || publicationFree s k then publish (modCtx s d c fun x => { x with published := true }) k tail
  else
    let l := storedUpTo s (ringsOf s k.ringDie (dSlot k.desc)).x tail
    modCtx s d c fun x => { x with held := true, todo := l }

/-- RX_TAIL: publishes up to a new tail; one that passes the head traps. What a routine has formed goes first; a replay publishes
nothing on ring X. -/
def execRxTail (d : Die) (c : CtxId) (tail : BitVec 16) (s : State) : Outcome State Fault Refusal :=
  withCtx s d c [] fun x k =>
    if !x.todo.isEmpty || k.isReplay then .next s
    else if !rxTailOk s k tail then .next (settle s (trapContext s d c 7 0x400002000008))
    else .next (settle s (publishOrHold s d c x k tail))

/-! ## Control registers (R173, R230) -/

/-- FLAG_WAIT: the context suspends until the flag of its die is satisfied. -/
def execFlagWait (d : Die) (c : CtxId) (word : BitVec 64) (s : State) : Outcome State Fault Refusal :=
  let f : BitVec 12 := word.extractLsb' 32 12
  let target : BitVec 16 := word.extractLsb' 0 16
  match actingCtx s d c with
  | none => .next s
  | some (_, k) =>
    withCtx s d c [(.flag k.ringDie, f.toNat)] fun _ _ =>
      if flagHolds s k f target then .next s
      else .next (settle s (modCtx s d c fun x => { x with wait := some (f, target), waitMet := false }))

/-- FLAG_WAIT_RESUME: the awaited flag has been satisfied since the context suspended, so the context goes on, even if the flag has
moved on (R151, R173). -/
def execFlagWaitResume (d : Die) (c : CtxId) (s : State) : Outcome State Fault Refusal :=
  match ctxOf s d c with
  | none => .next s
  | some x =>
    match x.wait, getTk s x.ticket with
    | some (f, target), some k =>
      if s.power != .running || unitIsolated s (.ringmaster d) || !(x.waitMet || flagHolds s k f target) then .next s
      else .next (settle s (modCtx s d c fun x => { x with wait := none, waitMet := false }))
    | _, _ => .next s

/-- FLAG_READ: the context names a flag of its die and reads its VALUE. -/
def execFlagRead (d : Die) (c : CtxId) (flag : BitVec 12) (s : State) : Outcome State Fault Refusal :=
  match actingCtx s d c with
  | none => .next s
  | some (_, k) =>
    withCtx s d c [(.flag k.ringDie, flag.toNat)] fun _ _ =>
      let v := feValue (seenFlag s k flag)
      .next (settle s (emit (modCtx s d c fun x => { x with flagRead := flag }) (.contextValue d c (v.zeroExtend 64))))

/-- EVENT: a routine event, code in [63:56]; codes below 80h are not routine events and raise nothing (log entry 50). -/
def execEvent (d : Die) (c : CtxId) (word : BitVec 64) (s : State) : Outcome State Fault Refusal :=
  withCtx s d c [] fun x k =>
    let code := bitsOf word 63 56
    if code < 0x80 then .next s
    else .next (settle s (ctxEvent s d c x k code (bitsOf word 55 0)))

/-- ROUTINE_RETURN: ECALL with a7 = 0 (R170); the CALL completes once what the routine has written is published (R171). -/
def execRoutineReturn (d : Die) (c : CtxId) (a0 : BitVec 64) (s : State) : Outcome State Fault Refusal :=
  withCtx s d c [] fun x _ =>
    if x.todo.isEmpty then .next (settle s (returnCtx s d c x a0))
    else .next (settle s (finishRoutine (writeFormed (modCtx s d c fun x => { x with ret := some a0 }) d c) d c))

/-- RISCV_FENCE: waits until every earlier access of the context has been performed at its home. In this model each access is
performed by its own command, so nothing is left to wait for (log entry 50). -/
def execRiscvFence (d : Die) (c : CtxId) (s : State) : Outcome State Fault Refusal := withCtx s d c [] fun _ _ => .next s

/-- MIRROR_DUE as a routine reads it: a replayed CALL sees what its first run saw (R175, R307). -/
def mirrorDueSeen (s : State) (k : Tk) : Option (BitVec 32) :=
  let r := s.slots[dSlot k.desc]
  if k.isReplay then (r.callLogPrev.find? fun l => l.call == (k.ticket, k.idx)).bind (·.due) else r.mirrorDue

/-- The 8 bytes at an offset of the control registers as a read gives them; none for a write-only register and for an offset that holds
none (R173). -/
def controlRead (s : State) (d : Die) (x : Ctx) (k : Tk) (off : Nat) : Option (BitVec 64) :=
  match off with
  | 0x000 => some x.a3
  | 0x010 => some (BitVec.ofNat 64 (rxSpace s k))
  | 0x020 => some ((feValue (seenFlag s k x.flagRead)).zeroExtend 64)
  | 0x030 => some (match mirrorDueSeen s k with | some t => BitVec.ofNat 64 (t.toNat * 2 ^ 32 + 1) | none => 0)
  | 0x038 => some ((s.dies[d]).libEpoch.zeroExtend 64)
  | _ => none

/-! ## LR and SC (R167, R168, R235) -/

def bankWindow : Nat := 0x400000000000
def controlBase : Nat := 0x400002000000

/-- What a load of n bytes by a context gives, and the burst or the private memory's place that a reservation goes to; none where it
traps (R167, R168). The bank window and the control registers are read, and take no reservation (log entry 86). -/
def ctxLoad (s : State) (d : Die) (c : CtxId) (x : Ctx) (k : Tk) (a n : Nat) : Option (List Byte × Option Nat) :=
  if inPriv a n then (if privBroken s d a then none else some (privBytes s d a n, some (privBurst d a)))
  else if bankWindow ≤ a ∧ a + n ≤ bankWindow + 0x10000 then
    let code := (if x.bankB then (s.dies[d]).bankB else (s.dies[d]).bankA).code
    some (fitBytes n ((code.drop (a - bankWindow)).take n), none)
  else if controlBase ≤ a ∧ a + n ≤ controlBase + 0x1000 then
    (controlRead s d x k ((a - controlBase) / 8 * 8)).map fun v => (((wordBytes 8 v).drop (a % 8)).take n, none)
  else if ctxReaches s d c a n && !spanBad s a n then some (memBytes s a n, some (a / 256))
  else none

/-- LOAD_RESERVED: LR.W or LR.D; it traps where misaligned or out of reach, and its reservation replaces an earlier one. -/
def execLoadReserved (d : Die) (c : CtxId) (addr : BitVec 64) (wide : Bool) (s : State) : Outcome State Fault Refusal :=
  let a := addr.toNat
  let n := if wide then 8 else 4
  withCtx s d c [] fun x k =>
    if a % n != 0 then .next (settle s (trapContext s d c 4 a))
    else match ctxLoad s d c x k a n with
      | none => .next (settle s (trapContext s d c 5 a))
      | some (l, b) =>
        let v : BitVec 64 := if wide then bytesWord 64 l else (bytesWord 32 l).signExtend 64
        .next (settle s (emit (modCtx s d c fun x => { x with reservation := b }) (.contextValue d c v)))

/-- Where a context may store n bytes, and where a reservation on them is kept (R167, R168, R173). -/
def storable (s : State) (d : Die) (c : CtxId) (k : Tk) (a n : Nat) : Option Nat :=
  if inPriv a n then (if n != 8 && privBroken s d a then none else some (privBurst d a))
  else if ctxReaches s d c a n && !spanBad s a n && (k.isReplay || !rxTaken s k a) then some (a / 256)
  else none

/-- STORE_CONDITIONAL: SC.W or SC.D; it writes and returns 0 while the reservation stands, else it returns 1. -/
def execStoreConditional (d : Die) (c : CtxId) (addr : BitVec 64) (wide : Bool) (value : BitVec 64) (s : State) :
    Outcome State Fault Refusal :=
  let a := addr.toNat
  let n := if wide then 8 else 4
  withCtx s d c [] fun x k =>
    if a % n != 0 then .next (settle s (trapContext s d c 6 a))
    else match storable s d c k a n with
      | none => .next (settle s (trapContext s d c 7 a))
      | some b =>
        if x.reservation != some b then
          .next (settle s (emit (modCtx s d c fun x => { x with reservation := none }) (.contextValue d c 1)))
        else if heldBurst s b then .next s
        else
          let l := wordBytes n value
          let s1 := if inPriv a n then privPut (dropReservations s b) d a l else ctxStore s k a l
          .next (settle s (emit (modCtx s1 d c fun x => { x with reservation := none }) (.contextValue d c 0)))

end Sys2Proof.Machine
end

