-- ==== Sys2Proof/Machine/Ndotas.lean ====
section
/-! DEFINITION. The routines of Ndotas and routines outside it: what they read, the descriptors they may form, clip and skip, snapshots,
mirror steps (R172, R175, R178 to R180, R244 to R256, R328). -/

namespace Sys2Proof.Machine

open Host

/-! ## Descriptors that a routine forms (R172, R175, R178, R179) -/

/-- A descriptor with w bits at bit `lo` of byte `off` replaced. -/
def dPut (d : Desc) (off lo w v : Nat) : Desc :=
  let m : Desc := BitVec.ofNat 1024 ((2 ^ w - 1) * 2 ^ (8 * off + lo))
  (d &&& ~~~m) ||| BitVec.ofNat 1024 (v % 2 ^ w * 2 ^ (8 * off + lo))

/-- The routine writes JOB_SLOT, EPOCH and the next ticket of its range into a header. -/
def stamp (k : Tk) (base count n : Nat) (d : Desc) : Desc :=
  dPut (dPut (dPut d 2 0 10 (base + n % max count 1)) 5 0 4 (dSlot k.desc).val) 6 0 16 (dEpoch k.desc).toNat

/-- A routine writes no descriptor of family CALL or CANCEL (R172). -/
def writable (d : Desc) : Bool := dFamily d != some .call && dFamily d != some .cancel

/-- The update's VEC functions: ADAM_MOMENTS and ADAM_WEIGHT, or SGD_MOMENTUM. -/
def isAdam (d : Desc) : Bool := isFn .vec 0x40 d || isFn .vec 0x41 d
def isSgd (d : Desc) : Bool := isFn .vec 0x42 d

/-- The descriptors of LAYER_FWD (R178). -/
def isForward (d : Desc) : Bool :=
  match dFamily d with
  | some .stream => true
  | some .loadstat => true
  | some .swap => true
  | some .matmul => opensSet d == (dAccSeq d == 0)
  | some .drain => !dForce d && dTarget d != 2
  | some .vec => !isAdam d && !isSgd d
  | _ => false

/-- The descriptors of LAYER_BWD. The backward of a micro-batch drains data gradients to L8g in domain 00h with B = m, and forms no weight
gradient. The weight pass starts each set at ACC_SEQ 0, and drains it into a REDUCE_SCATTER with SRC_DRAIN and NORM, stored in L16s in
domain 01h with B = FFFFh. Order and number are the plan's (R178, R244 to R246; log entry 87). -/
def isBackward (i : Config.PlanInput) (d : Desc) : Bool :=
  let weights := Config.weightPass i
  match dFamily d with
  | some .collective =>
    weights && dFunc d == 1 && coSrcDrain d && coNorm d && dOut d 0 == some .l16s && coDomain d == 1 && coB d == 0xFFFF
  | some .drain =>
    !dForce d && (if dTarget d = 2 then weights
      else dTarget d != 0 || (!weights && dOut d 0 == some .l8g && drDomain d == 0 && drB d == (Config.microBatch i).toNat))
  | some .matmul => isForward d && !(weights && dAccMode d == .seed)
  | _ => isForward d

/-- The descriptors of an update: the one kind of update or the other; those of a skip: what performs its sets, and nothing that updates
(R178, R180, R248; log entry 87). -/
def updateOnly (l : List Desc) : List Desc := if l.any isAdam then l.filter isAdam else l.filter isSgd
def skipOnly (l : List Desc) : List Desc := l.filter fun d => dFamily d == some .flag

/-- The argument block of a CALL, and whether a burst of it came poisoned. -/
def argBlock (s : State) (x : Ctx) : State × List Byte × Bool := readSpan s x.a0.toNat x.a1.toNat

/-- The routine-specific part (R179): in the block, or at PLAN_ADDR; none where a context cannot reach it. -/
def planPart (s : State) (d : Die) (c : CtxId) (args : List Byte) : Option (State × List Byte) :=
  let n := fieldNat args 12 4
  let a := fieldNat args 16 8
  if a = 0 then some (s, (args.drop 32).take n)
  else if n = 0 then some (s, [])
  else if !ctxReaches s d c a n || spanBad s a n then none
  else
    let r := readSpan s a n
    some (r.1, r.2.1)

/-- What a routine reads, as the free values of its plan take it (log entry 13). -/
def planInput (s : State) (d : Die) (x : Ctx) (k : Tk) (args plan : List Byte) (phase : Nat) : Config.PlanInput :=
  let r := s.dies[d]
  { code := (if x.bankB then r.bankB else r.bankA).code, routine := BitVec.ofNat 16 (caRoutine k.desc), args := args, plan := plan,
    inline := caInline k.desc, slot := dSlot k.desc, epoch := dEpoch k.desc, phase := phase }

def plan (s : State) (d : Die) (x : Ctx) (k : Tk) (args pl : List Byte) (phase : Nat) : List Desc :=
  (Config.plan (planInput s d x k args pl phase)).filter writable

/-- Descriptors formed: they take tickets from TICKET_BASE on, in ascending order and round again. -/
def form (args : List Byte) (k : Tk) (l : List Desc) (x : Ctx) : Ctx :=
  { x with
    todo := x.todo ++ ((List.range l.length).zip l).map fun p => stamp k (fieldNat args 4 2 % 1024) (fieldNat args 6 2) (x.used + p.1) p.2
    used := x.used + l.length }

/-- The set word of DONE_FLAG, at scope DEVICE, in the first set word that is free (R179; log entry 13). -/
def doneSet (args : List Byte) (d : Desc) : Desc :=
  dPut d (if (dSet d 0).isNone then 64 else 72) 0 64
    (2 ^ 63 + 2 * 2 ^ 60 + fieldNat args 8 2 % 4096 * 2 ^ 48 + fieldNat args 10 2 % 256)

/-- The last descriptor of a list sets DONE_FLAG. -/
def withDone (args : List Byte) : List Desc → List Desc
  | [] => []
  | [d] => [doneSet args d]
  | d :: l => d :: withDone args l

/-- The last descriptors of a routine that has written some already: where none is left, a FLAG descriptor sets DONE_FLAG (R179; DESIGN
CHOICE, log entry 13). -/
def closingDone (args : List Byte) (x : Ctx) (l : List Desc) : List Desc :=
  withDone args (if l.isEmpty && x.used != 0 then [dPut 0 0 0 12 0x900] else l)

/-- A read of tier 1 by a context: none where it traps. -/
def ctxRead (s : State) (d : Die) (c : CtxId) (a n : Nat) : Option (State × List Byte) :=
  if !ctxReaches s d c a n || spanBad s a n then none
  else some ((readSpan s a n).1, (readSpan s a n).2.1)

/-- Reads a list of items' words in turn; the address is the one at which a read traps. -/
def readEach (α : Type) (at_ : α → Nat) (n : Nat) (d : Die) (c : CtxId) : List α → State → Except Nat (State × List (α × List Byte))
  | [], s => .ok (s, [])
  | i :: l, s =>
    match ctxRead s d c (at_ i) n with
    | none => .error (at_ i)
    | some (s, b) =>
      match readEach α at_ n d c l s with
      | .ok r => .ok (r.1, (i, b) :: r.2)
      | .error a => .error a

/-! ## Running a routine -/

/-- A routine that does nothing returns this value (R179, R249). -/
def nothingDone : BitVec 64 := 0xFFFFFFFFFFFF

/-- The context of a CALL of a routine that `mine` picks: a CALL that has not begun begins, and one that PCHK refuses leaves
its context. -/
def enterRoutine (s : State) (t : TicketId) (mine : Nat → Bool) : State × Option (Die × CtxId × Ctx × Tk) :=
  let isMine (d : Desc) : Bool := isFn .call 0 d && mine (caRoutine d)
  let find (s : State) : Option (Die × CtxId × Ctx × Tk) :=
    (getTk s t).bind fun k =>
      let d := tkHost s k
      if !isMine k.desc || k.phase != .running then none
      else ((ctxsOf s d).find? fun p => p.2.ticket == t).bind fun p => (actingCtx s d p.1).map fun _ => (d, p.1, p.2, k)
  match beginTk s t isMine (fun _ _ => true) (fun _ _ => true) with
  | .ok s1 _ => (s1, find s1)
  | .ended s1 =>
    let d := match getTk s t with | some k => tkHost s k | none => 0
    ((ctxsOf s1 d).foldl (fun s p => if p.2.ticket == t then settleBanks (putCtx s d p.1 none) d else s) s1, none)
  | .wait => (s, find s)

/-- Runs a routine: what it has formed is written out; when nothing is left, `stage` takes it on, given the context, its CALL,
the argument block and the plan. A block that a context cannot read traps (R176). The header is Ndotas's: a plan of another library
version is not followed, and an outside routine's block has none (R179). -/
def runRoutine (t : TicketId) (mine : Nat → Bool)
    (stage : State → Die → CtxId → Ctx → Tk → List Byte → List Byte → State) (s : State) : Outcome State Fault Refusal :=
  let r := enterRoutine s t mine
  match r.2 with
  | none => .next (if r.1 = s then s else settle s r.1)
  | some (d, c, x, k) =>
    let s1 := r.1
    if !x.todo.isEmpty then .next (settle s (finishRoutine (writeFormed s1 d c) d c))
    else
      let a := argBlock s1 x
      let outside := decide (0x80 ≤ caRoutine k.desc)
      if a.2.2 then .next (settle s (trapContext a.1 d c 5 x.a0.toNat))
      else
        let bank := if x.bankB then (s1.dies[d]).bankB else (s1.dies[d]).bankA
        if !outside && fieldNat a.2.1 0 4 != bank.version.toNat then .next (settle s (returnCtx a.1 d c x nothingDone))
        else match if outside then some (a.1, []) else planPart a.1 d c a.2.1 with
          | none => .next (settle s (trapContext a.1 d c 5 (fieldNat a.2.1 16 8)))
          | some (s2, p) => .next (settle s (finishRoutine (writeFormed (stage s2 d c x k a.2.1 p) d c) d c))

/-- The routine has formed its last descriptors and returns a value. -/
def closeStage (s : State) (d : Die) (c : CtxId) (k : Tk) (args : List Byte) (l : List Desc) (v : Nat) : State :=
  modCtx s d c fun x => { form args k l x with phase := 3, ret := some (BitVec.ofNat 64 v) }

/-- The loss gradient's VEC SCALEs take k0 = 2^λ from copy t mod 2 of their step record (R250, R254). -/
def withK0 (l : List Desc) (scales : List ((Nat × Nat) × List Byte)) : List Desc :=
  scales.foldl (fun l p =>
    match l[p.1.1]? with
    | some d => if isFn .vec 8 d then
        l.set p.1.1 (dPut d 116 0 32 (f32Of ((f32Val f32One).scale (fieldNat p.2 4 1 : Int))).toNat)
      else l
    | none => l) l

/-- A routine that forms one list of descriptors of the kinds that `keep` names, and returns their number. -/
def countStage (keep : Config.PlanInput → Desc → Bool) (s : State) (d : Die) (c : CtxId) (x : Ctx) (k : Tk) (args p : List Byte) : State :=
  if x.phase != 0 then s
  else
    let copy (i : Nat × Nat) : Nat := i.2 + 64 * (k.dataStep.toNat % 2)
    match readEach (Nat × Nat) copy 64 d c (Config.lossScales (planInput s d x k args p 0)) s with
    | .error a => trapContext s d c 5 a
    | .ok (s, scales) =>
      let l := withDone args ((withK0 (plan s d x k args p 0) scales).filter (keep (planInput s d x k args p 0)))
      closeStage s d c k args l l.length

/-- LAYER_FWD: the forward of one layer for one micro-batch. -/
def execLayerFwd (t : TicketId) (s : State) : Outcome State Fault Refusal := runRoutine t (· == 1) (countStage fun _ => isForward) s

/-- LAYER_BWD: backward products, drains and gradient collectives. -/
def execLayerBwd (t : TicketId) (s : State) : Outcome State Fault Refusal := runRoutine t (· == 2) (countStage isBackward) s

/-- The entry point of a routine, and the instruction there, in the bank that its context entered (R170, R182). -/
def entryPoint (s : State) (d : Die) (x : Ctx) (k : Tk) : Nat × Nat :=
  let code := (if x.bankB then (s.dies[d]).bankB else (s.dies[d]).bankA).code
  let at_ := fieldNat code (4 * caRoutine k.desc) 4
  (at_, fieldNat code at_ 4)

/-- An instruction that reads cycle, time or instret: a CSR access of the RISC-V standard that R166 names (PRESUMED, log entry 104). -/
def readsCounter (w : Nat) : Bool := w % 128 == 0x73 && w / 4096 % 4 != 0 && decide (0xC00 ≤ w / 2 ^ 20 ∧ w / 2 ^ 20 ≤ 0xC02)

/-- EXTERNAL_ROUTINE: a routine outside Ndotas writes its descriptors; ROUTINE_RETURN ends it. One that enters outside the bank window, or
at an instruction that reads a counter, traps (R166, R167, R176; log entry 104). -/
def execExternalRoutine (t : TicketId) (s : State) : Outcome State Fault Refusal :=
  runRoutine t (fun n => 0x80 ≤ n) (fun s d c x k args p =>
    let e := entryPoint s d x k
    if x.phase != 0 then s
    else if 0x10000 ≤ e.1 then trapContext s d c 1 (bankWindow + e.1)
    else if readsCounter e.2 then trapContext s d c 2 e.2
    else modCtx s d c fun x => { form args k (plan s d x k args p 0) x with phase := 3 }) s

/-! ## Clip and skip (R180, R248 to R251) -/

/-- What a step record decides: the new record's bytes, whether the step is skipped, the new λ, the clip factor c, and the λ that
the update removes. -/
structure Clip where
  record : List Byte
  skipped : Bool
  lambda : Nat
  clip : BitVec 32
  oldLambda : Nat
  deriving DecidableEq, Repr

/-- The decision of R180 from the old record, the chained sum of squares and the flag. -/
def clipOf (old : List Byte) (q : BitVec 32) (flag : Bool) : Clip :=
  let l := fieldNat old 4 1
  let lmin := fieldNat old 5 1
  let lmax := fieldNat old 6 1
  let good := fieldNat old 8 4
  let grow := fieldNat old 12 4
  let m : BitVec 32 := BitVec.ofNat 32 (fieldNat old 16 4)
  let live := fieldNat old 7 1 % 2
  let skipped := flag || (f32Val q).special
  let n := f32Sqrt q
  let c := if Val.lt (f32Val m) (f32Val n) then f32Div m n else f32One
  let grown := decide (good + 1 = grow)
  let l' := if skipped then max (l - 1) lmin else if grown then min (l + 1) lmax else l
  let good' := if skipped || grown then 0 else good + 1
  let rec_ := leBytes 4 (fieldNat old 0 4 + 1) ++ leBytes 1 l' ++ leBytes 1 lmin ++ leBytes 1 lmax
    ++ leBytes 1 (2 * bnat skipped + (if skipped then live else 1 - live)) ++ leBytes 4 good' ++ leBytes 4 grow ++ wordBytes 4 m
    ++ wordBytes 4 (if skipped then f32NaN else n) ++ wordBytes 4 (if skipped then f32Zero else c)
    ++ leBytes 4 (fieldNat old 28 4 + bnat skipped) ++ leBytes 32 0
  { record := rec_, skipped := skipped, lambda := l', clip := if skipped then f32Zero else c, oldLambda := l }

/-- k2 = c × 2^(−λ) goes into every ADAM_MOMENTS (R180). -/
def withK2 (c : Clip) (d : Desc) : Desc :=
  if isFn .vec 0x40 d then dPut d 124 0 32 (f32Of ((f32Val c.clip).scale (-(c.oldLambda : Int)))).toNat else d

/-- The events of a skipped step: SKIP and SCALE. -/
def skipEvents (s : State) (d : Die) (ctx : CtxId) (x : Ctx) (k : Tk) (c : Clip) : State :=
  if c.skipped then
    let s := ctxEvent s d ctx x k 0x02 k.dataStep.toNat
    ctxEvent s d ctx x k 0x03 c.lambda
  else s

/-- The norm collective that the plan names: its first part holds that one descriptor (R178, R281). -/
def normDesc (s : State) (d : Die) (x : Ctx) (k : Tk) (args p : List Byte) : Option Desc := (plan s d x k args p 0).find? isNormColl

/-- The ride record that the collective stored on the die (R282), of n bytes. -/
def rideOn (s : State) (k : Tk) (nd : Desc) (n : Nat) : State × List Byte × Bool :=
  readSpan s (globalLocal (coDst nd) + k.ringDie.val * (2 * stackSpan)) n

/-- The routine suspends on the norm collective's flag, unless it is satisfied (R174). -/
def waitNorm (s : State) (d : Die) (c : CtxId) (x : Ctx) (k : Tk) (args p : List Byte) : State :=
  let target := Config.normTarget (planInput s d x k args p 0)
  let flag := ((normDesc s d x k args p).bind fun nd => dSet nd 0).map (·.flag)
  modCtx s d c fun x =>
    { x with
      phase := 2, waitMet := false
      wait := flag.bind fun f => if flagHolds s k f target then none else some (f, target) }

/-- The PUTs of a snapshot that the plan names: from the buffer that LIVE names in the record which this step reads, each setting its
flag at scope DIE, the first waiting on the staging flag (R255, R256). -/
def snapshotPuts (i : Config.PlanInput) (live : Nat) : List Desc :=
  let w := Config.stagingFlag i
  let put (p : Config.SnapshotItem) : Desc :=
    dPut (dPut (dPut (dPut (dPut 0 0 0 12 0x700) 80 0 56 (if live = 1 then p.baseB else p.baseA)) 88 0 56 p.dst.toNat) 96 0 32 p.bytes)
      64 0 64 (2 ^ 63 + 2 ^ 60 + p.flag.toNat * 2 ^ 48 + 1)
  match (Config.snapshots i).map put with
  | [] => []
  | d :: l => dPut d 48 0 32 (2 ^ 31 + 2 ^ 28 + w.1.toNat * 2 ^ 16 + w.2.toNat) :: l

/-- A descriptor waits on a flag, in the first wait word that is free. -/
def withWait (flag : BitVec 12) (target : BitVec 16) (d : Desc) : Desc :=
  match (List.range 4).find? fun i => (dWait d i).isNone with
  | some i => dPut d (48 + 4 * i) 0 32 (2 ^ 31 + 2 ^ 28 + flag.toNat * 2 ^ 16 + target.toNat)
  | none => d

/-- A descriptor writes into a buffer of a shard that a snapshot copies. -/
def writesShard (p : Config.SnapshotItem) (d : Desc) : Bool :=
  (List.range 2).any fun i =>
    match dOutW d i with
    | .memory a => decide (p.baseA ≤ a ∧ a < p.baseA + p.bytes) || decide (p.baseB ≤ a ∧ a < p.baseB + p.bytes)
    | _ => false

/-- An update's descriptors wait on the flags of the snapshots that still read the buffers they write (R255). -/
def behindSnapshots (i : Config.PlanInput) (l : List Desc) : List Desc :=
  l.map fun d => (Config.awaitedSnapshots i).foldl (fun d p => if writesShard p.1 d then withWait p.1.flag p.2 d else d) d

/-- NORM_CLIP_UPDATE after its wait: the decision, the new record, and the descriptors of the update or of the skip, with the snapshot's
PUTs. -/
def clipStage (s : State) (d : Die) (c : CtxId) (x : Ctx) (k : Tk) (args p : List Byte) : State :=
  match normDesc s d x k args p with
  | none => closeStage s d c k args [] 0
  | some nd =>
    let t := k.dataStep.toNat
    let ride := rideOn s k nd 16
    if ride.2.2 then trapContext ride.1 d c 5 (coDst nd)
    else
      let old := sliceBytes args (32 + 64 * (t % 2)) 64
      let cl := clipOf old (BitVec.ofNat 32 (fieldNat ride.2.1 0 4)) (fieldNat ride.2.1 4 1 % 2 == 1)
      let s := ctxStore ride.1 k (x.a0.toNat + 32 + 64 * ((t + 1) % 2)) cl.record
      let s := skipEvents s d c x k cl
      let i := planInput s d x k args p 0
      let l := if cl.skipped then skipOnly (plan s d x k args p 2)
        else behindSnapshots i ((updateOnly (plan s d x k args p 1)).map (withK2 cl))
      closeStage s d c k args (closingDone args x (snapshotPuts i (fieldNat old 7 1 % 2) ++ l)) (bnat cl.skipped * 2 ^ 47 + cl.clip.toNat)

/-- NORM_CLIP_UPDATE: on AD0 it publishes the norm collective first; on every die it waits for the collective's flag, then clips or
skips. A record of another step makes it return and raise FAULT with cause 0 (R249). -/
def execNormClipUpdate (t : TicketId) (s : State) : Outcome State Fault Refusal :=
  runRoutine t (· == 3) (fun s d c x k args p =>
    match x.phase with
    | 0 =>
      if fieldNat args (32 + 64 * (k.dataStep.toNat % 2)) 4 != k.dataStep.toNat then
        let s := ctxEvent s d c x k 0x01 0
        modCtx s d c fun x => { x with phase := 3, ret := some nothingDone }
      else if k.ringDie = 0 then modCtx s d c fun x => { form args k (normDesc s d x k args p).toList x with phase := 1 }
      else waitNorm s d c x k args p
    | 1 => waitNorm s d c x k args p
    | 2 => clipStage s d c x k args p
    | _ => s) s

/-- A variant's descriptors carry VAR_EN 1b and its VARIANT_ID (R178); a FLAG has no such field (R433). -/
def stampVariant (v : Fin 512) (d : Desc) : Desc := if dFamily d = some .flag then d else dPut (dPut d 8 0 9 v.val) 8 15 1 1

/-- One variant's update: its record pair, its sum and flag at its place in context order in the ride record (R254, R281), its descriptors;
the last part tells whether it is updated. -/
def variantOne (s : State) (d : Die) (c : CtxId) (x : Ctx) (k : Tk) (args p ride : List Byte) (v : Fin 512) (old : List Byte) :
    State × List Desc × Bool :=
  let t := k.dataStep.toNat
  let i := planInput s d x k args p 0
  let e := 16 + 8 * ((residentOf s (dSlot k.desc)).findIdx (· == v.val))
  let cl := clipOf old (BitVec.ofNat 32 (fieldNat ride e 4)) (fieldNat ride (e + 5) 1 % 2 == 1)
  let s := ctxStore s k (Config.variantRecord i v + 64 * ((t + 1) % 2)) cl.record
  let s := skipEvents s d c x k cl
  let l := if cl.skipped then skipOnly (plan s d x k args p (4 + 2 * v.val))
    else behindSnapshots i ((updateOnly (plan s d x k args p (3 + 2 * v.val))).map (withK2 cl))
  (s, l.map (stampVariant v), !cl.skipped)

/-- VARIANT_UPDATE: R180, R248 and R250 for each listed variant separately, from the step records in its plan (R254). It suspends on
no flag (R174): its CALL waits for the norm collective. -/
def execVariantUpdate (t : TicketId) (s : State) : Outcome State Fault Refusal :=
  runRoutine t (· == 4) (fun s d c x k args p =>
    if x.phase != 0 then s
    else match normDesc s d x k args p with
    | none => closeStage s d c k args [] 0
    | some nd =>
      let i := planInput s d x k args p 0
      let ride := rideOn s k nd (16 + 8 * 512)
      let copy (v : Fin 512) : Nat := Config.variantRecord i v + 64 * (k.dataStep.toNat % 2)
      if ride.2.2 then trapContext ride.1 d c 5 (coDst nd)
      else match readEach (Fin 512) copy 64 d c (Config.planVariants i) ride.1 with
        | .error a => trapContext ride.1 d c 5 a
        | .ok (s, records) =>
          let r := records.foldl (fun (a : State × List Desc × Nat) v =>
            let y := variantOne a.1 d c x k args p ride.2.1 v.1 v.2
            (y.1, a.2.1 ++ y.2.1, a.2.2 + bnat y.2.2)) (s, [], 0)
          closeStage r.1 d c k args (withDone args r.2.1) r.2.2) s

/-! ## MIRROR_STEP (R328) -/

/-- A MIRROR of a region's buffer for a data step. -/
def mirrorDesc (src bytes : Nat) (step : BitVec 32) : Desc :=
  dPut (dPut (dPut (dPut 0 0 0 12 0xD00) 80 0 43 src) 88 0 32 bytes) 92 0 32 step.toNat

/-- MIRROR_STEP: while a copy is due, one MIRROR for each region of the list, from the buffer that its step record names for the due
step; the value returned is the bytes queued. -/
def execMirrorStep (t : TicketId) (s : State) : Outcome State Fault Refusal :=
  runRoutine t (· == 5) (fun s d c x k args p =>
    if x.phase != 0 then s
    else
      match mirrorDueSeen s k with
      | none => closeStage s d c k args [] 0
      | some step =>
        let copy (g : Config.MirrorItem) : Nat := g.record + 64 * (step.toNat % 2)
        match readEach Config.MirrorItem copy 64 d c (Config.mirrorList (planInput s d x k args p 0)) s with
        | .error a => trapContext s d c 5 a
        | .ok (s, gs) =>
          let n := gs.foldl (fun a g => a + g.1.bytes) 0
          let l := gs.map fun g => mirrorDesc (if fieldNat g.2 7 1 % 2 = 1 then g.1.baseB else g.1.baseA) g.1.bytes step
          let s := ctxEvent s d c x k 0x04 (step.toNat * 2 ^ 32 + n % 2 ^ 32)
          closeStage s d c k args (withDone args l) n) s

end Sys2Proof.Machine
end

