-- ==== Sys2Proof/Machine/Pace.lean ====
section
/-! DEFINITION. Pace, voltage and energy: PACE_MONITOR_SAMPLE, CAP_LOOP_SAMPLE, GUARD_SAMPLE, ESTIMATOR_SLOW_LOOP,
MEASUREMENT_LOOP, HEAT_LIMIT_STEP, WEAR_COUNT_TICK, WEAR_STORE_WRITE, ENERGY_ATTRIBUTION (R343 to R361). -/

namespace Sys2Proof.Machine

open Host

/-- Paces run from 100 to 2,000 in steps of 20 (R344). -/
def stepDown (x : Nat) : Nat := max 100 (x - 20)
def stepUp (x : Nat) : Nat := min 2000 (x + 20)

/-- Samples of 8 µs to 1 ms (R355, R356). -/
def samplesPerMs : Nat := 125

/-! ## Engine maximum pace (R347) -/

/-- M_e from a monitor's rate, in the steps of R347; no pace lies below 100 (R344). -/
def engineMax (e : Eng) (rate : Nat) : Nat :=
  let c := Config.calibration e
  max 100 (min 2000 (paceStep (rate * c.1 / (c.2 + 1) - 20)))

/-- PACE_MONITOR_SAMPLE: the power manager counts an engine's monitor over 1 ms. A retired engine has no M_e. -/
def execPaceMonitorSample (e : Eng) (rate : Nat) (s : State) : Outcome State Fault Refusal :=
  if s.power != .running || engRetired s e then .next s
  else .next (settle s (modEng s e fun r => { r with maxPace := BitVec.ofNat 16 (engineMax e rate) }))

/-! ## The estimate (R357) -/

/-- Energy of events at a rail setpoint, in nanojoules (log entry 90). -/
def eventEnergy (rail : Nat) (c : EnergyCounts) : Nat :=
  c.wavefronts * Config.energyCoefficient 0 rail + c.loadSteps * Config.energyCoefficient 1 rail
    + c.queueAccesses * Config.energyCoefficient 2 rail + c.memoryBursts * Config.energyCoefficient 3 rail
    + c.flits * Config.energyCoefficient 4 rail + c.laneOps * Config.energyCoefficient 5 rail

/-- The activity estimate of an interval of `micros` µs in milliwatts: the events under the coefficients of the rail setpoint, and the
fixed part. -/
def estimateOf (p : PowerR) (micros : Nat) (c : EnergyCounts) : Nat :=
  (((eventEnergy p.railTarget c / micros : Nat) : Int) + p.fixedPart / 16).toNat

/-! ## The cap loop (R355) -/

/-- The cap limit after one sample of the estimate E in milliwatts against the cap. -/
def capStep (p : PowerR) (mw : Nat) : PowerR :=
  let cap := p.cap.toNat * 1000
  let p := { p with capSinceRise := p.capSinceRise + 1 }
  if p.cap = 0 then { p with capLimit := 2000, capBelow := 0, unmetSamples := 0, unmetRaised := false }
  else if cap < mw then
    { p with capLimit := stepDown p.capLimit, capBelow := 0, unmetSamples := if p.capLimit = 100 then p.unmetSamples + 1 else 0 }
  else
    let p := { p with unmetSamples := 0 }
    if 97 * cap < 100 * mw then { p with capBelow := 0 }
    else
      let p := { p with capBelow := p.capBelow + 1 }
      if samplesPerMs ≤ p.capBelow && samplesPerMs ≤ p.capSinceRise && p.capLimit < 2000 then
        { p with capLimit := stepUp p.capLimit, capSinceRise := 0, unmetRaised := false }
      else p

/-- CAP_LOOP_SAMPLE: the fast loop takes one sample of 8 µs; it rests while the estimator is distrusted (R358). A cap limit
that has stood at 100 for 1 ms below an estimate above the cap raises CAP_UNMET once. -/
def execCapLoopSample (events : EnergyCounts) (s : State) : Outcome State Fault Refusal :=
  if s.power != .running || s.pm.distrusted then .next s
  else
    let p := capStep s.pm (estimateOf s.pm 8 events)
    if samplesPerMs ≤ p.unmetSamples && !p.unmetRaised then
      .next (settle s (powerEvent { s with pm := { p with unmetRaised := true, capUnmet := countUp p.capUnmet } } 0x45 p.cap.toNat))
    else .next (settle s { s with pm := p })

/-! ## The input current guard (R356) -/

/-- The highest running pace on the module. -/
def topPace (s : State) : Nat := (List.finRange 16).foldl (fun a j => max a (runningPace s j)) 0

/-- GUARD_SAMPLE: the guard measures the input current. -/
def execGuardSample (milliamps : Nat) (s : State) : Outcome State Fault Refusal :=
  let p := s.pm
  if s.power != .running then .next s
  else if 48000 < milliamps then
    if p.guardActive then .next (settle s { s with pm := { p with guardLimit := stepDown p.guardLimit, guardBelow := 0 } })
    else
      let n := countUp p.guardEntries
      let s1 := { s with pm := { p with guardActive := true, guardBelow := 0, guardEntries := n, guardLimit := max 100 (topPace s - 160) } }
      .next (settle s (powerEvent s1 0x43 n.toNat))
  else if !p.guardActive then .next s
  else if milliamps < 46000 then
    let n := p.guardBelow + 1
    let l := if n % samplesPerMs = 0 then stepUp p.guardLimit else p.guardLimit
    .next (settle s { s with pm := { p with guardBelow := n, guardLimit := l, guardActive := decide (l < 2000) } })
  else .next (settle s { s with pm := { p with guardBelow := 0 } })

/-! ## Estimate and measurement (R357, R358) -/

/-- The two figures differ by more than 25% of the measurement, or agree within 10%. -/
def farOff (estimate measured : Nat) : Bool := decide (measured < 4 * ((estimate - measured) + (measured - estimate)))
def closeBy (estimate measured : Nat) : Bool := decide (10 * ((estimate - measured) + (measured - estimate)) ≤ measured)

/-- ESTIMATOR_SLOW_LOOP: the two figures of 1 ms are compared, and the fixed part moves by 1/16 of their difference. The
measurement loop starts from the ceiling of the rail mode (log entry 47). -/
def execEstimatorSlowLoop (events : EnergyCounts) (measured : Nat) (s : State) : Outcome State Fault Refusal :=
  if s.power != .running then .next s
  else
    let p := s.pm
    let estimate := estimateOf p 1000 events
    let p := { p with fixedPart := p.fixedPart + ((measured : Int) - (estimate : Int)),
                      offBy25 := if farOff estimate measured then p.offBy25 + 1 else 0,
                      within10 := if closeBy estimate measured then p.within10 + 1 else 0 }
    if !p.distrusted && decide (50 ≤ p.offBy25) then
      let q := { p with distrusted := true, distrustEntries := countUp p.distrustEntries, capLimit := 2000,
                        distrustValue := modeCeiling p.mode, within10 := 0, unmetSamples := 0, unmetRaised := false }
      .next (settle s (powerEvent { s with pm := q } 0x41 0))
    else if p.distrusted && decide (10000 ≤ p.within10) then
      .next (settle s (powerEvent { s with pm := { p with distrusted := false, offBy25 := 0, capBelow := 0 } } 0x42 0))
    else .next (settle s { s with pm := p })

/-- MEASUREMENT_LOOP: while the estimator is distrusted, the loop follows the measured power of each 1 ms. -/
def execMeasurementLoop (mw : Nat) (s : State) : Outcome State Fault Refusal :=
  let p := s.pm
  if s.power != .running || !p.distrusted then .next s
  else
    let v := if p.cap = 0 then modeCeiling p.mode
      else if p.cap.toNat * 1000 < mw then stepDown p.distrustValue
      else if 100 * mw ≤ 97 * (p.cap.toNat * 1000) then stepUp p.distrustValue
      else p.distrustValue
    .next (settle s { s with pm := { p with distrustValue := v } })

/-! ## Heat and wear (R349, R359, R360) -/

/-- HEAT_LIMIT_STEP: the hottest logic sensor of any die, once per 1 ms. -/
def execHeatLimitStep (milliCelsius : Int) (s : State) : Outcome State Fault Refusal :=
  let p := s.pm
  if s.power != .running then .next s
  else
    let l := if 110000 < milliCelsius then stepDown p.heatLimit else if milliCelsius < 105000 then stepUp p.heatLimit else p.heatLimit
    .next (settle s { s with pm := { p with heatLimit := l } })

/-- A slot has Peak in force, or commits to it (R360). -/
def peakHeld (r : SlotR) : Bool := r.inForce.power == .peak || (r.phase == .committing && r.coming.power == .peak)

/-- Peak in force, or committed to, is granted as Sustain. -/
def grantSustain (r : SlotR) : SlotR :=
  if peakHeld r then
    { r with inForce := if r.inForce.power = .peak then { r.inForce with power := .sustain } else r.inForce,
             granted := r.granted || (r.phase == .committing && r.coming.power == .peak), lastStatus := .peakRefused }
  else r

/-- WEAR_COUNT_TICK: one second of the pace reference has passed; it counts while the rail stands at the Peak setpoint. A budget
that runs out while Peak is in force, or while a COMMIT to it is under way, sends the rail to Sustain, and the event's record shows the
limits behind that. -/
def execWearCountTick (s : State) : Outcome State Fault Refusal :=
  if s.power != .running || s.pm.rail != modeMillivolts .peak then .next s
  else
    let w := countUp s.pm.wear
    let s1 := { s with pm := { s.pm with wear := w } }
    if wearBudget ≤ w.toNat && s1.slots.toList.any peakHeld then
      let s2 := { s1 with slots := s1.slots.map grantSustain, pm := { s1.pm with peakStatus := .peakRefused } }
      .next (settle s (powerEvent (settleRail s2) 0x44 w.toNat))
    else .next (settle s s1)

/-- WEAR_STORE_WRITE: every 60 s the wear count goes to the non-volatile store. -/
def execWearStoreWrite (s : State) : Outcome State Fault Refusal :=
  if s.power != .running then .next s else .next (settle s { s with nv := { s.nv with wear := s.pm.wear } })

/-! ## Energy (R361, R365) -/

/-- What a slot's use counts for: its events' estimated energy, or its tokens while the estimator is distrusted. -/
def useShare (p : PowerR) (u : SlotUse) : Nat := if p.distrusted then u.tokens else eventEnergy p.railTarget u.events

/-- Share of slot j. -/
def shareOf (shares : List (Slot × Nat)) (j : Slot) : Nat := (shares.filter fun p => p.1 == j).foldl (fun a p => a + p.2) 0

/-- ENERGY_ATTRIBUTION: the measured energy of 1 ms, divided exactly among the slots by their shares. The slot that takes the
remainder is a free value, among those with a share (log entry 10). -/
def execEnergyAttribution (mj : Nat) (use : List (Slot × SlotUse)) (s : State) : Outcome State Fault Refusal :=
  if s.power != .running then .next s
  else
    let shares := use.map fun p => (p.1, useShare s.pm p.2)
    let s1 := { s with pm := { s.pm with moduleEnergy := s.pm.moduleEnergy + BitVec.ofNat 64 mj } }
    let slots := (List.finRange 16).filter fun j => shareOf shares j != 0
    let sum := slots.foldl (fun a j => a + shareOf shares j) 0
    match slots with
    | [] => .next (settle s { s1 with pm := { s1.pm with unattributed := s1.pm.unattributed + BitVec.ofNat 64 mj } })
    | first :: _ =>
      let part (j : Slot) : Nat := mj * shareOf shares j / sum
      let rest := mj - slots.foldl (fun a j => a + part j) 0
      let pick := Config.remainderSlot mj shares
      let taker := if slots.contains pick then pick else first
      .next (settle s (slots.foldl (fun s j =>
        modSlot s j fun r => { r with energy := r.energy + BitVec.ofNat 64 (part j + if j = taker then rest else 0) }) s1))

end Sys2Proof.Machine
end

