-- ==== Sys2Proof/Machine/Repair.lean ====
section
/-! DEFINITION. Engine repair: ENGINE_REPAIR and ROW_DIAGNOSTIC (R45, R47 to R50, R312). -/

namespace Sys2Proof.Machine

open Host

/-- The shadow tile read once more from the entry it was loaded from, if that still stands in its queue end (R45; log entry 72). The
code decodes each word of it: one wrong bit is corrected, and a tile with a poisoned row or a word that cannot be corrected is
lost (R60, R202). -/
def reloadTile (s : State) (e : Eng) (t : Tile) : State × Option Tile :=
  let d : Shelf := Fin.ofNat 8 t.source.1
  match (entriesOf s d t.source.2.1).find? fun x => x.id == t.source.2.2 && !x.freed with
  | none => (s, none)
  | some en =>
    let shape := t.shape.toNat
    let l4w := decide (shape = 6 ∨ shape = 7)
    let row (i : Nat) : List Byte :=
      let col := t.col0 && !(l4w && decide (512 ≤ i))
      if col then operandCol en t.fmt.toNat i (if l4w then 512 else en.rows) else (entryRow en i).take en.width
    let m := meetWords s e en fun _ j => inWidth en j
    let s := m.singles.foldl (fun s w => dueWriteback (modEng s e fun r => { r with corrected := countUp r.corrected }) e w) s
    (s, if !m.doubles.isEmpty || entryPoisoned en then none
        else some ((List.range (loadSteps shape t.param.toNat)).foldl (fun t i => loadRow t i (row i))
          { t with rows := [], rowSums := [], colSums := List.replicate 512 0, exps := [] }))

/-- What a scrubber finds in a set while no descriptor uses it, at a logical row (R45, R48 step 5, R310): the step of the
tile's slot becomes suspect, and a double-bit error empties the set. -/
def scanFinding (s : State) (e : Eng) (active : Bool) (tile : Option Tile) (f : Ecc × Fin 513) : State :=
  match tile, f.1 with
  | none, _ => s
  | _, .clean => s
  | some t, .corrected =>
    let s := modEng s e fun r => { r with corrected := countUp r.corrected }
    let s := logEntry s 0x05 (unitByte 1 e.val) t.slot 0 (physIndex (s.engines[e]).retiredRows f.2.val) 0
    observe (markCause s t.slot (some (diePair (engDie e))) none) e t.slot 0 (s.slots[t.slot]).dataStep [] []
  | some t, .uncorrectable =>
    let again := if active then (s, none) else reloadTile s e t
    let s := modEng (statEmptied again.1 e active) e fun r =>
      { r with emptied := r.emptied || active, shadow := if active then r.shadow else again.2,
               shadowLost := if active || again.2.isSome || !t.ready then r.shadowLost else some (t.slot, t.epoch) }
    observe (markCause s t.slot (some (diePair (engDie e))) none) e t.slot 0 (s.slots[t.slot]).dataStep [] []

/-- Spare rows, and spare columns, of an engine (R47, R49). -/
def spares : Nat := 7

/-- The new map comes into force: into the engine and the repair map that survives power cycles, with both records (R48, R50,
R314, R333). -/
def applyRetirement (s : State) (e : Eng) (column : Bool) (n : Fin 520) : State :=
  let s := modEng s e fun r =>
    if column then { r with retiredCols := r.retiredCols ++ [n], engCauses := 0 }
    else { r with retiredRows := r.retiredRows ++ [n], engCauses := 0 }
  let s := { s with nv := if column then { s.nv with cols := vmod s.nv.cols e (· ++ [n]) } else { s.nv with rows := vmod s.nv.rows e (· ++ [n]) } }
  failEntry (logEntry s (if column then 0x0E else 0x0D) (unitByte 1 e.val) 0 0 n.val 0) (if column then 0x02 else 0x01)
    (unitByte 1 e.val) n.val 0 0

/-- An engine at work between descriptors (R48 step 2). -/
def engQuiet (s : State) (e : Eng) : Bool := engRuns s e && engIdle s e

/-- ENGINE_REPAIR: a quiet engine is retired where that is due, else it takes the retirement requested first; both scrubbers then
scan both sets. One that would need an eighth spare retires the engine. -/
def execEngineRepair (e : Eng) (activeScrub shadowScrub : Ecc × Fin 513) (s : State) : Outcome State Fault Refusal :=
  if (s.engines[e]).retireDue then
    if engQuiet s e then .next (settle s (retireEngine s e 0x03)) else .next s
  else match (s.engines[e]).retireQ with
  | [] => .next s
  | (column, n) :: rest =>
    if !engQuiet s e then .next s
    else
      let r := s.engines[e]
      if spares ≤ (if column then r.retiredCols else r.retiredRows).length then .next (settle s (retireEngine s e 0x03))
      else
        let s1 := applyRetirement (modEng s e fun r => { r with retireQ := rest }) e column n
        let s2 := scanFinding s1 e true (s1.engines[e]).active activeScrub
        .next (settle s (scanFinding s2 e false (s2.engines[e]).shadow shadowScrub))

/-- Physical rows that hold the 32 logical rows of a chunk: the high elements' chunks 16 to 31 of W4 and W4T lie in the rows of
chunks 0 to 15 (R33, R47). -/
def chunkRows (r : EngineR) (c : Nat) : List Nat := (List.range 32).map fun i => physIndex r.retiredRows (32 * (c % 16) + i)

/-- ROW_DIAGNOSTIC: with both sets empty and nothing issued to it, the engine tests the rows of the chunk that its causes name;
a row whose outputs differ is retired (R312). -/
def execRowDiagnostic (e : Eng) (differing : Option (Fin 520)) (s : State) : Outcome State Fault Refusal :=
  let r := s.engines[e]
  match r.diagnostics with
  | [] => .next s
  | c :: rest =>
    if !engQuiet s e || r.active.isSome || r.shadow.isSome || heldBy s (.engine e) != 0 then .next s
    else
      let s1 := modEng s e fun r => { r with diagnostics := rest }
      let s1 := { s1 with integrity := { s1.integrity with diagnostics := countUp s1.integrity.diagnostics } }
      .next (settle s (match differing with
        | some n => if (chunkRows r c).contains n.val then requestRetire s1 e false n else s1
        | none => s1))

end Sys2Proof.Machine
end

