-- ==== Sys2Proof/Machine/Vector.lean ====
section
/-! DEFINITION. The vector units: CONVERT and the 22 VEC functions (R82, R88, R91 to R95, R102 to R104, R154, R156, R434, R437).
The order of the operations inside a formula of R156 is the one it is written in (log entry 7). -/

namespace Sys2Proof.Machine

open Host

/-! ## Formulas of R156, in binary32 -/

/-- k × x + y, fused or not. -/
def axpy (code : BitVec 8) (k x y : BitVec 32) : BitVec 32 :=
  if Config.fuses code then f32Fma k x y else f32Add (f32Mul k x) y

/-- The larger of two binary32 values; of equal ones the first. -/
def f32Max (a b : BitVec 32) : BitVec 32 := if Val.lt (f32Val a) (f32Val b) then b else a

/-- Maximum of a row: NaN for a row that holds a NaN. The sign of a zero maximum is free where both zeros occur
(log entry 11). -/
def rowMax (l : List (BitVec 32)) : BitVec 32 :=
  if l.any fun x => f32Val x == .nan then f32NaN
  else match l with
    | [] => f32NaN
    | x :: l' =>
      let m := l'.foldl f32Max x
      if (f32Val m).isZero && l.contains 0 && l.contains 0x80000000 then (if Config.zeroOfMax l then 0x80000000 else 0) else m

/-- SOFTMAX of a row whose excluded elements are none; they enter the sum as +0 at their places, so its order is that of the whole
row (R156), and give +0. -/
def softmaxRow (l : List (Option (BitVec 32))) : List (BitVec 32) :=
  let m := rowMax (l.filterMap id)
  let e := l.map fun x => match x with | some x => f32Exp (f32Sub x m) | none => f32Zero
  let sum := rowSum e
  (l.zip e).map fun x => if x.1.isSome then f32Div x.2 sum else f32Zero

/-- Mean of a row. -/
def rowMean (l : List (BitVec 32)) : BitVec 32 := f32Div (rowSum l) (f32OfNat l.length)

def rmsnormRow (k0 : BitVec 32) (a b : List (BitVec 32)) : List (BitVec 32) :=
  let r := f32Sqrt (f32Add (rowMean (a.map fun x => f32Mul x x)) k0)
  (a.zip b).map fun p => f32Div (f32Mul p.1 p.2) r

def layernormRow (k0 : BitVec 32) (a b c : List (BitVec 32)) : List (BitVec 32) :=
  let m := rowMean a
  let d := a.map fun x => f32Sub x m
  let r := f32Sqrt (f32Add (rowMean (d.map fun x => f32Mul x x)) k0)
  ((d.zip b).zip c).map fun p => f32Add (f32Div (f32Mul p.1.1 p.1.2) r) p.2

/-- ADAM_MOMENTS: (m′, v′), the factors from left to right as R156 writes them (log entry 7). -/
def adamMoments (k0 k1 k2 g m v : BitVec 32) : BitVec 32 × BitVec 32 :=
  let h := f32Mul k2 g
  (axpy 0x40 k0 m (f32Mul (f32Mul (f32Sub f32One k0) k2) g), axpy 0x40 k1 v (f32Mul (f32Sub f32One k1) (f32Mul h h)))

def adamWeight (k0 k1 k2 w m v : BitVec 32) : BitVec 32 :=
  axpy 0x41 (f32Neg k2) w (f32Sub w (f32Div (f32Mul k0 m) (f32Add (f32Sqrt v) k1)))

/-- SGD_MOMENTUM: (w′, m′). -/
def sgdMomentum (k0 k1 w g m : BitVec 32) : BitVec 32 × BitVec 32 :=
  let m' := axpy 0x42 k0 m g
  (axpy 0x42 (f32Neg k1) m' w, m')

/-- What a VEC function gives from its inputs: y and z. -/
def vecResults (code rowLen : Nat) (k0 k1 k2 : BitVec 32) (a b c : List (BitVec 32)) :
    List (BitVec 32) × List (BitVec 32) :=
  let rows (l : List (BitVec 32)) := pieces rowLen l
  let abc := (a.zip b).zip c
  match code with
  | 0x20 => ((rows a).map rowMax, [])
  | 0x21 => ((rows a).flatMap fun r => softmaxRow (r.map some), [])
  | 0x22 =>
    let rs := rows a
    (((List.range rs.length).zip rs).flatMap fun p =>
      softmaxRow (((List.range p.2.length).zip p.2).map fun q => if p.1 < q.1 then none else some q.2), [])
  | 0x23 => (((rows a).zip (rows b)).flatMap fun p => rmsnormRow k0 p.1 p.2, [])
  | 0x24 => ((((rows a).zip (rows b)).zip (rows c)).flatMap fun p => layernormRow k0 p.1.1 p.1.2 p.2, [])
  | 0x40 =>
    let r := abc.map fun p => adamMoments k0 k1 k2 p.1.1 p.1.2 p.2
    (r.map (·.1), r.map (·.2))
  | 0x41 => (abc.map fun p => adamWeight k0 k1 k2 p.1.1 p.1.2 p.2, [])
  | 0x42 =>
    let r := abc.map fun p => sgdMomentum k0 k1 p.1.1 p.1.2 p.2
    (r.map (·.1), r.map (·.2))
  | 0x10 => ((a.zip b).map fun p => elementFn3 0x10 p.1 p.2 0, [])
  | 0x11 => ((a.zip b).map fun p => elementFn3 0x11 p.1 p.2 0, [])
  | 0x12 => (abc.map fun p => elementFn3 0x12 p.1.1 p.1.2 p.2, [])
  | 0x13 => ((a.zip b).map fun p => elementFn3 0x13 p.1 p.2 0, [])
  | 0x30 => ([rowSum (a.map fun x => f32Mul x x)], [])
  | code => (a.map (elementFn code k0), [])

/-! ## Running a VEC -/

/-- The scale exponents of the inputs; none where R100 refuses one. -/
def vecInScales (s : State) (k : Tk) : Option (List Int) × Bool :=
  allScales ((List.range (vecInputs (dFunc k.desc))).map fun i =>
    match dIn k.desc i with
    | some f => sigmaFor s k (veTidIn k.desc i) f
    | none => .invalid)

/-- Target of output i. -/
def vecTarget (s : State) (k : Tk) (i : Nat) : Option Target :=
  (dOut k.desc i).bind fun f => targetOf s k f (veTidOut k.desc i) (veDomain k.desc i) (vcB k.desc) true

/-- Output i may take n elements (R101, R149, R210, R434). -/
def vecOutOk (s : State) (k : Tk) (i n : Nat) : Bool :=
  match vecTarget s k i with
  | none => false
  | some t =>
    t.fmt != .b16 && t.fmt != .b32 && indexOk t (vcOrigin k.desc + n - 1) &&
    match dOutW k.desc i with
    | .none => false
    | .queue q => t.fmt != .l4w && outQueueOk s k q && pushFits s k q ((n + 4095) / 4096 * 8) (pushPitch t.fmt)
    | .memory g => targetOk s g (rowBytes t.fmt n)

/-- Everything that makes a VEC complete with INVALID when it begins. -/
def vecOk (s : State) (k : Tk) : Bool :=
  let d := k.desc
  let f := dFunc d
  !engRetired s (tkEng s k) && vcCount d != 0 && (!vecRows f || (veRowLen d != 0 && vcCount d % veRowLen d == 0))
    && ((List.range (vecInputs f)).all fun i =>
          (dInQ d i).any (fun q => qeUsable s k q false)
            && (dIn d i).any fun x => x != .b16 && x != .b32 && (x != .l16s || veTidIn d i == 0))
    && (vecInScales s k).1.isSome
    && ((List.range (vecOutputs f)).all fun i => vecOutOk s k i (vecOutCount d))
    && (f != 0x50 || lookScale s k (veTidOut d 0) none != .invalid)

/-- An input's values as a lane widens them (R102). -/
def widen (sigma : Int) (l : List Val) : List (BitVec 32) := l.map fun v => f32Of (v.scale sigma)

/-- Writes the results of output i, into a queue end as `push` does; none where that waits for strips. -/
def vecPutWith (push : State → Tk → Nat → Fmt → List Nat → Option State) (s : State) (k : Tk) (i : Nat) (residue : Option (Nat × Nat))
    (ecc : Bool) (res : List (BitVec 32)) : Option (State × Written) :=
  match vecTarget s k i with
  | none => none
  | some t =>
    let t : Target := { t with poison := t.poison || ecc }
    let els : List (Nat × Option Val) := ((List.range res.length).zip res).map fun p => (vcOrigin k.desc + p.1, some (f32Val p.2))
    let w := codesFor (drawKeyOf s k t.domain t.tid) t false 1 els
    let codes := withResidue residue w.codes
    let out : Option State := match dOutW k.desc i with
      | .queue q => push s k q t.fmt codes
      | .memory g => some (writeOut s k g (if t.fmt = .l4w then nibbleBytes codes else bytesOfCodes t.fmt codes))
      | .none => none
    out.map fun s => (foldTarget s k t w, w)

/-- Writes the results of output i; none while it waits for strips. -/
def vecPut (s : State) (k : Tk) (i : Nat) (residue : Option (Nat × Nat)) (ecc : Bool) (res : List (BitVec 32)) :
    Option (State × Written) := vecPutWith pushElements s k i residue ecc res

/-- SUMSQ hands its sum to the norm of its channel, or of the variant context (R156, R280). -/
def addPart (s : State) (k : Tk) (sum : BitVec 32) : State :=
  let c := (veChannel k.desc).val
  modSlot s (dSlot k.desc) fun r =>
    let up (x : BitVec 32 × Bool) : BitVec 32 × Bool := (f32Add x.1 sum, x.2)
    if dVarEn k.desc then
      let i := 64 * dVariant k.desc + c
      { r with variantParts := sparseSet (0, false) r.variantParts i (up (sparseGet (0, false) r.variantParts i)) }
    else { r with parts := sparseSet (0, false) r.parts c (up (sparseGet (0, false) r.parts c)) }

/-- Whether an output's scale entry lies in a poisoned burst: then every output is the NaN of its format (R436). -/
def outScaleBad (s : State) (k : Tk) : Bool :=
  (List.range (vecOutputs (dFunc k.desc))).any fun i => (vecTarget s k i).any (·.poison)

/-- A VEC with its inputs in hand, whose outputs to queue ends go as `push` does; none where that waits for strips. -/
def vecFrom (push : State → Tk → Nat → Fmt → List Nat → Option State) (k : Tk) (residue : Option (Nat × Nat)) (s : State)
    (a : TakenAll) : Option State :=
  let d := k.desc
  let f := dFunc d
  let sc := vecInScales s k
  let sig := sc.1.getD []
  let x (i : Nat) : List (BitVec 32) := widen (sig.getD i 0) (a.vals.getD i [])
  if f = 0x50 then
    let look := lookScale s k (veTidOut d 0) none
    let ecc := sc.2 || look == .poisoned
    let s2 := if ecc then a.s else foldCapture a.s k (veTidOut d 0) (captureOf ((x 0).map f32Val))
    some (endConvert (residueSeen s2 k residue.isSome) k (convertCauses (a.bad || ecc) false) 0 (!a.lost))
  else
    let r := vecResults f (veRowLen d) (veK d 0) (veK d 1) (veK d 2) (x 0) (x 1) (x 2)
    if f = 0x30 then
      let sum : BitVec 32 := match residue with
        | some p => BitVec.ofNat 32 p.2
        | none => if sc.2 then f32NaN else r.1.headD 0
      some (endConvert (residueSeen (if k.isReplay then a.s else addPart a.s k sum) k residue.isSome) k (convertCauses (a.bad || sc.2) false) 0 (!a.lost))
    else
      let ecc := sc.2 || outScaleBad s k
      (vecPutWith push a.s k 0 residue ecc r.1).bind fun y =>
        let fin (s : State) (n : Bool) : State :=
          endConvert (modTk (residueSeen s k residue.isSome) k.ticket fun q => { q with wrote := true }) k
            (convertCauses (a.bad || ecc) n) (vecOutCount d) (!a.lost)
        if vecOutputs f = 2 then (vecPutWith push y.1 k 1 none ecc r.2).map fun z => fin z.1 (y.2.nonfinite || z.2.nonfinite)
        else some (fin y.1 y.2.nonfinite)

/-- Runs a VEC whose inputs and strips are at hand; none where they are not. -/
def vecRun (s : State) (k : Tk) (residue : Option (Nat × Nat)) : Option State :=
  (takeInputs s k (vcCount k.desc) (vecInputs (dFunc k.desc))).bind (vecFrom pushElements k residue s)

/-- A VEC of function code `f`: it begins when its turn has come and its inputs are complete, with room for its outputs, or as soon as an
entry can be popped; what it then lacks it waits for entry by entry (R149, R434). -/
def runVec (f : Nat) (t : TicketId) (residue : Option (Nat × Nat)) (s : State) : State :=
  let whole (k : Tk) : State → TakenAll → Option State := vecFrom pushElements k residue
  let held (k : Tk) : State → TakenAll → Option State := vecFrom holdPush k residue
  let m := vecInputs f
  let n := match getTk s t with | some k => vcCount k.desc | none => 0
  match stageGoesOn n m whole held (isFn .vec f) t s with
  | some s1 => s1
  | none =>
    match beginTk s t (isFn .vec f)
        (fun s k => !vecOk s (takeStart s k)
          || (popsTurn s k && ((vecRun s (takeStart s k) none).isSome || canDraw s k n m))) vecOk with
    | .wait => s
    | .ended s1 => s1
    | .ok s1 k =>
      match vecRun s1 k residue with
      | some s2 => s2
      | none => stageRun n m (whole k) (held k) s1 k { got := [], lost := false, computed := false, jobs := [] }

def execCopy (t : TicketId) (r : Option (Nat × Nat)) (s : State) : Outcome State Fault Refusal := .next (settle s (runVec 0x01 t r s))
def execRelu (t : TicketId) (r : Option (Nat × Nat)) (s : State) : Outcome State Fault Refusal := .next (settle s (runVec 0x02 t r s))
def execGelu (t : TicketId) (r : Option (Nat × Nat)) (s : State) : Outcome State Fault Refusal := .next (settle s (runVec 0x03 t r s))
def execSilu (t : TicketId) (r : Option (Nat × Nat)) (s : State) : Outcome State Fault Refusal := .next (settle s (runVec 0x04 t r s))
def execTanh (t : TicketId) (r : Option (Nat × Nat)) (s : State) : Outcome State Fault Refusal := .next (settle s (runVec 0x05 t r s))
def execExp (t : TicketId) (r : Option (Nat × Nat)) (s : State) : Outcome State Fault Refusal := .next (settle s (runVec 0x06 t r s))
def execRsqrt (t : TicketId) (r : Option (Nat × Nat)) (s : State) : Outcome State Fault Refusal := .next (settle s (runVec 0x07 t r s))
def execVecScale (t : TicketId) (r : Option (Nat × Nat)) (s : State) : Outcome State Fault Refusal := .next (settle s (runVec 0x08 t r s))
def execAdd (t : TicketId) (r : Option (Nat × Nat)) (s : State) : Outcome State Fault Refusal := .next (settle s (runVec 0x10 t r s))
def execMul (t : TicketId) (r : Option (Nat × Nat)) (s : State) : Outcome State Fault Refusal := .next (settle s (runVec 0x11 t r s))
def execFma (t : TicketId) (r : Option (Nat × Nat)) (s : State) : Outcome State Fault Refusal := .next (settle s (runVec 0x12 t r s))
def execSwiglu (t : TicketId) (r : Option (Nat × Nat)) (s : State) : Outcome State Fault Refusal := .next (settle s (runVec 0x13 t r s))
def execRowmax (t : TicketId) (r : Option (Nat × Nat)) (s : State) : Outcome State Fault Refusal := .next (settle s (runVec 0x20 t r s))
def execSoftmax (t : TicketId) (r : Option (Nat × Nat)) (s : State) : Outcome State Fault Refusal := .next (settle s (runVec 0x21 t r s))
def execSoftmaxCausal (t : TicketId) (r : Option (Nat × Nat)) (s : State) : Outcome State Fault Refusal :=
  .next (settle s (runVec 0x22 t r s))
def execRmsnorm (t : TicketId) (r : Option (Nat × Nat)) (s : State) : Outcome State Fault Refusal := .next (settle s (runVec 0x23 t r s))
def execLayernorm (t : TicketId) (r : Option (Nat × Nat)) (s : State) : Outcome State Fault Refusal :=
  .next (settle s (runVec 0x24 t r s))
def execSumsq (t : TicketId) (r : Option (Nat × Nat)) (s : State) : Outcome State Fault Refusal := .next (settle s (runVec 0x30 t r s))
def execAdamMoments (t : TicketId) (r : Option (Nat × Nat)) (s : State) : Outcome State Fault Refusal :=
  .next (settle s (runVec 0x40 t r s))
def execAdamWeight (t : TicketId) (r : Option (Nat × Nat)) (s : State) : Outcome State Fault Refusal :=
  .next (settle s (runVec 0x41 t r s))
def execSgdMomentum (t : TicketId) (r : Option (Nat × Nat)) (s : State) : Outcome State Fault Refusal :=
  .next (settle s (runVec 0x42 t r s))
def execMaxcap (t : TicketId) (r : Option (Nat × Nat)) (s : State) : Outcome State Fault Refusal := .next (settle s (runVec 0x50 t r s))

/-! ## CONVERT (R82, R87, R88, R154, R434) -/

def isBinary (f : Fmt) : Bool := f == .b16 || f == .b32

/-- ROUND agrees with the target (R88): an import into L16s may choose. -/
def roundOk (a b : Fmt) (round : Nat) : Bool :=
  match b with
  | .l8g => round == 1
  | .l16s => isBinary a || round == 1
  | _ => round == 0

/-- Output of a CONVERT (R434). -/
def convertOutOk (s : State) (k : Tk) (f : Fmt) : Bool :=
  let d := k.desc
  let n := vcCount d
  let rows := (n + 511) / 512
  match dOutW d 0 with
  | .none => false
  | .queue q => f != .l4w && f != .b32 && outQueueOk s k q && pushFits s k q ((n + 4095) / 4096 * 8) (pushPitch f)
  | .memory g =>
    if f = .l4w then
      n % 16384 == 0 && cvPitch d % 256 == 0 && 256 ≤ cvPitch d && rowsOk s g (cvPitch d) 256 rows 256 &&
      match dOutW d 1 with
      | .memory h => rowsOk s h (2 * cvPitch d) 512 (rows / 32) 512
      | _ => false
    else
      cvPitch d % 256 == 0 && 512 * f.bytes ≤ cvPitch d
        && rowsOk s g (cvPitch d) (512 * f.bytes) rows ((n - 512 * (rows - 1)) * f.bytes)

/-- Target of a CONVERT. -/
def convertTarget (s : State) (k : Tk) : Option Target :=
  (dOut k.desc 0).bind fun f => targetOf s k f (cvTidOut k.desc) (cvDomain k.desc) (vcB k.desc) (cvRound k.desc == 1)

/-- The source's scale. -/
def convertScale (s : State) (k : Tk) : ScaleLook :=
  match dIn k.desc 0 with
  | some f => sigmaFor s k (cvTidIn k.desc) f
  | none => .invalid

/-- Everything that makes a CONVERT complete with INVALID when it begins. One that names binary16 or binary32 on both sides is neither
an import nor an export (R82; DEDUCED, log entry 73). -/
def convertOk (s : State) (k : Tk) : Bool :=
  let d := k.desc
  !engRetired s (tkEng s k) && vcCount d != 0 && convertScale s k != .invalid
    && (dInQ d 0).any (fun q => qeUsable s k q false)
    && match dIn d 0, convertTarget s k with
       | some a, some t =>
         !(isBinary a && isBinary t.fmt) && roundOk a t.fmt (cvRound d) && indexOk t (vcOrigin d + vcCount d - 1)
           && convertOutOk s k t.fmt
       | _, _ => false

/-- A CONVERT with its input in hand, whose output to a queue end goes as `push` does; none where that waits for strips. The exact
scaled source value is rounded once, into the target: whether a lane first widens it to binary32 (R102) the manual leaves open
(DESIGN CHOICE, log entry 96). -/
def convertFrom (push : State → Tk → Nat → Fmt → List Nat → Option State) (k : Tk) (residue : Option (Nat × Nat)) (s : State)
    (a : TakenAll) : Option State :=
  let d := k.desc
  (convertTarget s k).bind fun t =>
    let look := convertScale s k
    let sig : Int := match look with | .found x => x | _ => 0
    let ecc := t.poison || look == .poisoned
    let t : Target := { t with poison := ecc }
    let els : List (Nat × Option Val) := ((List.range (vcCount d)).zip (a.vals.getD 0 [])).map fun p => (vcOrigin d + p.1, some (p.2.scale sig))
    let w := codesFor (drawKeyOf s k t.domain t.tid) t false 512 els
    let codes := withResidue residue w.codes
    let out : Option State := match dOutW d 0 with
      | .queue q => push a.s k q t.fmt codes
      | .memory g =>
        let s2 := writeRows a.s k g (cvPitch d) (rowsBytes t.fmt 512 codes)
        if t.fmt = .l4w then
          let xs := (l4wBlocks 512 (els.map fun p => if ecc then none else p.2.map fun v => v.scale (-t.sigma))).2
          match dOutW d 1 with
          | .memory h => some (writeRows s2 k h (2 * cvPitch d) (xs.map fun r => r.map i8))
          | _ => none
        else some s2
      | .none => none
    out.map fun s =>
      let s := residueSeen (modTk (foldTarget s k t w) k.ticket fun q => { q with wrote := true }) k residue.isSome
      endConvert s k (convertCauses (a.bad || ecc) w.nonfinite) (vcCount d) (!a.lost)

/-- Runs a CONVERT whose input and strips are at hand; none where they are not. -/
def convertRun (s : State) (k : Tk) (residue : Option (Nat × Nat)) : Option State :=
  (takeInputs s k (vcCount k.desc) 1).bind (convertFrom pushElements k residue s)

/-- CONVERT: begins when its turn has come and its input is complete, with room for its output, or as soon as an entry can be popped;
what it then lacks it waits for entry by entry (R149, R434). -/
def execConvert (t : TicketId) (residue : Option (Nat × Nat)) (s : State) : Outcome State Fault Refusal :=
  let whole (k : Tk) : State → TakenAll → Option State := convertFrom pushElements k residue
  let held (k : Tk) : State → TakenAll → Option State := convertFrom holdPush k residue
  let n := match getTk s t with | some k => vcCount k.desc | none => 0
  match stageGoesOn n 1 whole held (isFn .convert 0) t s with
  | some s1 => .next (settle s s1)
  | none =>
    match beginTk s t (isFn .convert 0)
        (fun s k => !convertOk s (takeStart s k)
          || (popsTurn s k && ((convertRun s (takeStart s k) none).isSome || canDraw s k n 1))) convertOk with
    | .wait => .next s
    | .ended s1 => .next (settle s s1)
    | .ok s1 k =>
      .next (settle s (match convertRun s1 k residue with
        | some s2 => s2
        | none => stageRun n 1 (whole k) (held k) s1 k { got := [], lost := false, computed := false, jobs := [] }))

end Sys2Proof.Machine
end

