-- ==== Sys2Proof/Machine/Dispatch.lean ====
section
/-! DEFINITION. One meaning for each command: the block as a function of the command. -/

namespace Sys2Proof.Machine

/-- The effect of a command on everything but the queue. -/
def exec (i : Instr) (s : State) : Host.Outcome State Fault Refusal :=
  match i with
  | .powerOn => Sys2Proof.Machine.execPowerOn s
  | .lockout => Sys2Proof.Machine.execLockout s
  | .overvoltageShutdown => Sys2Proof.Machine.execOvervoltageShutdown s
  | .railOutOfRegulation => Sys2Proof.Machine.execRailOutOfRegulation s
  | .resetNAssert micros taken => Sys2Proof.Machine.execResetNAssert micros taken s
  | .resetNRelease boot => Sys2Proof.Machine.execResetNRelease boot s
  | .pwrOkFall => Sys2Proof.Machine.execPwrOkFall s
  | .pwrOkRise => Sys2Proof.Machine.execPwrOkRise s
  | .objectRead port index sub seg => Sys2Proof.Machine.execObjectRead port index sub seg s
  | .writeMore port index sub seg data => Sys2Proof.Machine.execWriteMore port index sub seg data s
  | .writeLast port index sub seg data => Sys2Proof.Machine.execWriteLast port index sub seg data s
  | .objectWrite port index sub data => Sys2Proof.Machine.execObjectWrite port index sub data s
  | .segmentTimeout => Sys2Proof.Machine.execSegmentTimeout s
  | .heartbeat => Sys2Proof.Machine.execHeartbeat s
  | .alarm => Sys2Proof.Machine.execAlarm s
  | .heartbeatReceived frame node => Sys2Proof.Machine.execHeartbeatReceived frame node s
  | .managerLost => Sys2Proof.Machine.execManagerLost s
  | .busSilent bus what => Sys2Proof.Machine.execBusSilent bus what s
  | .reset port => Sys2Proof.Machine.execReset port s
  | .stop port => Sys2Proof.Machine.execStop port s
  | .fieldReset port => Sys2Proof.Machine.execFieldReset port s
  | .prepare port word => Sys2Proof.Machine.execPrepare port word s
  | .prepareAcknowledge unit => Sys2Proof.Machine.execPrepareAcknowledge unit s
  | .prepareTimeout => Sys2Proof.Machine.execPrepareTimeout s
  | .preparedFieldsWrite port slot value => Sys2Proof.Machine.execPreparedFieldsWrite port slot value s
  | .commit port word => Sys2Proof.Machine.execCommit port word s
  | .abort port word => Sys2Proof.Machine.execAbort port word s
  | .profileSwitch slot unit => Sys2Proof.Machine.execProfileSwitch slot unit s
  | .railStep => Sys2Proof.Machine.execRailStep s
  | .claim port request => Sys2Proof.Machine.execClaim port request s
  | .release port request => Sys2Proof.Machine.execRelease port request s
  | .softwareAlert port value => Sys2Proof.Machine.execSoftwareAlert port value s
  | .fieldRelay cmd data => Sys2Proof.Machine.execFieldRelay cmd data s
  | .response frame node accept data => Sys2Proof.Machine.execResponse frame node accept data s
  | .relayTimeout => Sys2Proof.Machine.execRelayTimeout s
  | .mainbandWrite tag addr data => Sys2Proof.Machine.execMainbandWrite tag addr data s
  | .mainbandWriteMasked tag addr data mask => Sys2Proof.Machine.execMainbandWriteMasked tag addr data mask s
  | .mainbandRead tag addr bursts => Sys2Proof.Machine.execMainbandRead tag addr bursts s
  | .doorbellH tag die slot value => Sys2Proof.Machine.execDoorbellH tag die slot value s
  | .doorbellC tag die slot value => Sys2Proof.Machine.execDoorbellC tag die slot value s
  | .doorbellU tag die value => Sys2Proof.Machine.execDoorbellU tag die value s
  | .evHeadWrite value => Sys2Proof.Machine.execEvHeadWrite value s
  | .evRingConfigWrite size value => Sys2Proof.Machine.execEvRingConfigWrite size value s
  | .updateWrite port => Sys2Proof.Machine.execUpdateWrite port s
  | .updateSelect port => Sys2Proof.Machine.execUpdateSelect port s
  | .commitSvn port => Sys2Proof.Machine.execCommitSvn port s
  | .extend port value => Sys2Proof.Machine.execExtend port value s
  | .quoteNonce port nonce => Sys2Proof.Machine.execQuoteNonce port nonce s
  | .quoteReady => Sys2Proof.Machine.execQuoteReady s
  | .loadBankA port die => Sys2Proof.Machine.execLoadBankA port die s
  | .loadBankB port die => Sys2Proof.Machine.execLoadBankB port die s
  | .libraryLoadComplete die => Sys2Proof.Machine.execLibraryLoadComplete die s
  | .librarySwitch port die => Sys2Proof.Machine.execLibrarySwitch port die s
  | .mixerTestInput port x => Sys2Proof.Machine.execMixerTestInput port x s
  | .ringConfigWrite port die slot which value => Sys2Proof.Machine.execRingConfigWrite port die slot which value s
  | .queueEndTableWrite port die data => Sys2Proof.Machine.execQueueEndTableWrite port die data s
  | .flagTableWrite port die data => Sys2Proof.Machine.execFlagTableWrite port die data s
  | .variantTableWrite port data => Sys2Proof.Machine.execVariantTableWrite port data s
  | .bufferTableWrite port slot data => Sys2Proof.Machine.execBufferTableWrite port slot data s
  | .netHostTableWrite port data => Sys2Proof.Machine.execNetHostTableWrite port data s
  | .routingTableWrite port data => Sys2Proof.Machine.execRoutingTableWrite port data s
  | .portEnableWrite port value => Sys2Proof.Machine.execPortEnableWrite port value s
  | .channelConfigWrite port chan sub data => Sys2Proof.Machine.execChannelConfigWrite port chan sub data s
  | .powerCapWrite port watts => Sys2Proof.Machine.execPowerCapWrite port watts s
  | .initialPaceWrite port slot pace => Sys2Proof.Machine.execInitialPaceWrite port slot pace s
  | .energyClear port value => Sys2Proof.Machine.execEnergyClear port value s
  | .retireRequest port eng word => Sys2Proof.Machine.execRetireRequest port eng word s
  | .retireEngine port eng value => Sys2Proof.Machine.execRetireEngine port eng value s
  | .engineRepair eng activeScrub shadowScrub => Sys2Proof.Machine.execEngineRepair eng activeScrub shadowScrub s
  | .rowDiagnostic eng differing => Sys2Proof.Machine.execRowDiagnostic eng differing s
  | .restoreCommand port slot peerHeader => Sys2Proof.Machine.execRestoreCommand port slot peerHeader s
  | .restoreComplete slot peerPayload peerPoisoned => Sys2Proof.Machine.execRestoreComplete slot peerPayload peerPoisoned s
  | .restoreReadTimeout slot => Sys2Proof.Machine.execRestoreReadTimeout slot s
  | .slotAbort port slot => Sys2Proof.Machine.execSlotAbort port slot s
  | .descriptorFetch die ring slot fault => Sys2Proof.Machine.execDescriptorFetch die ring slot fault s
  | .descriptorIssue ticket fault => Sys2Proof.Machine.execDescriptorIssue ticket fault s
  | .descriptorCompletion ticket => Sys2Proof.Machine.execDescriptorCompletion ticket s
  | .completionRecord ticket => Sys2Proof.Machine.execCompletionRecord ticket s
  | .waitCycleSearch ticket => Sys2Proof.Machine.execWaitCycleSearch ticket s
  | .cancel ticket => Sys2Proof.Machine.execCancel ticket s
  | .cancelComplete ticket => Sys2Proof.Machine.execCancelComplete ticket s
  | .matmulStart ticket => Sys2Proof.Machine.execMatmulStart ticket s
  | .matmulContinue ticket => Sys2Proof.Machine.execMatmulContinue ticket s
  | .matmulSeed ticket => Sys2Proof.Machine.execMatmulSeed ticket s
  | .matmulAccept ticket => Sys2Proof.Machine.execMatmulAccept ticket s
  | .drainOut ticket residue bank => Sys2Proof.Machine.execDrainOut ticket residue bank s
  | .drainEngine ticket => Sys2Proof.Machine.execDrainEngine ticket s
  | .drainCollective ticket residue bank => Sys2Proof.Machine.execDrainCollective ticket residue bank s
  | .drainForce ticket => Sys2Proof.Machine.execDrainForce ticket s
  | .endToken ticket => Sys2Proof.Machine.execEndToken ticket s
  | .totalsRow eng set residue faults => Sys2Proof.Machine.execTotalsRow eng set residue faults s
  | .abandonMarker eng set => Sys2Proof.Machine.execAbandonMarker eng set s
  | .convert ticket residue => Sys2Proof.Machine.execConvert ticket residue s
  | .loadstat ticket => Sys2Proof.Machine.execLoadstat ticket s
  | .loadStep eng scrub => Sys2Proof.Machine.execLoadStep eng scrub s
  | .swap ticket => Sys2Proof.Machine.execSwap ticket s
  | .swapExecute eng => Sys2Proof.Machine.execSwapExecute eng s
  | .admissionToken eng => Sys2Proof.Machine.execAdmissionToken eng s
  | .wavefront eng fault => Sys2Proof.Machine.execWavefront eng fault s
  | .carouselRound eng input word code => Sys2Proof.Machine.execCarouselRound eng input word code s
  | .correctedWriteback eng => Sys2Proof.Machine.execCorrectedWriteback eng s
  | .copy ticket residue => Sys2Proof.Machine.execCopy ticket residue s
  | .relu ticket residue => Sys2Proof.Machine.execRelu ticket residue s
  | .gelu ticket residue => Sys2Proof.Machine.execGelu ticket residue s
  | .silu ticket residue => Sys2Proof.Machine.execSilu ticket residue s
  | .tanh ticket residue => Sys2Proof.Machine.execTanh ticket residue s
  | .exp ticket residue => Sys2Proof.Machine.execExp ticket residue s
  | .rsqrt ticket residue => Sys2Proof.Machine.execRsqrt ticket residue s
  | .vecScale ticket residue => Sys2Proof.Machine.execVecScale ticket residue s
  | .add ticket residue => Sys2Proof.Machine.execAdd ticket residue s
  | .mul ticket residue => Sys2Proof.Machine.execMul ticket residue s
  | .fma ticket residue => Sys2Proof.Machine.execFma ticket residue s
  | .swiglu ticket residue => Sys2Proof.Machine.execSwiglu ticket residue s
  | .rowmax ticket residue => Sys2Proof.Machine.execRowmax ticket residue s
  | .softmax ticket residue => Sys2Proof.Machine.execSoftmax ticket residue s
  | .softmaxCausal ticket residue => Sys2Proof.Machine.execSoftmaxCausal ticket residue s
  | .rmsnorm ticket residue => Sys2Proof.Machine.execRmsnorm ticket residue s
  | .layernorm ticket residue => Sys2Proof.Machine.execLayernorm ticket residue s
  | .sumsq ticket residue => Sys2Proof.Machine.execSumsq ticket residue s
  | .adamMoments ticket residue => Sys2Proof.Machine.execAdamMoments ticket residue s
  | .adamWeight ticket residue => Sys2Proof.Machine.execAdamWeight ticket residue s
  | .sgdMomentum ticket residue => Sys2Proof.Machine.execSgdMomentum ticket residue s
  | .maxcap ticket residue => Sys2Proof.Machine.execMaxcap ticket residue s
  | .streamLinear ticket => Sys2Proof.Machine.execStreamLinear ticket s
  | .streamIndexed ticket => Sys2Proof.Machine.execStreamIndexed ticket s
  | .streamEntryStart ticket => Sys2Proof.Machine.execStreamEntryStart ticket s
  | .stripClaim ticket => Sys2Proof.Machine.execStripClaim ticket s
  | .readDataArrival ticket row residue => Sys2Proof.Machine.execReadDataArrival ticket row residue s
  | .streamReadTimeout read => Sys2Proof.Machine.execStreamReadTimeout read s
  | .put ticket => Sys2Proof.Machine.execPut ticket s
  | .get ticket => Sys2Proof.Machine.execGet ticket s
  | .fabricOpTimeout ticket => Sys2Proof.Machine.execFabricOpTimeout ticket s
  | .chainReduce ticket residue => Sys2Proof.Machine.execChainReduce ticket residue s
  | .reduceScatter ticket residue => Sys2Proof.Machine.execReduceScatter ticket residue s
  | .allGather ticket => Sys2Proof.Machine.execAllGather ticket s
  | .broadcast ticket => Sys2Proof.Machine.execBroadcast ticket s
  | .backup ticket residue => Sys2Proof.Machine.execBackup ticket residue s
  | .normCollective ticket residue => Sys2Proof.Machine.execNormCollective ticket residue s
  | .collectiveIssue ticket => Sys2Proof.Machine.execCollectiveIssue ticket s
  | .latenessTimer chan shard => Sys2Proof.Machine.execLatenessTimer chan shard s
  | .collectiveTimeout chan => Sys2Proof.Machine.execCollectiveTimeout chan s
  | .waitSet ticket => Sys2Proof.Machine.execWaitSet ticket s
  | .flagWrite ticket => Sys2Proof.Machine.execFlagWrite ticket s
  | .fence ticket => Sys2Proof.Machine.execFence ticket s
  | .mirror ticket => Sys2Proof.Machine.execMirror ticket s
  | .mirrorTimeout slot => Sys2Proof.Machine.execMirrorTimeout slot s
  | .checkarm ticket => Sys2Proof.Machine.execCheckarm ticket s
  | .layerFwd ticket => Sys2Proof.Machine.execLayerFwd ticket s
  | .layerBwd ticket => Sys2Proof.Machine.execLayerBwd ticket s
  | .normClipUpdate ticket => Sys2Proof.Machine.execNormClipUpdate ticket s
  | .variantUpdate ticket => Sys2Proof.Machine.execVariantUpdate ticket s
  | .mirrorStep ticket => Sys2Proof.Machine.execMirrorStep ticket s
  | .externalRoutine ticket => Sys2Proof.Machine.execExternalRoutine ticket s
  | .publicationRelease die ctx => Sys2Proof.Machine.execPublicationRelease die ctx s
  | .rxTail die ctx tail => Sys2Proof.Machine.execRxTail die ctx tail s
  | .flagWait die ctx word => Sys2Proof.Machine.execFlagWait die ctx word s
  | .flagWaitResume die ctx => Sys2Proof.Machine.execFlagWaitResume die ctx s
  | .flagRead die ctx flag => Sys2Proof.Machine.execFlagRead die ctx flag s
  | .event die ctx word => Sys2Proof.Machine.execEvent die ctx word s
  | .routineReturn die ctx a0 => Sys2Proof.Machine.execRoutineReturn die ctx a0 s
  | .riscvFence die ctx => Sys2Proof.Machine.execRiscvFence die ctx s
  | .loadReserved die ctx addr wide => Sys2Proof.Machine.execLoadReserved die ctx addr wide s
  | .storeConditional die ctx addr wide value => Sys2Proof.Machine.execStoreConditional die ctx addr wide value s
  | .homeAccess pos code => Sys2Proof.Machine.execHomeAccess pos code s
  | .maskedWrite pos code => Sys2Proof.Machine.execMaskedWrite pos code s
  | .atomicAdd ctx tag addr wide operand => Sys2Proof.Machine.execAtomicAdd ctx tag addr wide operand s
  | .atomicSwap ctx tag addr wide operand => Sys2Proof.Machine.execAtomicSwap ctx tag addr wide operand s
  | .atomicAnd ctx tag addr wide operand => Sys2Proof.Machine.execAtomicAnd ctx tag addr wide operand s
  | .atomicOr ctx tag addr wide operand => Sys2Proof.Machine.execAtomicOr ctx tag addr wide operand s
  | .atomicXor ctx tag addr wide operand => Sys2Proof.Machine.execAtomicXor ctx tag addr wide operand s
  | .atomicMin ctx tag addr wide operand => Sys2Proof.Machine.execAtomicMin ctx tag addr wide operand s
  | .atomicMax ctx tag addr wide operand => Sys2Proof.Machine.execAtomicMax ctx tag addr wide operand s
  | .atomicMinu ctx tag addr wide operand => Sys2Proof.Machine.execAtomicMinu ctx tag addr wide operand s
  | .atomicMaxu ctx tag addr wide operand => Sys2Proof.Machine.execAtomicMaxu ctx tag addr wide operand s
  | .atomicCas tag addr expected replacement => Sys2Proof.Machine.execAtomicCas tag addr expected replacement s
  | .burstAdd chan burst => Sys2Proof.Machine.execBurstAdd chan burst s
  | .memoryWriteback burst => Sys2Proof.Machine.execMemoryWriteback burst s
  | .patrolScrub home found => Sys2Proof.Machine.execPatrolScrub home found s
  | .stackClassSample stack milliCelsius => Sys2Proof.Machine.execStackClassSample stack milliCelsius s
  | .throttleStep stack milliCelsius => Sys2Proof.Machine.execThrottleStep stack milliCelsius s
  | .writeFlit port f => Sys2Proof.Machine.execWriteFlit port f s
  | .readFlit port f => Sys2Proof.Machine.execReadFlit port f s
  | .dataFlit port f => Sys2Proof.Machine.execDataFlit port f s
  | .ackFlit port f => Sys2Proof.Machine.execAckFlit port f s
  | .flagsetFlit port f => Sys2Proof.Machine.execFlagsetFlit port f s
  | .burstAddFlit port f => Sys2Proof.Machine.execBurstAddFlit port f s
  | .chainFlit port f residue => Sys2Proof.Machine.execChainFlit port f residue s
  | .resultFlit port f residue => Sys2Proof.Machine.execResultFlit port f residue s
  | .readyFlit port f => Sys2Proof.Machine.execReadyFlit port f s
  | .rideFlit port f residue => Sys2Proof.Machine.execRideFlit port f residue s
  | .digestFlit port f => Sys2Proof.Machine.execDigestFlit port f s
  | .noticeAbsent port f => Sys2Proof.Machine.execNoticeAbsent port f s
  | .noticeDigestBad port f => Sys2Proof.Machine.execNoticeDigestBad port f s
  | .noticeAbort port f => Sys2Proof.Machine.execNoticeAbort port f s
  | .linkFlit port f => Sys2Proof.Machine.execLinkFlit port f s
  | .flitForward inPort outPort f => Sys2Proof.Machine.execFlitForward inPort outPort f s
  | .laneFailure port lane => Sys2Proof.Machine.execLaneFailure port lane s
  | .spareLaneSwitch port => Sys2Proof.Machine.execSpareLaneSwitch port s
  | .portTrainingComplete port peer half => Sys2Proof.Machine.execPortTrainingComplete port peer half s
  | .dieSwap pair => Sys2Proof.Machine.execDieSwap pair s
  | .replay slot die number => Sys2Proof.Machine.execReplay slot die number s
  | .stepCommit slot => Sys2Proof.Machine.execStepCommit slot s
  | .paceMonitorSample eng rate => Sys2Proof.Machine.execPaceMonitorSample eng rate s
  | .capLoopSample events => Sys2Proof.Machine.execCapLoopSample events s
  | .guardSample milliamps => Sys2Proof.Machine.execGuardSample milliamps s
  | .estimatorSlowLoop events measured => Sys2Proof.Machine.execEstimatorSlowLoop events measured s
  | .measurementLoop milliwatts => Sys2Proof.Machine.execMeasurementLoop milliwatts s
  | .heatLimitStep milliCelsius => Sys2Proof.Machine.execHeatLimitStep milliCelsius s
  | .wearCountTick => Sys2Proof.Machine.execWearCountTick s
  | .wearStoreWrite => Sys2Proof.Machine.execWearStoreWrite s
  | .energyAttribution millijoules use => Sys2Proof.Machine.execEnergyAttribution millijoules use s
  | .updateComplete => Sys2Proof.Machine.execUpdateComplete s
  | .workerPresenceExpiry node => Sys2Proof.Machine.execWorkerPresenceExpiry node s
  | .busOffRecovery bus => Sys2Proof.Machine.execBusOffRecovery bus s
  | .ucieLinkDown => Sys2Proof.Machine.execUcieLinkDown s
  | .ucieLinkRetrained => Sys2Proof.Machine.execUcieLinkRetrained s
  | .flitOfOtherType port f => Sys2Proof.Machine.execFlitOfOtherType port f s

end Sys2Proof.Machine
end

