-- ==== Sys2Proof/Machine/Step.lean ====
section
/-! DEFINITION. One step: the command at the front of the queue. -/

namespace Sys2Proof.Machine

/-- The state with a command at the front of its queue. -/
def State.withCommand (s : State) (i : Instr) : State := { s with pending := i :: s.pending }

/-- The state with the command that a table word spells at the front of its queue; unchanged where it spells none. -/
def State.withFetchWord (s : State) (nbits w : Nat) : State :=
  match decodeTableWord nbits w with
  | some i => s.withCommand i
  | none => s

/-- Takes the command at the front and runs it on the state with the queue's rest. An empty queue idles (log entry 3). -/
def step (s : State) : Host.Outcome State Fault Refusal :=
  match s.pending with
  | [] => .next s
  | i :: rest => exec i { s with pending := rest }

end Sys2Proof.Machine
end

