-- ==== Sys2Proof/Safety.lean ====
section
/-! DEFINITION. What a safe state and a safe run are, in the terms claims use: the forms a state keeps, what the end of every
command may change, and who is served. -/

namespace Sys2Proof.Machine

/-- The memory stands in its one form, and so do the poison marks. -/
def State.memWf (s : State) : Bool := Memory.wf s.mem && sparseWf false s.poison

/-- Every ticket in flight stands in its own place of the ticket table. -/
def TicketsPlaced (s : State) : Prop :=
  sparseWf none s.tickets = true ∧ ∀ p ∈ s.tickets, ∀ k, p.2 = some k → p.1 = k.ticket.val

/-- A run of well-formed commands ends in a next state: it meets neither a fault nor a refusal. -/
def Safe (s : State) : Prop := ∃ t, step s = .next t

/-- `t` is `u` but for what the end of every command may change: GENERATION, an ALARM that falls due, the rail mode with its
setpoint, the ceilings of the slots, and the marks of what only a replacement of the module ends (R334, R345, R346, R374, R388). -/
def SettledFrom (u t : State) : Prop :=
  t = { u with generation := t.generation, field := { u.field with alarmDue := t.field.alarmDue },
               tripped := t.tripped, degraded := t.degraded,
               pm := { u.pm with railTarget := t.pm.railTarget, mode := t.pm.mode }, slots := t.slots }
  ∧ ∀ j : Fin 16, t.slots[j] = { u.slots[j] with ceiling := t.slots[j].ceiling }

/-- The rail follows the profiles in force at the power manager (R345, R346): the rail mode is the highest that a slot with a job asks for,
the regulators head for its setpoint, and every slot whose own mode the rail supports has its mode's ceiling, no slot a higher one. -/
def RailFollows (s : State) : Prop :=
  s.power = .running →
    s.pm.mode = askedMode s ∧ s.pm.railTarget = modeMillivolts (askedMode s)
    ∧ ∀ j : Fin 16, s.slots[j].ceiling.toNat ≤ modeCeiling (slotMode s.slots[j])
      ∧ (modeMillivolts (slotMode s.slots[j]) ≤ s.pm.rail →
          s.slots[j].ceiling = BitVec.ofNat 16 (modeCeiling (slotMode s.slots[j])))

/-- The agent serves a port at once: it answers on the port, no access holds it, and on the mailbox the last request is
done (R366, R398, R403). -/
def PortFree (s : State) (port : Port) : Prop :=
  agentServes s port = true ∧ s.agentHeld = none ∧ (port = .ucie → s.mailbox.objDone = true)

/-- The state once a whole write has been submitted: the mailbox shows it, and a bus on which it came is silent no longer (R375, R398). -/
def writeTaken (s : State) (port : Port) (index sub : Nat) (data aux : List Byte) : State :=
  noteSubmit s { port := port, op := opWriteLast, index := BitVec.ofNat 16 index, sub := BitVec.ofNat 8 sub, seg := 0, data := data,
                 aux := aux }

/-- The state once a write that came to `u` has been answered with a status; an accepted command is noted (R370, R373). -/
def acknowledged (u : State) (port : Port) (index sub : Nat) (data : List Byte) (st : Status) : State :=
  answerWrite (noteCommand u (isCommand (BitVec.ofNat 16 index) (BitVec.ofNat 8 sub)) (BitVec.ofNat 16 index) (BitVec.ofNat 8 sub) data st)
    { port := port, index := BitVec.ofNat 16 index, sub := BitVec.ofNat 8 sub } st

/-- No earlier accepted command object's write is the same one (R373). -/
def FirstWrite (s : State) (index sub : Nat) (data : List Byte) : Prop :=
  asBefore s (BitVec.ofNat 16 index) (BitVec.ofNat 8 sub) data = none

/-- What a write leaves where it came to `t`: a value that the object already held changes nothing but the code bits of the entries
written (R296, R373). -/
def storedOf (w t : State) (index sub : Nat) : State :=
  if heldAlready w t (BitVec.ofNat 16 index) (BitVec.ofNat 8 sub) = true then { w with upsets := t.upsets } else t

/-- The write of an object on a port, as a command, came to `u` and was answered with the status (R367, R370). -/
def ObjectWritten (o : Host.Outcome State Fault Refusal) (port : Port) (index sub : Nat) (data : List Byte) (st : Status) (u : State) : Prop :=
  ∃ t, o = .next t ∧ SettledFrom (acknowledged u port index sub data st) t

/-- Entry i of a table as the written bytes give it, zeros past their end (R371). -/
def writtenEntry (w bytes : Nat) (data : List Byte) (i : Nat) : BitVec w := bytesWord w (sliceBytes data (i * bytes) bytes)

/-- A table `l` that holds `f` in `count` places from `base` on, and in every other place what `old` held. -/
def TableTakes {w : Nat} (l old : Sparse (BitVec w)) (base count : Nat) (f : Nat → BitVec w) : Prop :=
  (∀ i < count, sparseGet 0 l (base + i) = f i) ∧ ∀ k, k < base ∨ base + count ≤ k → sparseGet 0 l k = sparseGet 0 old k

/-- The head die is served: the link is up and the module runs (R392, R404). -/
def HeadServed (s : State) : Prop := mainbandState s = .served

/-- Passing a tap leaves all but the check-value units, the integrity log and the tickets that a unit ends (R297). -/
def TapsLeave (s t : State) : Prop := t = { s with cvus := t.cvus, integrity := t.integrity, tickets := t.tickets }

/-- No check-value unit that is armed belongs to ticket t: only a CHECKARM's own ticket is one (R297). -/
def NotArming (s : State) (t : TicketId) : Prop := ∀ n : Fin 16, s.cvus[n].armed = true → s.cvus[n].ticket ≠ t

/-- A descriptor as it begins on its unit: it takes the seed, the steps, the scale table and the profile then in force (R92, R105,
R107, R145). -/
def startedTk (s : State) (k : Tk) : Tk := takeStart (switchUnit s (dSlot k.desc) (tkUnit s k)) k

/-- The state as a descriptor begins: its unit has taken a committed profile (R384), the ticket runs, and the reads of its scale
entries have passed their homes (R216, R298). -/
def started (s : State) (k : Tk) : State :=
  touchScales (setTk (switchUnit s (dSlot k.desc) (tkUnit s k)) (startedTk s k)) (startedTk s k)

/-- A flit to a module finds a port: ports of its route carry traffic, and no link die that reads the route finds itself or its copy
of the entry wrong (R265, R266, R294, R296). -/
def Reaches (s : State) (dest : Nat) : Prop :=
  routePorts s dest ≠ [] ∧ ∀ p ∈ routePorts s dest, controlWrong s (.linkDie (linkDieOf p)) [(.routing (linkDieOf p), dest)] = false

/-- Issued descriptor t is the one that its unit takes next, the unit is not isolated, and neither its control fields nor the table
entries that it reads are wrong (R141, R294, R296). -/
def NextOnUnit (s : State) (t : TicketId) (k : Tk) : Prop :=
  getTk s t = some k ∧ k.ticket = t ∧ s.power = .running ∧ k.phase = .issued ∧ unitTurn s k = true ∧ unitIsolated s (tkUnit s k) = false
  ∧ controlWrong s (tkUnit s k) (entriesRead k) = false

/-- Its profile and its variant context are as its fields ask (R145, R146). -/
def StartsLegal (s : State) (k : Tk) : Prop :=
  (dPchk k.desc = true → (startedTk s k).profileId = dProfile k.desc) ∧ variantOk (started s k) (startedTk s k) = true

/-- Issued descriptor t begins on its unit, and is none that a check-value unit holds already. -/
def Begins (s : State) (t : TicketId) (k : Tk) : Prop := NextOnUnit s t k ∧ StartsLegal s k ∧ NotArming s t

/-- A context trapped: it has ended, and its CALL ends with INVALID (R176). -/
def ContextTrapped (d : Die) (c : CtxId) (t : TicketId) (cause : BitVec 8) (u : State) : Prop :=
  .contextTrap d c cause ∈ u.sent ∧ ctxOf u d c = none ∧ ∃ q, getTk u t = some q ∧ q.phase = .ended ∧ .invalid ∈ q.causes

/-- A routine's CALL has ended with a value of a0 (R171). -/
def RoutineReturned (s : State) (d : Die) (c : CtxId) (x : Ctx) (v : BitVec 64) (u : State) : Prop :=
  ctxOf u d c = none ∧ ∃ q, getTk u x.ticket = some q ∧ q.phase = .ended ∧ q.detail = BitVec.ofNat 64 (callDetail s d x v)

/-- No bank of the die's library drains, so that the end of a context raises no event (R184). -/
def NoneDrains (s : State) (d : Die) : Prop := (s.dies[d]).bankA.state ≠ .draining ∧ (s.dies[d]).bankB.state ≠ .draining

/-- The VEC commands, each with its function code (R156). -/
def vecCommands (t : TicketId) (r : Option (Nat × Nat)) : List (Instr × Nat) :=
  [(.copy t r, 0x01), (.relu t r, 0x02), (.gelu t r, 0x03), (.silu t r, 0x04), (.tanh t r, 0x05), (.exp t r, 0x06),
   (.rsqrt t r, 0x07), (.vecScale t r, 0x08), (.add t r, 0x10), (.mul t r, 0x11), (.fma t r, 0x12), (.swiglu t r, 0x13),
   (.rowmax t r, 0x20), (.softmax t r, 0x21), (.softmaxCausal t r, 0x22), (.rmsnorm t r, 0x23), (.layernorm t r, 0x24),
   (.sumsq t r, 0x30), (.adamMoments t r, 0x40), (.adamWeight t r, 0x41), (.sgdMomentum t r, 0x42), (.maxcap t r, 0x50)]

/-- A routine that had nothing left to write has formed descriptors, and `u` is what came of it (R171, R172, R307). As many as ring X has
slots for stand there in order and are published, and the rest are kept; once all are out, the routine returns its value, if it has
one. A first publication is held, all of it, while an earlier CALL is not done. A replay's go to the replay. -/
def RoutineForms (s : State) (d : Die) (c : CtxId) (x : Ctx) (k : Tk) (formed : List Desc) (value : Option (BitVec 64)) (u : State) : Prop :=
  let r := (ringsOf s k.ringDie (dSlot k.desc)).x
  let now := (ringsOf u k.ringDie (dSlot k.desc)).x
  let slot (i : Nat) : Nat := r.base.toNat + 128 * ((r.tail.toNat + i) % r.size.toNat)
  let m := min (rxSpace s k) formed.length
  let done : Prop :=
    (∀ v, value = some v → RoutineReturned s d c x v u) ∧ (value = none → x.ret = none → ∃ z, ctxOf u d c = some z ∧ z.todo = [])
  (k.isReplay = false → x.published = true ∨ publicationFree s k = true → r.tail.toNat < r.size.toNat →
    now = { r with tail := BitVec.ofNat 16 ((r.tail.toNat + m) % r.size.toNat) }
    ∧ (m < formed.length → ∃ z, ctxOf u d c = some z ∧ z.todo = formed.drop m)
    ∧ (m = formed.length → done)
    ∧ (NoneDrains s d → (∀ i < r.size.toNat, spanBad s (r.base.toNat + 128 * i) 128 = false) →
        ∀ i e, i < m → formed[i]? = some e → memBytes u (slot i) 128 = wordBytes 128 e))
  ∧ (k.isReplay = false → x.published = false → publicationFree s k = false → formed ≠ [] →
      now = r ∧ ∃ z, ctxOf u d c = some z ∧ z.todo = formed ∧ z.held = true)
  ∧ (k.isReplay = true → now = r ∧ done ∧ ∀ run, (s.slots[dSlot k.desc]).replaying = some run →
      ∃ next, (u.slots[dSlot k.desc]).replaying = some next ∧ next.descs = run.descs ++ formed.map fun e => ((k.ticket, k.idx), e))

end Sys2Proof.Machine
end

