-- ==== Sys2Proof/Certificates/Slice0/Obligations.lean ====
section
/-! DEFINITION. The statements for the provers: what each command does to the state, which states every step keeps, and what
each leaves unchanged. -/

open Sys2Proof Sys2Proof.Machine Host

/-! ## The queue and every command's end -/

/-- The step takes the command at the front of the queue and runs it on the state with the queue's rest: for every command and
every state.

With no command waiting the block idles (the model's choice, log entry 3). -/
def Obligations.StepTakesTheFrontCommand : Prop :=
  (∀ (s : State) (c : Instr) (rest : List Instr),
    s.pending = c :: rest → step s = exec c { s with pending := rest })
  ∧ (∀ s : State, s.pending = [] → step s = .next s)

/-- Whatever the command, a step keeps the rail following the profiles in force: the regulators' target is the setpoint of the
highest power mode in force at the power manager, that mode is the rail's at once, and no slot's ceiling is above its mode's
(R345, R346). -/
def Obligations.RailFollowsProfiles : Prop :=
  ∀ s t : State, RailFollows s → step s = .next t → RailFollows t

/-- The reset state meets the invariant of the rail (the rail's reset values are those of log entry 1).

The reset state has the forms that every step keeps. -/
def Obligations.InvariantsAtReset : Prop :=
  (RailFollows State.reset)
  ∧ (State.reset.memWf = true ∧ TicketsPlaced State.reset)

/-- Whatever the command, a step of a running module that leaves it running raises GENERATION by 1 where a state field of R388
has changed, and leaves it otherwise; the changes that one command makes count as one (the model's choice, log entry 54). -/
def Obligations.GenerationCountsChanges : Prop :=
  ∀ s t : State, s.power = .running → step s = .next t → t.power = .running →
    t.generation = if stateView s = stateView t then s.generation else s.generation + 1

/-- Whatever the command, a step of a running module that leaves it running and changes its module state makes an ALARM due
(R374). -/
def Obligations.ModuleStateChangeRaisesAlarm : Prop :=
  ∀ s t : State, s.power = .running → step s = .next t → t.power = .running → moduleState s ≠ moduleState t → t.field.alarmDue = true

/-! ## Power, reset and boot -/

/-- POWER_ON powers a module that is off and holds it in reset; PWR_OK_RISE and PWR_OK_FALL follow the shelf's signal, and the
fall on a running module brings the wear count and the commit count into the non-volatile store (R412, R415, R417).

What a loss of the second-stage rails or of VIN_56 leaves: every byte of memory is lost, no ticket, ring, queue entry or flag is left, and
the non-volatile counts, the wear count and the fuses stay, and no output is driven (R223, R412, R416, R419). LOCKOUT and OVERVOLTAGE_SHUTDOWN turn the module off,
RAIL_OUT_OF_REGULATION leaves it waiting for a RESET_N pulse. -/
def Obligations.PowerSignalsAndLoss : Prop :=
  ((∀ s : State, s.power = .off → exec .powerOn s = .next { s with power := .held, vinOk := true })
  ∧ (∀ s : State, exec .pwrOkRise s = .next { s with pwrOk := true })
  ∧ (∀ s : State, s.power = .running →
      ∃ t, exec .pwrOkFall s = .next t
        ∧ SettledFrom { s with pwrOk := false, nv := { s.nv with wear := s.pm.wear, commits := s.commits } } t)
  ∧ (∀ s : State, s.power ≠ .running → exec .pwrOkFall s = .next { s with pwrOk := false }))
  ∧ (∀ s : State,
    let left (t : State) : Prop :=
      (∀ a, memByte t a = 0) ∧ t.tickets = [] ∧ t.rings = State.reset.rings ∧ t.queues = [] ∧ t.flags = [] ∧ t.slots = State.reset.slots
        ∧ t.nv.powerUps = s.nv.powerUps ∧ t.nv.wear = s.nv.wear ∧ t.pm.wear = s.nv.wear ∧ t.nv.commits = s.nv.commits
        ∧ t.security.fusedSvn = s.security.fusedSvn ∧ t.security.revoked = s.security.revoked
        ∧ t.pending = s.pending ∧ t.sent = s.sent
        ∧ pullsFaultN t = false ∧ pullsAlertN t = false ∧ pullsReady t = false
    (∃ t, exec .lockout s = .next t ∧ t.power = .off ∧ t.vinOk = false ∧ left t)
    ∧ (∃ t, exec .overvoltageShutdown s = .next t ∧ t.power = .off ∧ t.vinOk = false ∧ left t)
    ∧ (s.power ≠ .off → ∃ t, exec .railOutOfRegulation s = .next t ∧ t.power = .railsDown ∧ left t))

/-- RESET_N low for 30 µs or more takes a powered module into reset: tier 2 outside the head region keeps its bytes, tier 1
and the head region lose theirs, the descriptors in flight, the rings and the flags are gone, and no output is driven (R223, R419, R421). Below 10 µs the
pulse is not seen.

The release of RESET_N with PWR_OK high boots a module that is held in reset and has its delivered bundle selected, which the fused
SVN and the revoked keys still allow, in whichever order the strap reads stand: it runs with its straps read, no ticket in flight, every slot at reset, bank A active
on each die, GENERATION 1, every stack in the class of its hottest sensor, and tier 2 as the reset left it (R219, R223, R402,
R403, R388). -/
def Obligations.ResetPulseAndBoot : Prop :=
  (∀ (s : State) (micros : Nat) (taken : Bool), s.power ≠ .off →
    (30 ≤ micros → ∃ t, exec (.resetNAssert micros taken) s = .next t ∧ t.power = .held ∧ t.resetN = false
      ∧ (∀ a, memByte t a = if tier2Base ≤ a ∧ a < headBase then memByte s a else 0)
      ∧ t.tickets = [] ∧ t.rings = State.reset.rings ∧ t.flags = [] ∧ t.slots = State.reset.slots
      ∧ pullsFaultN t = false ∧ pullsAlertN t = false ∧ pullsReady t = false
      ∧ t.nv.powerUps = s.nv.powerUps ∧ t.nv.wear = s.nv.wear ∧ t.sent = s.sent)
    ∧ (micros < 10 → exec (.resetNAssert micros taken) s = .next { s with resetN := false }))
  ∧ (∀ (s : State) (i : BootInput), s.power = .held → s.pwrOk = true → i.laterFailure = none → s.nv.bootB = false →
    s.nv.factoryA = true → factoryOk s = true → s.security.updating = none →
    ∃ t, exec (.resetNRelease i) s = .next t ∧ t.power = .running
      ∧ (∀ h : Stack, (t.homes[stackHome h]).class_ = some (heatClass i.sensors[h])) ∧ t.resetN = true ∧ t.straps = strapsOf i.straps
      ∧ t.tickets = [] ∧ t.slots = State.reset.slots ∧ t.generation = 1
      ∧ (∀ d : Fin 4, t.dies[d].bankA.state = .active ∧ t.dies[d].activeB = false)
      ∧ (∀ a, memByte t a = if s.tier2Kept = true ∧ tier2Base ≤ a ∧ a < headBase then memByte s a else 0))

/-! ## Object dictionary -/

/-- A read of an object that fits one segment is answered on its port with the value's bytes and OK; the state is otherwise as
it was, the mailbox of the UCIe port apart (R370, R371, R389).

A write of several segments: the first opens it, in place of one that its own requester has open, the next in order from the same
requester for the same object extends it, and the last performs the write of all their bytes; while another requester's write is
open on CAN the first is answered BUSY, a segment out of order is answered INVALID, and both leave what is open. The mailbox holds
an open write of its own. SEGMENT_TIMEOUT discards the open write that is due (R371, R372, R398). -/
def Obligations.ObjectReadsAndSegments : Prop :=
  (∀ (s : State) (port : Port) (index : BitVec 16) (sub : BitVec 8) (v : List Byte),
    let r : AgentReq := { port := port, op := opRead, index := index, sub := sub, seg := 0, data := [], aux := [] }
    PortFree s port → objRead (noteSubmit s r) index sub = some v → v ≠ [] → v.length ≤ 2048 →
    ∃ t, exec (.objectRead port index sub 0) s = .next t
      ∧ t.sent = s.sent ++ answered (noteSubmit s r) { port := port, index := index, sub := sub } opDataLast .ok v
      ∧ SettledFrom { noteSubmit s r with mailbox := t.mailbox, sent := t.sent } t)
  ∧ (∀ (s : State) (port : Port) (index : BitVec 16) (sub : BitVec 8) (seg : BitVec 5) (data : List Byte),
    let more : AgentReq := { port := port, op := opWriteMore, index := index, sub := sub, seg := seg, data := data, aux := [] }
    let last : AgentReq := { port := port, op := opWriteLast, index := index, sub := sub, seg := seg, data := data, aux := [] }
    let asked : Asked := { port := port, index := index, sub := sub, seg := seg }
    let held : Option OpenWrite := openFor s port.requester
    let follows (o : OpenWrite) : Prop := o.holder = port.requester ∧ o.index = index ∧ o.sub = sub ∧ o.next = seg.toNat
    let opens (o : OpenWrite) : Prop :=
      ∃ t, exec (.writeMore port index sub seg data) s = .next t
        ∧ t.openWrites = othersOpen s port.requester ++ [o]
        ∧ t.sent = s.sent ++ answered (noteSubmit s more) asked opAck .ok [0]
        ∧ SettledFrom { noteSubmit s more with mailbox := t.mailbox, sent := t.sent, openWrites := t.openWrites } t
    PortFree s port →
    (data.length = 2048 → seg = 0 → (∀ o, held = some o → o.holder = port.requester) →
      opens { holder := port.requester, index := index, sub := sub, next := 1, data := data })
    ∧ (∀ o, data.length = 2048 → seg = 0 → held = some o → o.holder ≠ port.requester →
      ∃ t, exec (.writeMore port index sub seg data) s = .next t
        ∧ t.sent = s.sent ++ answered (noteSubmit s more) asked opFail .busy [Status.busy.code]
        ∧ SettledFrom { noteSubmit s more with mailbox := t.mailbox, sent := t.sent } t)
    ∧ (∀ o, data.length = 2048 → seg ≠ 0 → held = some o → follows o → opens { o with next := seg.toNat + 1, data := o.data ++ data })
    ∧ (∀ o, seg ≠ 0 → held = some o → follows o →
      ∃ t, exec (.writeLast port index sub seg data) s = .next t
        ∧ SettledFrom (performWrite asked (o.data ++ data) [] { noteSubmit s last with openWrites := othersOpen s port.requester }) t)
    ∧ (seg ≠ 0 → (∀ o, held = some o → ¬ follows o) →
      (∃ t, exec (.writeMore port index sub seg data) s = .next t
        ∧ t.sent = s.sent ++ answered (noteSubmit s more) asked opFail .invalid [Status.invalid.code]
        ∧ SettledFrom { noteSubmit s more with mailbox := t.mailbox, sent := t.sent } t)
      ∧ ∃ t, exec (.writeLast port index sub seg data) s = .next t
        ∧ t.sent = s.sent ++ answered (noteSubmit s last) asked opFail .invalid [Status.invalid.code]
        ∧ SettledFrom { noteSubmit s last with mailbox := t.mailbox, sent := t.sent } t))
  ∧ (∀ s : State, ∃ t, exec .segmentTimeout s = .next t ∧ SettledFrom { s with openWrites := s.openWrites.tail } t)

/-- A whole write of an object, as OBJECT_WRITE or as a WRITE_LAST of segment 0, that the object accepts is answered ACK with
OK on its port; what the object's own rule says has happened, and an accepted command is noted (R367, R370, R373).

A command that repeats the last accepted one is answered as that one was, with no second effect (R373). A read and a segment of a
write are answered once on their port, and they, like the segment timeout, leave memory, tickets, rings, flags, queues and engines as they
are (R370 to R372). -/
def Obligations.ObjectWrites : Prop :=
  (∀ (s v : State) (port : Port) (index : Fin 65536) (sub : Fin 256) (data : List Byte),
    let asked (i u : Nat) : Asked := { port := port, index := BitVec.ofNat 16 i, sub := BitVec.ofNat 8 u }
    PortFree s port → index.val ≠ 0x1F01 →
    (isCommand (BitVec.ofNat 16 index.val) (BitVec.ofNat 8 sub.val) = true → FirstWrite s index.val sub.val data) →
    objWrite port (BitVec.ofNat 16 index.val) (BitVec.ofNat 8 sub.val) data [] (writeTaken s port index.val sub.val data []) = (v, some .ok) →
    (∃ t, exec (.objectWrite port (BitVec.ofNat 16 index.val) (BitVec.ofNat 8 sub.val) data) s = .next t
      ∧ t.sent = v.sent ++ answered v (asked index.val sub.val) opAck .ok [0]
      ∧ SettledFrom (acknowledged v port index.val sub.val data .ok) t)
    ∧ (∃ t, exec (.writeLast port (BitVec.ofNat 16 index.val) (BitVec.ofNat 8 sub.val) 0 data) s = .next t
      ∧ t.sent = v.sent ++ answered v (asked index.val sub.val) opAck .ok [0]
      ∧ SettledFrom (acknowledged v port index.val sub.val data .ok) t))
  ∧ (∀ (s : State) (port : Port) (index : BitVec 16) (sub : BitVec 8) (data : List Byte) (st : Status),
    PortFree s port → isCommand index sub = true → s.lastCommand = some (index, sub, data, st) →
    ∃ t, exec (.objectWrite port index sub data) s = .next t
      ∧ t.sent = s.sent ++ answered (writeTaken s port index.toNat sub.toNat data []) { port := port, index := index, sub := sub }
          (if isSuccess st then opAck else opFail) st [st.code]
      ∧ SettledFrom { writeTaken s port index.toNat sub.toNat data [] with mailbox := t.mailbox, sent := t.sent } t)
  ∧ (∀ (s : State) (port : Port) (index : BitVec 16) (sub : BitVec 8) (seg : BitVec 5) (data : List Byte), PortFree s port →
    ∀ x ∈ [(Instr.objectRead port index sub seg, opRead, []), (Instr.writeMore port index sub seg data, opWriteMore, data)],
      let r : AgentReq := { port := port, op := x.2.1, index := index, sub := sub, seg := seg, data := x.2.2, aux := [] }
      ∃ t op st v, exec x.1 s = .next t ∧ t.sent = s.sent ++ answered (noteSubmit s r) { port := port, index := index, sub := sub, seg := seg } op st v
        ∧ t.mem = s.mem ∧ t.tickets = s.tickets ∧ t.rings = s.rings ∧ t.flags = s.flags ∧ t.queues = s.queues ∧ t.engines = s.engines)
  ∧ (∀ s : State, ∃ t, exec .segmentTimeout s = .next t ∧ t.openWrites = s.openWrites.tail ∧ t.sent = s.sent ∧ t.mem = s.mem
    ∧ t.tickets = s.tickets ∧ t.rings = s.rings ∧ t.flags = s.flags ∧ t.queues = s.queues ∧ t.engines = s.engines)

/-! ## Profile changes -/

/-- PREPARE and a write of the prepared fields send the profile to every unit that takes part and hold the agent until all have
acknowledged; COMMIT starts the switch of every unit; ABORT discards a prepared profile (R381 to R384). A COMMIT of Peak with
the wear budget spent is the one acceptance that R360 turns into Sustain, and stands apart.

The units of a change: each acknowledges PREPARE once, and the last one brings the phase PREPARED and frees the agent with
ACK; the timeout ends the change with ABORTED; after COMMIT each unit switches between descriptors, and the last one puts the
prepared profile in force, Sustain in place of a Peak that was refused (R360, R382, R384). RAIL_STEP moves the rail by at most 10 mV toward its target (R346). -/
def Obligations.Profiles : Prop :=
  (∀ (s : State) (port : Port) (word : BitVec 32),
    let w := word.toNat
    let j : Slot := Fin.ofNat 16 (w / 2 ^ 28)
    let id : BitVec 8 := BitVec.ofNat 8 (w / 2 ^ 20)
    PortFree s port →
    (∀ p : Profile, FirstWrite s 0x1F10 0 (wordBytes 4 word) → w / 128 % 2 ^ 13 = 0 → profileOf (w % 128) = some p →
      (id = 0 → p = Profile.reset) → s.slots[j].phase = .idle →
      ∃ t, exec (.prepare port word) s = .next t
        ∧ SettledFrom { modSlot (writeTaken s port 0x1F10 0 (wordBytes 4 word) []) j
              (fun r => { r with prepared := p, preparedId := id, unacked := changeUnits s }) with
            agentHeld := some { asked := { port := port, index := 0x1F10, sub := 0 }, slot := j, data := wordBytes 4 word } } t)
    ∧ (∀ (k : Slot) (value : BitVec 8) (p : Profile), s.slots[k].phase = .prepared → profileOf value.toNat = some p →
      (s.slots[k].preparedId = 0 → p = Profile.reset) →
      ∃ t, exec (.preparedFieldsWrite port k value) s = .next t
        ∧ SettledFrom { modSlot (writeTaken s port (0x1F20 + k.val) 1 [value] []) k
              (fun r => { r with prepared := p, unacked := changeUnits s }) with
            agentHeld := some { asked := { port := port, index := 0x1F20 + BitVec.ofNat 16 k.val, sub := 1 }, slot := k, data := [value] } } t)
    ∧ (FirstWrite s 0x1F11 0 (wordBytes 4 word) → w % 2 ^ 20 = 0 → s.slots[j].phase = .prepared → id = s.slots[j].preparedId →
      (s.slots[j].prepared.integrity ≠ s.slots[j].inForce.integrity ∨ s.slots[j].prepared.arrival ≠ s.slots[j].inForce.arrival →
        slotIdle s j = true) →
      ¬ (s.slots[j].prepared.power = .peak ∧ wearBudget ≤ s.pm.wear.toNat) →
      ∃ t, exec (.commit port word) s = .next t
        ∧ SettledFrom (acknowledged (modSlot (writeTaken s port 0x1F11 0 (wordBytes 4 word) []) j
            fun r => { r with phase := .committing, granted := false, lastStatus := .ok, unswitched := changeUnits s }) port 0x1F11 0 (wordBytes 4 word) .ok) t)
    ∧ (FirstWrite s 0x1F12 0 (wordBytes 4 word) → w % 2 ^ 20 = 0 → s.slots[j].phase = .prepared → id = s.slots[j].preparedId →
      ∃ t, exec (.abort port word) s = .next t
        ∧ SettledFrom (acknowledged (modSlot (writeTaken s port 0x1F12 0 (wordBytes 4 word) []) j
            fun r => { r with phase := .idle, lastStatus := .ok }) port 0x1F12 0 (wordBytes 4 word) .ok) t))
  ∧ ((∀ (s : State) (h : Held) (u : ModUnit), s.agentHeld = some h → u ∈ s.slots[h.slot].unacked →
    s.slots[h.slot].unacked.filter (· != u) ≠ [] →
    ∃ t, exec (.prepareAcknowledge u) s = .next t
      ∧ SettledFrom (modSlot s h.slot fun r => { r with unacked := s.slots[h.slot].unacked.filter (· != u) }) t)
  ∧ (∀ (s : State) (h : Held) (u : ModUnit), s.agentHeld = some h → s.agentQueue = [] → s.slots[h.slot].unacked = [u] →
    ∃ t, exec (.prepareAcknowledge u) s = .next t ∧ t.slots[h.slot].phase = .prepared ∧ t.slots[h.slot].unacked = []
      ∧ t.slots[h.slot].lastStatus = .ok ∧ t.agentHeld = none ∧ t.sent = s.sent ++ answered s h.asked opAck .ok [0])
  ∧ (∀ (s : State) (h : Held), s.agentHeld = some h → s.agentQueue = [] →
    ∃ t, exec .prepareTimeout s = .next t ∧ t.slots[h.slot].phase = .idle ∧ t.slots[h.slot].unacked = []
      ∧ t.slots[h.slot].lastStatus = .aborted ∧ t.agentHeld = none ∧ t.sent = s.sent ++ answered s h.asked opFail .aborted [0x0F])
  ∧ (∀ (s : State) (j : Slot) (u : ModUnit), s.power = .running → unitBetween s j u = true → s.slots[j].phase = .committing →
    u ∈ s.slots[j].unswitched →
    ∃ t, exec (.profileSwitch j u) s = .next t
      ∧ if s.slots[j].unswitched.erase u = [] then
          t.slots[j].phase = .idle ∧ t.slots[j].inForce = s.slots[j].coming ∧ t.slots[j].inForceId = s.slots[j].preparedId
        else t.slots[j].phase = .committing ∧ t.slots[j].inForce = s.slots[j].inForce
          ∧ t.slots[j].unswitched = s.slots[j].unswitched.erase u)
  ∧ (∀ s : State, s.power = .running →
    ∃ t, exec .railStep s = .next t
      ∧ (s.pm.rail ≤ s.pm.railTarget → t.pm.rail = min s.pm.railTarget (s.pm.rail + 10))
      ∧ (s.pm.railTarget ≤ s.pm.rail → t.pm.rail = max s.pm.railTarget (s.pm.rail - 10))
      ∧ SettledFrom { s with pm := { s.pm with rail := t.pm.rail } } t))

/-- RESET, STOP and the restart of the field controllers on a port that may write 1F01h: the answer goes out first, then the
module is held in reset, or stands stopped with its counts stored, or both controllers restart; STOP is accepted only with no
ticket in flight (R380). -/
def Obligations.ModuleCommands : Prop :=
  ∀ (s : State) (port : Port), PortFree s port → port.requester ≠ .tool →
    let ack (v : Byte) : List Sent := answered (writeTaken s port 0x1F01 0 [v] []) { port := port, index := 0x1F01, sub := 0 } opAck .ok [0]
    (FirstWrite s 0x1F01 0 [1] → ∃ t, exec (.reset port) s = .next t
      ∧ SettledFrom (enterReset (acknowledged (writeTaken s port 0x1F01 0 [1] []) port 0x1F01 0 [1] .ok)) t
      ∧ t.sent = s.sent ++ ack 1)
    ∧ (FirstWrite s 0x1F01 0 [2] → s.tickets = [] → ∃ t, exec (.stop port) s = .next t ∧ t.power = .stopped ∧ t.nv.stopped = true
      ∧ t.nv.wear = s.pm.wear ∧ t.nv.commits = s.commits ∧ t.sent = s.sent ++ ack 2)
    ∧ (FirstWrite s 0x1F01 0 [3] → ∃ t, exec (.fieldReset port) s = .next t
      ∧ SettledFrom (restartField (acknowledged (writeTaken s port 0x1F01 0 [3] []) port 0x1F01 0 [3] .ok)) t
      ∧ t.sent = s.sent ++ ack 3)

/-! ## Owners, firmware, measurements, libraries -/

/-- A claim of a resource that is NONE or already held by the same owner gives it to that owner, a release by the owner makes
it NONE where nothing keeps it, and either one against another owner fails with CONFLICT (R385 to R387).

A claim of a populated tier-2 range below the head region of which no other party owns any part gives the range, in a free
one of the 64 entries, and leaves the other entries; a release by the owner frees the entry; the ranges EXCLUDED are those of the
non-volatile store (R385 to R387).

A write of the software cause by the party that owns it drives or releases it; one by any other party fails with CONFLICT
(R387, R424). -/
def Obligations.OwnersAndAlerts : Prop :=
  (∀ (s : State) (port : Port) (request : BitVec 128),
    let bytes (op : Byte) : List Byte := overlay (wordBytes 16 request) 0 [op]
    let w (op : Byte) : State := writeTaken s port 0x7F00 0x10 (bytes op) []
    let shows (u : State) (st : Status) : State := { u with owners := { u.owners with claimStatus := st } }
    PortFree s port →
    (∀ r : ClaimReq, r = claimOf (bytes 1) → FirstWrite s 0x7F00 0x10 (bytes 1) → claimAllowed r = true → r.kind ≠ 4 →
      (holderOf s r = ownerNone ∨ holderOf s r = r.owner →
        ObjectWritten (exec (.claim port request) s) port 0x7F00 0x10 (bytes 1) .ok (shows (setHolder (w 1) r r.owner) .ok)
        ∧ holderOf (setHolder (w 1) r r.owner) r = r.owner)
      ∧ (holderOf s r ≠ ownerNone → holderOf s r ≠ r.owner →
        ObjectWritten (exec (.claim port request) s) port 0x7F00 0x10 (bytes 1) .conflict (shows (w 1) .conflict)))
    ∧ (∀ r : ClaimReq, r = claimOf (bytes 2) → FirstWrite s 0x7F00 0x10 (bytes 2) → claimAllowed r = true → r.kind ≠ 4 →
      (holderOf s r = r.owner → releaseBusy s r = false →
        ObjectWritten (exec (.release port request) s) port 0x7F00 0x10 (bytes 2) .ok (shows (setHolder (w 2) r ownerNone) .ok)
        ∧ holderOf (setHolder (w 2) r ownerNone) r = ownerNone)
      ∧ (holderOf s r = r.owner → releaseBusy s r = true →
        ObjectWritten (exec (.release port request) s) port 0x7F00 0x10 (bytes 2) .busy (shows (w 2) .busy))
      ∧ (holderOf s r ≠ r.owner →
        ObjectWritten (exec (.release port request) s) port 0x7F00 0x10 (bytes 2) .conflict (shows (w 2) .conflict))))
  ∧ (∀ (s : State) (port : Port) (request : BitVec 128),
    let bytes (op : Byte) : List Byte := overlay (wordBytes 16 request) 0 [op]
    let range (u : State) (i : Nat) : Nat × Nat × BitVec 8 := sparseGet (0, 0, 0) u.owners.ranges i
    let told (op : Byte) (o : BitVec 3) (st : Status) : List Sent :=
      answered (writeTaken s port 0x7F00 0x10 (bytes op) []) { port := port, index := 0x7F00, sub := 0x10 } o st [st.code]
    PortFree s port →
    (∀ r : ClaimReq, r = claimOf (bytes 1) → FirstWrite s 0x7F00 0x10 (bytes 1) → r.kind = 4 → claimAllowed r = true → r.count ≠ 0 →
      inTier2 (r.base * 0x200000) (r.count * 0x200000) = true → (r.base + r.count) * 0x200000 ≤ headBase →
      rangeFree s (r.base * 0x200000) (r.count * 0x200000) r.owner = true →
      (∀ p ∈ s.owners.ranges, p.2 ≠ (r.base, r.count, r.owner)) → (∃ i < 64, (range s i).2.1 = 0) → sparseWf (0, 0, 0) s.owners.ranges = true →
      ∃ t i, exec (.claim port request) s = .next t ∧ i < 64 ∧ (range s i).2.1 = 0 ∧ range t i = (r.base, r.count, r.owner)
        ∧ (∀ k, k ≠ i → range t k = range s k) ∧ t.owners.claimStatus = .ok
        ∧ t.sent = s.sent ++ told 1 opAck .ok ∧ t.owners.taps = s.owners.taps ∧ t.mem = s.mem)
    ∧ (∀ r : ClaimReq, r = claimOf (bytes 2) → FirstWrite s 0x7F00 0x10 (bytes 2) → r.kind = 4 → claimAllowed r = true → r.index < 64 →
      (range s r.index).2.1 ≠ 0 → sparseWf (0, 0, 0) s.owners.ranges = true →
      if (range s r.index).2.2 = r.owner then
        ∃ t, exec (.release port request) s = .next t ∧ (range t r.index).2.1 = 0 ∧ (∀ k, k ≠ r.index → range t k = range s k)
          ∧ t.owners.claimStatus = .ok ∧ t.sent = s.sent ++ told 2 opAck .ok
      else ∃ t, exec (.release port request) s = .next t ∧ t.owners = { s.owners with claimStatus := .conflict }
          ∧ t.sent = s.sent ++ told 2 opFail .conflict))
  ∧ (∀ (s : State) (port : Port) (value : Bool), PortFree s port →
    let bytes : List Byte := [if value then 1 else 0]
    let w : State := writeTaken s port 0x7F00 0x12 bytes []
    (partyOf port = some s.owners.alert →
      ObjectWritten (exec (.softwareAlert port value) s) port 0x7F00 0x12 bytes .ok { w with owners := { w.owners with software := value } })
    ∧ (partyOf port ≠ some s.owners.alert →
      ObjectWritten (exec (.softwareAlert port value) s) port 0x7F00 0x12 bytes .conflict w))

/-- The firmware commands, while no bundle is being verified: WRITE starts the verification of the bundle at UPDATE_SOURCE,
SELECT names the slot that is not running for the next boot, COMMIT_SVN raises the fused SVN to the running bundle's and never
lowers it. UPDATE_COMPLETE writes a bundle that verifies into the slot that is not running, and leaves both slots otherwise (R402, R405).

EXTEND folds 32 bytes into MR7 and no other register: SHAKE256 of the register followed by the value (R406). A nonce starts
a quote of the state as it stands, with QSEQ one higher, and QUOTE_READY delivers what was quoted with its signature behind
384 bytes (R408). -/
def Obligations.FirmwareAndMeasurements : Prop :=
  ((∀ (s : State) (port : Port), PortFree s port → s.security.updating = none →
    let w (v : Byte) : State := writeTaken s port 0x7000 7 [v] []
    (FirstWrite s 0x7000 7 [1] →
      ObjectWritten (exec (.updateWrite port) s) port 0x7000 7 [1] .ok
        { w 1 with security := { s.security with updating := some s.security.updateSource.toNat, status := 0x0B } })
    ∧ (FirstWrite s 0x7000 7 [2] →
      ObjectWritten (exec (.updateSelect port) s) port 0x7000 7 [2] .ok
        { w 2 with nv := { s.nv with bootB := !s.security.runningB }, security := { s.security with status := 0 } })
    ∧ (FirstWrite s 0x7000 7 [3] →
      ObjectWritten (exec (.commitSvn port) s) port 0x7000 7 [3] .ok
        { w 3 with security := { s.security with status := 0, fusedSvn := BitVec.ofNat 16 (max s.security.fusedSvn.toNat (runningSvn s)) } }))
  ∧ (∀ (s : State) (a : Nat), s.power = .running → s.security.updating = some a →
    let b := memBytes s a (bundleBytes (memBytes s a 256))
    let r := (readSpan s a b.length).1
    ∃ t, exec .updateComplete s = .next t
      ∧ if spanBad s a b.length = false ∧ bundleOk s b = true then
          SettledFrom { r with
            security := { s.security with updating := none, status := 0x00 }
            nv := if s.security.runningB = true then { r.nv with slotA := b, factoryA := false } else { r.nv with slotB := b } } t
        else SettledFrom { r with security := { s.security with updating := none, status := 0x10 } } t))
  ∧ ((∀ (s : State) (port : Port) (value : List Byte), PortFree s port → FirstWrite s 0x7000 0x0A value → value.length ≤ 32 →
    ObjectWritten (exec (.extend port value) s) port 0x7000 0x0A value .ok
      (let w := writeTaken s port 0x7000 0x0A value []
       { w with security := { w.security with mr := w.security.mr.set 7 (shake256 (w.security.mr[7] ++ fitBytes 32 value)) } }))
  ∧ (∀ (s : State) (port : Port) (nonce : List Byte), PortFree s port → FirstWrite s 0x7000 0x0B nonce → nonce.length ≤ 32 →
    s.security.quoting = none →
    ObjectWritten (exec (.quoteNonce port nonce) s) port 0x7000 0x0B nonce .ok
      { writeTaken s port 0x7000 0x0B nonce [] with
        nv := { s.nv with quotes := s.nv.quotes + 1 }
        security := { s.security with quoting := some (quoteHead s (s.nv.quotes + 1) nonce), quoteStatus := .busy } })
  ∧ (∀ (s : State) (h : List Byte), s.power = .running → s.security.quoting = some h →
    ∃ t, exec .quoteReady s = .next t
      ∧ SettledFrom { s with security := { s.security with quoting := none, quoteStatus := .ok, quote := h ++ fitBytes 17088 (Config.slhSign h) } } t)
  ∧ (∀ (s : State) (q : BitVec 32) (n : List Byte), (∀ m ∈ s.security.mr.toList, m.length = 32) → (quoteHead s q n).length = 384))

/-- A load of a bank that is neither ACTIVE, DRAINING nor LOADING starts; the other banks are refused with BUSY. When the
verifier has judged the image, one that is whole and signed makes its bank LOADED, any other EMPTY (R181 to R183).

A switch to a LOADED bank makes it ACTIVE for new CALLs. The bank left is DRAINING, and LOADED again with the library
epoch one higher once no context runs in it (R184). A switch to any other bank is refused. -/
def Obligations.RoutineLibrary : Prop :=
  ((∀ (s : State) (port : Port) (d : Die) (b : Bool), PortFree s port →
    let i := 0x3300 + d.val
    let data : List Byte := if b then [2] else [1]
    let o := exec (if b then .loadBankB port d else .loadBankA port d) s
    let w := writeTaken s port i 6 data []
    let st := (bankOf s.dies[d] b).state
    FirstWrite s i 6 data →
    (st = .empty ∨ st = .loaded →
      ObjectWritten o port i 6 data .ok (modDie w d fun r =>
        { setBank r b { bankOf r b with state := .loading } with loading := some (r.loadSource.toNat, b), cmdStatus := .busy }))
    ∧ (st = .active ∨ st = .draining ∨ st = .loading →
      ObjectWritten o port i 6 data .busy (modDie w d fun r => { r with cmdStatus := .busy })))
  ∧ (∀ (s : State) (d : Die) (a : Nat) (b : Bool), s.power = .running → s.dies[d].loading = some (a, b) →
    let img := memBytes s a (256 + memNat s (a + 8) 4 % 2 ^ 17 + 29792)
    ∃ t, exec (.libraryLoadComplete d) s = .next t ∧ t.dies[d].loading = none
      ∧ (if spanBad s a img.length = false ∧ imageOk (firmwareKeys s) img = true then
          bankOf t.dies[d] b = { state := .loaded, version := imageVersion img, code := imageCode img } ∧ t.dies[d].cmdStatus = .ok
            ∧ t.security.mr[3 + d.val] = shake256 (s.security.mr[3 + d.val] ++ fitBytes 32 (imageDigest img))
        else bankOf t.dies[d] b = {} ∧ t.dies[d].cmdStatus = .invalid ∧ t.security = s.security)
      ∧ bankOf t.dies[d] (!b) = bankOf s.dies[d] (!b) ∧ t.dies[d].activeB = s.dies[d].activeB
      ∧ (∀ e : Die, e ≠ d → t.dies[e] = s.dies[e]) ∧ t.rings = s.rings ∧ t.flags = s.flags ∧ t.engines = s.engines))
  ∧ (∀ (s : State) (port : Port) (d : Die), PortFree s port →
    let i := 0x3300 + d.val
    let r := s.dies[d]
    let b := !r.activeB
    FirstWrite s i 7 [1] →
    ((bankOf r b).state = .loaded →
      ∃ t, exec (.librarySwitch port d) s = .next t ∧ t.dies[d].activeB = b ∧ t.dies[d].cmdStatus = .ok
        ∧ bankOf t.dies[d] b = { bankOf r b with state := .active }
        ∧ (if (ctxsOf s d).any (fun p => p.2.bankB == r.activeB) = true then
            bankOf t.dies[d] r.activeB = { bankOf r r.activeB with state := .draining } ∧ t.dies[d].libEpoch = r.libEpoch
          else bankOf t.dies[d] r.activeB = { bankOf r r.activeB with state := .loaded } ∧ t.dies[d].libEpoch = r.libEpoch + 1)
        ∧ (∀ e : Die, e ≠ d → t.dies[e] = s.dies[e]) ∧ t.rings = s.rings ∧ t.flags = s.flags ∧ t.engines = s.engines)
    ∧ ((bankOf r b).state = .loading →
      ObjectWritten (exec (.librarySwitch port d) s) port i 7 [1] .busy (modDie (writeTaken s port i 7 [1] []) d fun q => { q with cmdStatus := .busy }))
    ∧ ((bankOf r b).state ≠ .loading → (bankOf r b).state ≠ .loaded →
      ObjectWritten (exec (.librarySwitch port d) s) port i 7 [1] .invalid (modDie (writeTaken s port i 7 [1] []) d fun q => { q with cmdStatus := .invalid })))

/-! ## Tables -/

/-- A write of a die's queue-end table is taken whole where every entry that changes is legal, meets no other enabled entry's
strips on its engine, and neither as it stands nor as written holds an entry or belongs to a slot with a ticket in flight on the
die; otherwise it fails and no entry changes (R149, R150). An entry that changes starts at its first strip.

A write of a die's flag table is taken whole unless an entry that changes belongs, as it stands or as written, to a slot with
a ticket in flight on the die; then it fails and no entry changes (R151, R165). A wait that a new VALUE satisfies is noted; a table
that holds what is written already stays as it is (R373). -/
def Obligations.QueueEndAndFlagTables : Prop :=
  (∀ (s : State) (port : Port) (d : Die) (data : List Byte), PortFree s port → data.length ≤ 32768 → sparseWf 0 s.queuePos = true →
    let i := 0x3210 + d.val
    let w := writeTaken s port i 0 data []
    let old (q : Nat) : BitVec 64 := qEntry s (shelfOf d) q
    let new (q : Nat) : BitVec 64 := dropBits (writtenEntry 64 8 data q) 24 0
    let busy (e : BitVec 64) : Prop := qeEnable e = true ∧ slotBusy s (qeSlot e) (some d) = true
    let legal (q : Nat) : Prop :=
      queueEndOk (new q) = true ∧ ¬ busy (old q) ∧ ¬ busy (new q) ∧ (∀ x ∈ entriesOf s (shelfOf d) q, x.freed = true)
        ∧ ∀ p < 4096, p ≠ q → stripsMeet (new q) (new p) = false
    ((∀ q < 4096, new q ≠ old q → legal q) →
      ∃ l pos, ObjectWritten (exec (.queueEndTableWrite port d data) s) port i 0 data .ok
          (renewEntries { w with queueEnds := l, queuePos := pos } [.queueEnd d] 4096)
        ∧ TableTakes l s.queueEnds (d.val * 4096) 4096 new
        ∧ (∀ q < 4096, sparseGet 0 pos (qKey (shelfOf d) q) = if new q = old q then sparseGet 0 s.queuePos (qKey (shelfOf d) q) else 0)
        ∧ ∀ k, k < d.val * 4096 ∨ d.val * 4096 + 4096 ≤ k → sparseGet 0 pos k = sparseGet 0 s.queuePos k)
    ∧ ((∃ q < 4096, new q ≠ old q ∧ ¬ legal q) →
      ObjectWritten (exec (.queueEndTableWrite port d data) s) port i 0 data .invalid w))
  ∧ (∀ (s : State) (port : Port) (d : Die) (data : List Byte), PortFree s port → data.length ≤ 16384 →
    let i := 0x3220 + d.val
    let w := writeTaken s port i 0 data []
    let old (f : Nat) : BitVec 32 := sparseGet 0 s.flags (d.val * 4096 + f)
    let new (f : Nat) : BitVec 32 := writtenEntry 32 4 data f
    let busy (e : BitVec 32) : Prop := feEnable e = true ∧ slotBusy s (feSlot e) (some d) = true
    ((∀ f < 4096, new f ≠ old f → ¬ busy (old f) ∧ ¬ busy (new f)) →
      ∃ l, ObjectWritten (exec (.flagTableWrite port d data) s) port i 0 data .ok
          (storedOf w (noteWaits (renewEntries { w with flags := l } [.flag d] 4096)) i 0)
        ∧ TableTakes l s.flags (d.val * 4096) 4096 new)
    ∧ ((∃ f < 4096, new f ≠ old f ∧ (busy (old f) ∨ busy (new f))) →
      ObjectWritten (exec (.flagTableWrite port d data) s) port i 0 data .invalid w))

/-- A write of the variant context table is taken whole where every entry written is unused or keeps the rules of R252, and no
ticket of the slot of a resident entry that changes is in flight; otherwise no entry changes (R252, R253).

A write of a slot's buffer table is taken whole where the slot has neither a ticket in flight nor a copy running, each
buffer lies in its bridge's range and no two meet; otherwise the table stays (R318). -/
def Obligations.VariantAndBufferTables : Prop :=
  (∀ (s : State) (port : Port) (data : List Byte), PortFree s port → data.length ≤ 16384 →
    let w := writeTaken s port 0x3120 1 data []
    let new (v : Nat) : BitVec 256 := writtenEntry 256 32 data v
    let busy (e : BitVec 256) : Prop := bitOf e 7 = true ∧ slotBusy s (variantSlot e) none = true
    let idle (v : Nat) : Prop := new v ≠ variantEntry s v → ¬ busy (variantEntry s v) ∧ ¬ busy (new v)
    let rules (v : Nat) : Prop := variantFields (new v) = new v ∧ bitsOf (new v) 24 16 = v
      ∧ bitsOf (new v) 55 32 + 7 < (s.slots[variantSlot (new v)]).scaleCount.toNat
      ∧ (bitOf (new v) 7 = true → 1 ≤ bitsOf (new v) 15 8 ∧ bitsOf (new v) 15 8 ≤ 32 ∧ bitsOf (new v) 127 64 % 4096 = 0
          ∧ bitsOf (new v) 159 128 % 256 = 0 ∧ inJobTier2 (bitsOf (new v) 127 64) (max 1 (bitsOf (new v) 159 128)) = true)
    ((∀ v < 512, (new v = 0 ∨ rules v) ∧ idle v) →
      ∃ l, ObjectWritten (exec (.variantTableWrite port data) s) port 0x3120 1 data .ok
          (renewEntries { w with variants := l } [.variant] 512)
        ∧ TableTakes l s.variants 0 512 new)
    ∧ ((∃ v < 512, (new v ≠ 0 ∧ ¬ rules v) ∨ ¬ idle v) →
      ObjectWritten (exec (.variantTableWrite port data) s) port 0x3120 1 data .invalid w))
  ∧ (∀ (s : State) (port : Port) (j : Slot) (data : List Byte), PortFree s port → data.length ≤ 16384 →
    let i := 0x6010 + j.val
    let w := writeTaken s port i 9 data []
    let new (v : Nat) : BitVec 256 := dropBits (dropBits (writtenEntry 256 32 data v) 174 169) 255 176
    let all := (List.range 512).map new
    let legal : Prop := slotBusy s j none = false ∧ s.slots[j].copy = none ∧ (∀ v < 512, bufferEntryOk (new v) = true)
      ∧ anyMeet (all.flatMap buffersOf) = false
    (legal → ∃ l, ObjectWritten (exec (.bufferTableWrite port j data) s) port i 9 data .ok { w with buffers := l }
        ∧ TableTakes l s.buffers (j.val * 512) 512 new)
    ∧ (¬ legal → ObjectWritten (exec (.bufferTableWrite port j data) s) port i 9 data .invalid w))

/-- The net-host table, on a port that may write it, is taken where no valid entry meets another, the head region or a range
of another owner; otherwise the table stays (R342, R379). The routing table is taken as written, its reserved bits apart, and what
waited for a port that no route leads to any more is dropped, unless the table holds what is written already (R265, R266, R373).

A base or a size of a ring is taken, each judged by itself, where it is one of R136 and the ring is free: no ticket of the slot
in flight on the die, or ring U empty and its ticket not in flight. Head and tail return to 0, and the completion ring's next SEQ to 1,
unless the value is the one already held; any other write fails and changes nothing (R136, R157, R165, R373). -/
def Obligations.FabricTablesAndRings : Prop :=
  (∀ (s : State) (port : Port) (data : List Byte), PortFree s port →
    (data.length ≤ 512 →
      let w := writeTaken s port 0x6020 1 data []
      let new (v : Nat) : BitVec 256 := dropBits (dropBits (dropBits (dropBits (writtenEntry 256 32 data v) 14 13) 31 20) 63 32) 255 192
      let live := ((List.range 16).map new).filter netValid
      let legal : Prop := rwmOk s port = true ∧ anyMeet (live.map fun e => (netBase e, 2 * netHalf e)) = false
        ∧ ∀ e ∈ live, netBase e % 4096 = 0 ∧ inTier2 (netBase e) (max 1 (2 * netHalf e)) = true ∧ netBase e + 2 * netHalf e ≤ headBase
            ∧ rangeFree s (netBase e) (2 * netHalf e) (BitVec.ofNat 8 (bitsOf e 19 16)) = true
      (legal → ∃ l, ObjectWritten (exec (.netHostTableWrite port data) s) port 0x6020 1 data .ok { w with netHosts := l }
          ∧ TableTakes l s.netHosts 0 16 new)
      ∧ (¬ legal → ObjectWritten (exec (.netHostTableWrite port data) s) port 0x6020 1 data .invalid w))
    ∧ (data.length ≤ 65536 →
      let w := writeTaken s port 0x5010 0 data []
      ∃ l, ObjectWritten (exec (.routingTableWrite port data) s) port 0x5010 0 data .ok
          (storedOf w (dropStranded (renewEntries { w with routes := l } ((List.finRange 8).map .routing) 8192)) 0x5010 0)
        ∧ TableTakes l s.routes 0 8192 fun m => dropBits (writtenEntry 64 8 data m) 62 32))
  ∧ (∀ (s : State) (port : Port) (d : Die) (value : BitVec 64), PortFree s port →
    let n := value.toNat % 2 ^ 32
    let baseOk : Prop := value.toNat % 4096 = 0 ∧ d.val * (2 * stackSpan) ≤ value.toNat ∧ value.toNat < (d.val + 1) * (2 * stackSpan)
    let sizeOk (urgent : Bool) : Prop := n = 0 ∨ (isPow2 n = true ∧ 16 ≤ n ∧ n ≤ if urgent = true then 256 else 65536)
    let based (r : Ring) : Ring := { base := value, size := r.size, head := 0, tail := 0 }
    let sized (r : Ring) : Ring := { base := r.base, size := BitVec.ofNat 32 n, head := 0, tail := 0 }
    (∀ j : Slot,
      let i := 0x3240 + 16 * d.val + j.val
      let ring (sub : BitVec 8) (get : RingsR → Ring) (put : Ring → RingsR → RingsR) : Prop :=
        let r := get (ringsOf s d j)
        let wb := writeTaken s port i sub.toNat (wordBytes 8 value) []
        let ws := writeTaken s port i (sub + 1).toNat (wordBytes 4 value) []
        (slotBusy s j (some d) = false ∧ baseOk →
          ObjectWritten (exec (.ringConfigWrite port d (some j) sub value) s) port i sub.toNat (wordBytes 8 value) .ok
            (storedOf wb (modRings wb d j (put (based r))) i sub.toNat))
        ∧ (¬ (slotBusy s j (some d) = false ∧ baseOk) →
          ObjectWritten (exec (.ringConfigWrite port d (some j) sub value) s) port i sub.toNat (wordBytes 8 value) .invalid wb)
        ∧ (slotBusy s j (some d) = false ∧ sizeOk false →
          ObjectWritten (exec (.ringConfigWrite port d (some j) (sub + 1) value) s) port i (sub + 1).toNat (wordBytes 4 value) .ok
            (storedOf ws (modRings ws d j (put (sized r))) i (sub + 1).toNat))
        ∧ (¬ (slotBusy s j (some d) = false ∧ sizeOk false) →
          ObjectWritten (exec (.ringConfigWrite port d (some j) (sub + 1) value) s) port i (sub + 1).toNat (wordBytes 4 value) .invalid ws)
      ring 1 (·.h) (fun g q => { q with h := g })
        ∧ ring 5 (·.x) (fun g q => { q with x := g, xParent := [] })
        ∧ ring 9 (·.c) (fun g q => { q with c := g, nextSeq := 1 }))
    ∧ (let i := 0x3200 + d.val
       let u := s.dies[d].u
       let free : Prop := ringEmpty u = true ∧ getTk s (Fin.ofNat 1024 (d.val * 256 + 255)) = none
       let wb := writeTaken s port i 4 (wordBytes 8 value) []
       let ws := writeTaken s port i 5 (wordBytes 4 value) []
       (free ∧ baseOk →
         ObjectWritten (exec (.ringConfigWrite port d none 4 value) s) port i 4 (wordBytes 8 value) .ok
           (storedOf wb (modDie wb d fun r => { r with u := based u }) i 4))
       ∧ (¬ (free ∧ baseOk) →
         ObjectWritten (exec (.ringConfigWrite port d none 4 value) s) port i 4 (wordBytes 8 value) .invalid wb)
       ∧ (free ∧ sizeOk true →
         ObjectWritten (exec (.ringConfigWrite port d none 5 value) s) port i 5 (wordBytes 4 value) .ok
           (storedOf ws (modDie ws d fun r => { r with u := sized u }) i 5))
       ∧ (¬ (free ∧ sizeOk true) →
         ObjectWritten (exec (.ringConfigWrite port d none 5 value) s) port i 5 (wordBytes 4 value) .invalid ws)))

/-! ## Settings -/

/-- The seed mixer's input takes any value (R107). The cap takes 0 or 500 to 2,690 watts (R355), a slot's initial pace 100 to 2,000
in steps of 20 while no ticket of the slot is in flight, and its job pace with it (R352, R364); any other value fails, and a value
already held changes nothing (R373). A clear zeroes the energies whose bits it names and no other (R365).

A write of the port enables takes each port whose bit it clears DOWN at once, starts the training of each whose bit it sets,
and leaves the others; what waited for a port that no route leads to any more is dropped (R261, R266, R289, R373).

A channel that no collective uses takes its job slot, role, number of members, own index, member list, backed member and
next CSEQ, each in its range, the list with one entry for each member; one in use, and any value out of range, fails (R270, R290).

The power manager's samples and counts each complete while the module runs, and leave the rings, the flags, the queue ends and the fabric
(R347, R349, R355 to R361).
That 8,192 and above are out of range for the backed member is the model's choice, log entry 62. -/
def Obligations.SettingsPortsAndChannels : Prop :=
  ((∀ (s : State) (port : Port) (x : BitVec 64), PortFree s port →
    ObjectWritten (exec (.mixerTestInput port x) s) port 0x3100 1 (wordBytes 8 x) .ok
      { writeTaken s port 0x3100 1 (wordBytes 8 x) [] with mixerInput := x })
  ∧ (∀ (s : State) (port : Port) (watts : BitVec 16), PortFree s port →
    let w := writeTaken s port 0x2000 5 (wordBytes 2 watts) []
    if watts = 0 ∨ (500 ≤ watts.toNat ∧ watts.toNat ≤ 2690) then
      ObjectWritten (exec (.powerCapWrite port watts) s) port 0x2000 5 (wordBytes 2 watts) .ok
        (storedOf w { w with pm := { s.pm with cap := watts, unmetSamples := 0, unmetRaised := false } } 0x2000 5)
    else ObjectWritten (exec (.powerCapWrite port watts) s) port 0x2000 5 (wordBytes 2 watts) .invalid w)
  ∧ (∀ (s : State) (port : Port) (j : Slot) (pace : BitVec 16), PortFree s port →
    let w := writeTaken s port (0x2010 + j.val) 3 (wordBytes 2 pace) []
    if slotBusy s j none = false ∧ 100 ≤ pace.toNat ∧ pace.toNat ≤ 2000 ∧ pace.toNat % 20 = 0 then
      ObjectWritten (exec (.initialPaceWrite port j pace) s) port (0x2010 + j.val) 3 (wordBytes 2 pace) .ok
        (storedOf w (modSlot w j fun r => { r with initialPace := pace, jobPace := pace }) (0x2010 + j.val) 3)
    else ObjectWritten (exec (.initialPaceWrite port j pace) s) port (0x2010 + j.val) 3 (wordBytes 2 pace) .invalid w)
  ∧ (∀ (s : State) (port : Port) (value : BitVec 32), PortFree s port → FirstWrite s 0x2080 0x13 (wordBytes 4 value) →
    ∃ slots,
      ObjectWritten (exec (.energyClear port value) s) port 0x2080 0x13 (wordBytes 4 value) .ok
        { writeTaken s port 0x2080 0x13 (wordBytes 4 value) [] with
          slots := slots
          pm := { s.pm with unattributed := if value.getLsbD 16 = true then 0 else s.pm.unattributed } }
      ∧ ∀ j : Slot, slots[j] = { s.slots[j] with energy := if value.getLsbD j.val = true then 0 else s.slots[j].energy }))
  ∧ (∀ (s : State) (port : Port) (value : BitVec 32), PortFree s port →
    let w := writeTaken s port 0x5000 3 (wordBytes 4 value) []
    ∃ ports,
      ObjectWritten (exec (.portEnableWrite port value) s) port 0x5000 3 (wordBytes 4 value) .ok
        (storedOf w (dropStranded { w with ports := ports, fabric := { s.fabric with portEnable := value } }) 0x5000 3)
      ∧ ∀ p : PortId,
          (s.fabric.portEnable.getLsbD p.val = true → value.getLsbD p.val = false → ports[p] = portDown s.ports[p] ∧ ports[p].state = 0)
          ∧ (s.fabric.portEnable.getLsbD p.val = false → value.getLsbD p.val = true → ports[p] = { portDown s.ports[p] with state := 1 })
          ∧ (s.fabric.portEnable.getLsbD p.val = value.getLsbD p.val → ports[p] = s.ports[p]))
  ∧ (∀ (s : State) (port : Port) (c : ChanId), PortFree s port →
    let i := 0x5100 + c.val
    let field (sub : BitVec 8) (data : List Byte) (ok : Prop) (f : ChanR → ChanR) : Prop :=
      let w := writeTaken s port i sub.toNat data []
      (channelBusy s c = false ∧ ok →
        ObjectWritten (exec (.channelConfigWrite port c sub data) s) port i sub.toNat data .ok (modChan w c f))
      ∧ (¬ (channelBusy s c = false ∧ ok) →
        ObjectWritten (exec (.channelConfigWrite port c sub data) s) port i sub.toNat data .invalid w)
    (∀ v : BitVec 8, field 1 [v] (v.toNat < 16) fun r => { r with slot := v.setWidth 4 })
    ∧ (∀ v : BitVec 8, field 2 [v] (v = 0 ∨ v = 1 ∨ v = 0xFF) fun r =>
        { r with role := if v = 0 then .member else if v = 1 then .backup else .disabled })
    ∧ (∀ v : BitVec 16, field 3 (wordBytes 2 v) (1 ≤ v.toNat ∧ v.toNat ≤ 8192) fun r => { r with members := v })
    ∧ (∀ v : BitVec 16, field 4 (wordBytes 2 v) (v.toNat < 8192 ∧ (v.toNat < s.chans[c].members.toNat ∨ s.chans[c].members = 0))
        fun r => { r with own := v })
    ∧ (∀ v : BitVec 16, field 6 (wordBytes 2 v) (v.toNat < 8192) fun r => { r with backed := v })
    ∧ (∀ v : BitVec 32, field 7 (wordBytes 4 v) True fun r => { r with nextCseq := v })
    ∧ (∀ data : List Byte,
        let w := writeTaken s port i 5 data []
        let whole : Prop := channelBusy s c = false ∧ data.length = 4 * s.chans[c].members.toNat
        (whole →
          ∃ l, ObjectWritten (exec (.channelConfigWrite port c 5 data) s) port i 5 data .ok { w with members := l }
            ∧ TableTakes l s.members (c.val * 8192) 8192 fun m => dropBits (dropBits (writtenEntry 32 4 data m) 30 29) 15 13)
        ∧ (¬ whole →
          ObjectWritten (exec (.channelConfigWrite port c 5 data) s) port i 5 data .invalid w)))
  ∧ (∀ (s : State) (e : Eng) (n : Nat) (milliCelsius : Int) (events : EnergyCounts) (use : List (Slot × SlotUse)), s.power = .running →
    ∀ c ∈ [Instr.paceMonitorSample e n, .capLoopSample events, .guardSample n, .heatLimitStep milliCelsius, .estimatorSlowLoop events n,
        .measurementLoop n, .wearCountTick, .wearStoreWrite, .energyAttribution n use],
      ∃ t, exec c s = .next t ∧ t.power = .running ∧ t.rings = s.rings ∧ t.flags = s.flags ∧ t.queues = s.queues ∧ t.fabric = s.fabric)

/-! ## Engines: retirement and repair -/

/-- A retire request for a physical row or column that is not retired is queued at the engine, once; an index above 519, one
already retired and a retired engine fail and change nothing (R54, R55).

The retirement of an engine takes effect between descriptors: one that stands so is retired at once, which empties its two
sets, keeps it retired over power cycles, and completes each descriptor issued to it with INVALID; another one waits for its
repair. The other engines, memory and the rings stay (R48 to R50, R55).

ENGINE_REPAIR of a quiet engine takes the request that waits longest: the row or column is retired in the engine and in its
repair map, the active set is emptied where the scan finds a double-bit error in it, and the shadow set is loaded anew where its
entry still stands and its words can be read, else emptied. A retirement that waits, or a request that would need an eighth spare, retires the engine
(R45, R47 to R50).

ROW_DIAGNOSTIC of a quiet engine with both sets empty and nothing issued to it is counted and done; a row of the chunk under
test whose outputs differ is asked to be retired (R312). -/
def Obligations.RetirementAndRepair : Prop :=
  (∀ (s : State) (port : Port) (e : Eng) (word : BitVec 16), PortFree s port → FirstWrite s (0x3000 + e.val) 0x20 (wordBytes 2 word) →
    let i := 0x3000 + e.val
    let w := writeTaken s port i 0x20 (wordBytes 2 word) []
    let column := word.getLsbD 15
    let n := word.toNat % 1024
    let x : Fin 520 := Fin.ofNat 520 n
    let r := s.engines[e]
    let legal : Prop := n ≤ 519 ∧ r.state ≠ .retired ∧ x ∉ (if column = true then r.retiredCols else r.retiredRows)
    (legal → ObjectWritten (exec (.retireRequest port e word) s) port i 0x20 (wordBytes 2 word) .ok
      (if (column, x) ∈ r.retireQ then w else modEng w e fun r => { r with retireQ := r.retireQ ++ [(column, x)] }))
    ∧ (¬ legal → ObjectWritten (exec (.retireRequest port e word) s) port i 0x20 (wordBytes 2 word) .invalid w))
  ∧ (∀ (s : State) (port : Port) (e : Eng), PortFree s port →
    let i := 0x3000 + e.val
    (FirstWrite s i 0x21 [1] → TicketsPlaced s →
      (s.engines[e].state ≠ .retired → engIdle s e = true →
        ∃ t, exec (.retireEngine port e true) s = .next t ∧ t.engines[e].state = .retired ∧ t.engines[e].active = none
          ∧ t.engines[e].shadow = none ∧ t.engines[e].load = none ∧ t.engines[e].run = none ∧ t.engines[e].retireQ = []
          ∧ t.nv.retired[e] = true ∧ (∀ f : Eng, f ≠ e → t.engines[f] = s.engines[f]) ∧ t.mem = s.mem ∧ t.rings = s.rings
          ∧ (∀ x k, getTk s x = some k → k.phase = .issued ∨ k.phase = .running → tkUnit s k = .engine e →
              ∃ q, getTk t x = some q ∧ q.phase = .ended ∧ .invalid ∈ q.causes)
          ∧ (∃ f, t.nv.failures.getLast? = some f ∧ f.kind = 0x03 ∧ f.unit = unitByte 1 e.val))
      ∧ (s.engines[e].state ≠ .retired → engIdle s e = false →
        ObjectWritten (exec (.retireEngine port e true) s) port i 0x21 [1] .ok
          (modEng (writeTaken s port i 0x21 [1] []) e fun r => { r with retireDue := true }))
      ∧ (s.engines[e].state = .retired →
        ObjectWritten (exec (.retireEngine port e true) s) port i 0x21 [1] .invalid (writeTaken s port i 0x21 [1] [])))
    ∧ (FirstWrite s i 0x21 [0] →
      ObjectWritten (exec (.retireEngine port e false) s) port i 0x21 [0] .ok (writeTaken s port i 0x21 [0] [])))
  ∧ (∀ (s : State) (e : Eng) (a b : Ecc × Fin 513), engQuiet s e = true → s.engines[e].retireDue = true →
    ∃ t, exec (.engineRepair e a b) s = .next t ∧ t.engines[e].state = .retired ∧ t.nv.retired[e] = true ∧ t.engines[e].retireDue = false
      ∧ (∀ f : Eng, f ≠ e → t.engines[f] = s.engines[f]) ∧ t.mem = s.mem ∧ t.rings = s.rings)
  ∧ (∀ (s : State) (e : Eng) (column : Bool) (n : Fin 520) (rest : List (Bool × Fin 520)) (a b : Ecc × Fin 513),
    engQuiet s e = true → s.engines[e].retireDue = false → s.engines[e].retireQ = (column, n) :: rest →
    let mine := if column = true then s.engines[e].retiredCols else s.engines[e].retiredRows
    (mine.length < 7 →
      ∃ t, exec (.engineRepair e a b) s = .next t
        ∧ t.engines[e].retiredCols = (if column = true then s.engines[e].retiredCols ++ [n] else s.engines[e].retiredCols)
        ∧ t.engines[e].retiredRows = (if column = true then s.engines[e].retiredRows else s.engines[e].retiredRows ++ [n])
        ∧ t.nv.cols[e] = (if column = true then s.nv.cols[e] ++ [n] else s.nv.cols[e])
        ∧ t.nv.rows[e] = (if column = true then s.nv.rows[e] else s.nv.rows[e] ++ [n])
        ∧ (a.1 = .uncorrectable → t.engines[e].active = none)
        ∧ (b.1 = .uncorrectable → t.engines[e].state ≠ .retired → t.engines[e].shadow = s.engines[e].shadow.bind fun x => (reloadTile s e x).2)
        ∧ (a.1 = .clean → b.1 = .clean → t.engines[e].retireQ = rest ∧ t.engines[e].active = s.engines[e].active
            ∧ t.engines[e].shadow = s.engines[e].shadow ∧ t.engines[e].state = s.engines[e].state ∧ t.tickets = s.tickets)
        ∧ (∀ f : Eng, f ≠ e → t.nv.rows[f] = s.nv.rows[f] ∧ t.nv.cols[f] = s.nv.cols[f]) ∧ t.mem = s.mem ∧ t.rings = s.rings)
    ∧ (7 ≤ mine.length →
      ∃ t, exec (.engineRepair e a b) s = .next t ∧ t.engines[e].state = .retired ∧ t.nv.retired[e] = true
        ∧ t.engines[e].retiredCols = s.engines[e].retiredCols ∧ t.engines[e].retiredRows = s.engines[e].retiredRows))
  ∧ (∀ (s : State) (e : Eng) (c : Nat) (rest : List Nat) (differing : Option (Fin 520)),
    s.engines[e].diagnostics = c :: rest → engQuiet s e = true → s.engines[e].active = none → s.engines[e].shadow = none →
    heldBy s (.engine e) = 0 →
    let u := modEng { s with integrity := { s.integrity with diagnostics := countUp s.integrity.diagnostics } } e
      fun r => { r with diagnostics := rest }
    ∃ t, exec (.rowDiagnostic e differing) s = .next t
      ∧ match differing with
        | none => SettledFrom u t
        | some n =>
          if n.val ∈ chunkRows s.engines[e] c ∧ n ∉ s.engines[e].retiredRows ∧ (false, n) ∉ s.engines[e].retireQ then
            SettledFrom (modEng u e fun r => { r with retireQ := r.retireQ ++ [(false, n)] }) t
          else SettledFrom u t)

/-! ## Restores -/

/-- RESTORE is refused with BUSY while the slot has a ticket in flight, a copy running or a restore under way. Else the header
is read, from another module by a READ, and judged before anything is written: a wrong one leaves the slot as it was with INVALID, steps that
differ without the override with STREAM_SKEW, and a good one makes the slot RESTORING (R106, R337 to R339). What is read of the
source passes tap 62h (R298).

The end of a restore: a poisoned payload ends it with ECC_UNCORR and a payload whose check value is another with CHECKVAL,
both in RESTORE_FAILED; otherwise the slot runs at the header's data step, seed and step counters, final there, with no copy due, nothing
in doubt, and the override spent where the steps differed (R106, R337, R338). An unanswered source ends it with TIMEOUT. Other slots stay.

A slot abort raises the slot's epoch by one, leaves it RESTORE_FAILED with no copy and no restore, leaves no set of the
slot OPEN, and completes every ticket of the slot in flight (R336). Other slots stay. -/
def Obligations.RestoresAndAborts : Prop :=
  (∀ (s : State) (port : Port) (j : Slot) (peer : List Byte), PortFree s port → FirstWrite s (0x6010 + j.val) 0x16 [1] →
    let i := 0x6010 + j.val
    let w := writeTaken s port i 0x16 [1] peer
    let r := s.slots[j]
    let o := exec (.restoreCommand port j peer) s
    let a := r.restoreBase.toNat
    let own := restoreOwn s j
    let h := if own = true then (if spanBad s a 256 = true then [] else memBytes s a 256) else peer
    let run := s.nextInst
    let read : State := if own = true then tapRestoreBurst (readSpan w a 256).1 (globalOf s a) (memBytes s a 256) (spanBad s a 256)
      else tapRestoreBurst (closeReads (askHeader w j) run) (r.restoreSource.toNat * localSize + a) peer false
    let idle : Prop := r.slotState ≠ .restoring ∧ slotBusy s j none = false ∧ r.copy = none
    (¬ idle → ObjectWritten o port i 0x16 [1] .busy (modSlot w j fun r => { r with restoreStatus := .busy }))
    ∧ (idle → own = false → peer = [] →
      ObjectWritten o port i 0x16 [1] .ok (modSlot (askHeader w j) j fun q =>
        { q with slotState := .restoring, restore := none, headerAsked := some (run, r.slotState) }))
    ∧ (idle → (own = true ∨ peer ≠ []) →
      (headerOk s j h = false →
        ObjectWritten o port i 0x16 [1] .ok (modSlot read j fun r => { r with restoreStatus := .invalid }))
      ∧ (headerOk s j h = true → fieldNat h 12 4 ≠ fieldNat h 24 4 → r.skew = false →
        ObjectWritten o port i 0x16 [1] .ok (modSlot read j fun r => { r with restoreStatus := .streamSkew }))
      ∧ (headerOk s j h = true → fieldNat h 12 4 = fieldNat h 24 4 ∨ r.skew = true →
        ∃ q : RestoreRun, q.header = h ∧ q.own = own ∧ q.base = a ∧ q.source = r.restoreSource.toNat ∧ q.dataStep.toNat = fieldNat h 12 4 ∧ q.streamStep.toNat = fieldNat h 24 4
          ∧ q.seed.toNat = fieldNat h 16 8 ∧ q.check.toNat = fieldNat h 48 4 ∧ q.run = (if own = true then 0 else run) ∧ q.got = []
          ∧ ObjectWritten o port i 0x16 [1] .ok
              (let t := modSlot read j fun r => { r with slotState := .restoring, restoreStatus := .ok, restore := some q }
               if own = true then t else askPayload t j))))
  ∧ ((∀ (s : State) (j : Slot) (q : RestoreRun) (peer : List (Nat × Byte)) (poisoned : Bool),
    s.power = .running → s.slots[j].slotState = .restoring → s.slots[j].restore = some q →
    let l := payloadBursts s q (payloadBytes s j) peer
    let bad : Prop := (q.own = false ∧ poisoned = true) ∨ ∃ x ∈ l, x.2 = true
    ∃ t, exec (.restoreComplete j peer poisoned) s = .next t ∧ t.slots[j].restore = none
      ∧ (bad → t.slots[j].slotState = .restoreFailed ∧ t.slots[j].restoreStatus = .eccUncorr ∧ t.slots[j].dataStep = s.slots[j].dataStep)
      ∧ (¬ bad → foldBursts l ≠ q.check → t.slots[j].slotState = .restoreFailed ∧ t.slots[j].restoreStatus = .checkval
          ∧ t.slots[j].dataStep = s.slots[j].dataStep)
      ∧ (¬ bad → foldBursts l = q.check → t.slots[j].slotState = .running ∧ t.slots[j].restoreStatus = .ok
          ∧ t.slots[j].seed = q.seed ∧ t.slots[j].dataStep = q.dataStep ∧ t.slots[j].streamStep = q.dataStep
          ∧ t.slots[j].finalStep = q.dataStep ∧ t.slots[j].mirrorDue = none ∧ t.slots[j].rollback = false ∧ t.slots[j].suspect = false
          ∧ t.slots[j].skew = (if q.dataStep = q.streamStep then s.slots[j].skew else false)
          ∧ t.slots[j].commitBase = feValue (flagEntry t 0 s.slots[j].commitFlag)
          ∧ (∃ f, t.nv.failures.getLast? = some f ∧ f.kind = 0x0E ∧ f.slot = BitVec.ofNat 4 j.val))
      ∧ (∀ k : Slot, k ≠ j → t.slots[k] = { s.slots[k] with ceiling := t.slots[k].ceiling }) ∧ t.rings = s.rings ∧ t.queues = s.queues)
  ∧ (∀ (s : State) (j : Slot), s.power = .running → s.slots[j].slotState = .restoring → (∀ q, s.slots[j].restore = some q → q.own = false) →
    ∃ t, exec (.restoreReadTimeout j) s = .next t
      ∧ SettledFrom (modSlot (dropWaiting s (readsOf s.slots[j])) j fun r =>
          { r with slotState := .restoreFailed, restoreStatus := .timeout, restore := none, headerAsked := none }) t))
  ∧ (∀ (s : State) (port : Port) (j : Slot), PortFree s port → FirstWrite s (0x6010 + j.val) 0x18 [1] →
    ∃ t, exec (.slotAbort port j) s = .next t ∧ t.slots[j].epoch = s.slots[j].epoch + 1 ∧ t.slots[j].slotState = .restoreFailed
      ∧ t.slots[j].copy = none ∧ t.slots[j].restore = none
      ∧ (∀ (e : Eng) (m : Fin 16), (accSet t e m).state = .opened → (accSet t e m).slot ≠ j)
      ∧ (∀ k : Slot, k ≠ j → t.slots[k] = { s.slots[k] with ceiling := t.slots[k].ceiling })
      ∧ (s.isolated = [] → anyArmed s = false → TicketsPlaced s →
          ∀ x k, getTk s x = some k → dSlot k.desc = j → ∃ q, getTk t x = some q ∧ q.phase = .completed))

/-! ## The field network -/

/-- A HEARTBEAT and an ALARM go out on each bus whose controller sends, under the next number of their own FUNC, 16 bytes long
with the module ID, the module state, the kind and number, and the flags; an ALARM that has gone out is due no longer (R374).

What a module hears and misses: a frame ends its bus's silence; one that carries another VCID or SDT does no more; its own node's
puts that controller in listen-only mode as a duplicate; another's HEARTBEAT sets the node's presence bit on the manager, and
clears manager lost on a worker when it is node 0's. Three silent intervals clear the presence bit, or set manager lost. A
controller's trouble shows in its bus state or is counted, and its recovery ends it (R368, R375, R377, R378, R391).

The field relay: a GO on the manager sends the request to its node on its bus and waits; the answer that matches, or else
the timeout, ends the wait, with OK and the response's data or with TIMEOUT. On a worker GO ends at once with INVALID. After a
boot fault the registers are kept and nothing is sent (R397, R400, R438). -/
def Obligations.FieldFrames : Prop :=
  (∀ s : State, s.power = .running →
    let frames (func : BitVec 5) (data : List Byte) : List Sent :=
      (if busSends s .fbA = true then [Sent.canFrame (ownCarrier s .fbA) func s.straps.node 0 data] else [])
        ++ (if busSends s .fbB = true then [Sent.canFrame (ownCarrier s .fbB) func s.straps.node 0 data] else [])
    let flags := bnat s.field.managerLost + 2 * bnat s.straps.error + 4 * bnat s.field.dupA + 8 * bnat s.field.dupB
    let beat (kind number : Nat) (seq : BitVec 16) : List Byte :=
      wordBytes 2 s.fabric.moduleId ++ leBytes 1 (moduleState s) ++ leBytes 1 kind ++ leBytes 4 number ++ wordBytes 2 seq
        ++ leBytes 2 flags ++ leBytes 4 0
    (∃ t, exec .heartbeat s = .next t
      ∧ SettledFrom { s with
          field := { s.field with heartbeatSeq := s.field.heartbeatSeq + 1 }
          sent := s.sent ++ frames 0x0C (beat 0 s.generation.toNat (s.field.heartbeatSeq + 1)) } t)
    ∧ (s.field.alarmDue = true → ∃ t, exec .alarm s = .next t ∧ t.field.alarmDue = false
      ∧ SettledFrom { s with
          field := { s.field with alarmSeq := s.field.alarmSeq + 1, alarmDue := false }
          sent := s.sent ++ frames 0x00 (beat (newestFailure s).1 (newestFailure s).2 (s.field.alarmSeq + 1)) } t)
    ∧ ∀ (kind number : Nat) (seq : BitVec 16), (beat kind number seq).length = 16)
  ∧ ((∀ (s : State) (frame : BeatFrame) (node : BitVec 6), s.power = .running → busState s frame.carrier.bus ≠ 2 →
    let b := frame.carrier.bus
    let heard : State := if busState s b = 4 then setBus s b 0 else s
    ∃ t, exec (.heartbeatReceived frame node) s = .next t
      ∧ (frame.carrier ≠ ownCarrier s b → SettledFrom heard t)
      ∧ (frame.carrier = ownCarrier s b →
        (node = s.straps.node → SettledFrom (duplicate s b) t ∧ busState t b = 3)
        ∧ (node ≠ s.straps.node → frame.alarm = true → SettledFrom heard t)
        ∧ (node ≠ s.straps.node → frame.alarm = false → s.straps.manager = true →
            SettledFrom { heard with field := { heard.field with presence := t.field.presence } } t
              ∧ ∀ n : Nat, t.field.presence.getLsbD n = (decide (n = node.toNat) || s.field.presence.getLsbD n))
        ∧ (node ≠ s.straps.node → frame.alarm = false → isWorker s = true →
            SettledFrom { heard with field := { heard.field with managerLost := heard.field.managerLost && node != 0 } } t)))
  ∧ (∀ s : State, s.power = .running → isWorker s = true →
      ∃ t, exec .managerLost s = .next t ∧ SettledFrom { s with field := { s.field with managerLost := true } } t)
  ∧ (∀ (s : State) (node : Fin 64), s.power = .running → s.straps.manager = true →
      ∃ t, exec (.workerPresenceExpiry node) s = .next t ∧ SettledFrom { s with field := { s.field with presence := t.field.presence } } t
        ∧ ∀ n : Nat, t.field.presence.getLsbD n = (decide (n ≠ node.val) && s.field.presence.getLsbD n))
  ∧ (∀ (s : State) (b : Bus) (what : BusTrouble), s.power = .running →
      let x := busState s b
      ∃ t, exec (.busSilent b what) s = .next t
        ∧ SettledFrom (match what with
          | .silent => if x = 0 then setBus s b 4 else s
          | .errorPassive => if x = 0 ∨ x = 4 then setBus s b 1 else s
          | .busOff => if x = 3 then s else setBus s b 2
          | .errorFrame => { s with field := { s.field with
              errorsA := if b = .fbA then countUp s.field.errorsA else s.field.errorsA
              errorsB := if b = .fbB then countUp s.field.errorsB else s.field.errorsB } }) t)
  ∧ (∀ (s : State) (b : Bus), s.power = .running → busState s b ≠ 3 →
      ∃ t, exec (.busOffRecovery b) s = .next t ∧ SettledFrom (setBus s b 0) t))
  ∧ ((∀ (s : State) (cmd : BitVec 64) (data : List Byte), s.power = .running → s.mailbox.linkUp = true → s.field.frWaiting = false →
    let req := overlay s.field.frReq 0 data
    ∃ t, exec (.fieldRelay cmd data) s = .next t
      ∧ (cmd.getLsbD 63 = false → SettledFrom { s with field := { s.field with frCmd := cmd, frReq := req } } t)
      ∧ (cmd.getLsbD 63 = true → s.straps.manager = false →
          SettledFrom { s with field := { s.field with frCmd := cmd, frReq := req, frStatus := relayStatus 0 0 .invalid } } t)
      ∧ (cmd.getLsbD 63 = true → s.straps.manager = true →
          SettledFrom { s with
            field := { s.field with frCmd := cmd, frReq := req, frStatus := 0, frWaiting := true }
            sent := s.sent ++ (if busSends s (relayBus cmd) = true then
              [Sent.canFrame (ownCarrier s (relayBus cmd)) 0x04 (relayNode cmd) (relayAccept cmd) (fitBytes (relayLength cmd) req)]
              else []) } t))
  ∧ (∀ (s : State) (cmd : BitVec 64) (data : List Byte), s.power = .bootFault false → s.mailbox.linkUp = true → s.field.frWaiting = false →
    ∃ t, exec (.fieldRelay cmd data) s = .next t
      ∧ SettledFrom { s with field := { s.field with frCmd := cmd, frReq := overlay s.field.frReq 0 data } } t)
  ∧ (∀ (s : State) (frame : AnswerFrame) (node : BitVec 6) (accept : BitVec 32) (data : List Byte),
    s.power = .running → busState s frame.carrier.bus ≠ 2 →
    let b := frame.carrier.bus
    let heard : State := if busState s b = 4 then setBus s b 0 else s
    ∃ t, exec (.response frame node accept data) s = .next t
      ∧ (frame.carrier ≠ ownCarrier s b → SettledFrom heard t)
      ∧ (frame.carrier = ownCarrier s b →
        (node = s.straps.node → SettledFrom (duplicate s b) t)
        ∧ (node ≠ s.straps.node → frame.tool = false → relayMatches s b node accept = true →
            SettledFrom { heard with field := { heard.field with
              frWaiting := false, frResp := data, frStatus := relayStatus data.length accept .ok } } t)
        ∧ (node ≠ s.straps.node → frame.tool = true ∨ relayMatches s b node accept = false → SettledFrom heard t)))
  ∧ (∀ s : State, s.field.frWaiting = true →
    ∃ t, exec .relayTimeout s = .next t
      ∧ SettledFrom { s with field := { s.field with frWaiting := false, frStatus := relayStatus 0 0 .timeout } } t))

/-! ## The head die -/

/-- A head-die write of whole bursts to its own module's populated, aligned range, none of them held by a copy or written by one that
still waits: each burst of a stack that has not tripped holds the data and no poison, every other byte reads as before, and the COMPLETION says OK, or
ECC_UNCORR where a stack has tripped. The rings, flags, queues and tables stay (R211, R222, R393, R394). Bursts that must wait stay
as they are, and the write waits with them, its answer not yet sent (R329).

A masked head-die write changes the bytes whose mask bit is set and no others; a burst that is poisoned, that holds an
uncorrectable error, or whose stack has tripped keeps its bytes, is poisoned but for the last, and the COMPLETION then says
ECC_UNCORR (R212, R216, R217, R393, R394).

A head-die read is answered with one DATA for each burst, in order: a burst that its home delivers with OK and its
bytes, one that is poisoned, found uncorrectable, which poisons it, or lost with ECC_UNCORR. Memory stays. An address of another module or an unpopulated one is
answered with INVALID and zeros (R393, R394). -/
def Obligations.HeadDieMemory : Prop :=
  (∀ (s : State) (tag : BitVec 10) (addr : BitVec 56) (data : List Byte), HeadServed s →
    let n := data.length / 256
    let a := globalLocal addr.toNat
    let lost (i : Nat) : Bool := burstTripped s (a / 256 + i)
    data.length = 256 * n → 1 ≤ n → n ≤ 256 → headRangeOk s addr data.length true = true →
    ((∀ i < n, headWaits s s.headQueue (a / 256 + i) = false) → s.memWf = true →
    ∃ t, exec (.mainbandWrite tag addr data) s = .next t ∧ t.memWf = true
      ∧ (∀ i < data.length, memByte t (a + i) = if lost (i / 256) = true then memByte s (a + i) else data.getD i 0)
      ∧ (∀ x, x < a ∨ a + data.length ≤ x → memByte t x = memByte s x)
      ∧ (∀ i < n, lost i = false → isPoison t (a / 256 + i) = false)
      ∧ t.sent = s.sent ++ [.completion tag (if (List.range n).any lost = true then .eccUncorr else .ok) none]
      ∧ t.rings = s.rings ∧ t.flags = s.flags ∧ t.queues = s.queues ∧ t.queueEnds = s.queueEnds ∧ t.engines = s.engines)
    ∧ ((∃ i < n, headWaits s s.headQueue (a / 256 + i) = true) → s.memWf = true →
    ∃ t l bad, exec (.mainbandWrite tag addr data) s = .next t ∧ t.sent = s.sent ∧ t.headQueue = s.headQueue ++ [.write tag l bad]
      ∧ l.map (·.1) = ((List.range n).map (a / 256 + ·)).filter (headWaits s s.headQueue)
      ∧ (∀ i < data.length, headWaits s s.headQueue (a / 256 + i / 256) = true → memByte t (a + i) = memByte s (a + i))
      ∧ ∀ x, x < a ∨ a + data.length ≤ x → memByte t x = memByte s x))
  ∧ (∀ (s : State) (tag : BitVec 10) (addr : BitVec 56) (data : List Byte) (mask : List Bool), HeadServed s →
    let n := data.length / 256
    let a := globalLocal addr.toNat
    let kept (i : Nat) : Bool := burstBad s (a / 256 + i)
    let found (b : Nat) : Prop := ∃ i < n, b = a / 256 + i ∧ kept i = true ∧ burstTripped s b = false
    data.length = 256 * n → 1 ≤ n → n ≤ 256 → mask.length = data.length → headRangeOk s addr data.length true = true →
    (∀ i < n, headWaits s s.headQueue (a / 256 + i) = false) → s.memWf = true →
    ∃ t, exec (.mainbandWriteMasked tag addr data mask) s = .next t ∧ t.memWf = true
      ∧ (∀ i < data.length, memByte t (a + i) = if mask.getD i false = true ∧ kept (i / 256) = false then data.getD i 0 else memByte s (a + i))
      ∧ (∀ x, x < a ∨ a + data.length ≤ x → memByte t x = memByte s x)
      ∧ (∀ b, isPoison t b = true ↔ isPoison s b = true ∨ found b)
      ∧ t.sent = s.sent ++ [.completion tag (if (List.range n).any kept = true then .eccUncorr else .ok) none]
      ∧ t.rings = s.rings ∧ t.flags = s.flags ∧ t.queues = s.queues ∧ t.queueEnds = s.queueEnds ∧ t.engines = s.engines)
  ∧ (∀ (s : State) (tag : BitVec 10) (addr : BitVec 56) (bursts : BitVec 8), HeadServed s →
    let n := bursts.toNat + 1
    let b := globalLocal addr.toNat / 256
    let bad (i : Nat) : Bool := burstBad s (b + i)
    let found (x : Nat) : Prop := ∃ i < n, x = b + i ∧ bad i = true ∧ burstTripped s x = false
    ∃ (t : State) (got : Nat → List Byte), exec (.mainbandRead tag addr bursts) s = .next t ∧ t.mem = s.mem
      ∧ (headRangeOk s addr (256 * bursts.toNat + 1) false = true →
          t.sent = s.sent ++ (List.range n).map (fun i => Sent.data tag i (if bad i = true then .eccUncorr else .ok) (got i))
          ∧ (∀ i < n, (got i).length = 256 ∧ (bad i = false → got i = burstBytes s (b + i)))
          ∧ ∀ x, isPoison t x = true ↔ isPoison s x = true ∨ found x)
      ∧ (headRangeOk s addr (256 * bursts.toNat + 1) false = false →
          t.poison = s.poison ∧ t.sent = s.sent ++ (List.range n).map fun i => Sent.data tag i .invalid (List.replicate 256 0)))

/-- A doorbell on ring H, C or U of a served head die, behind no write or atomic that still waits, moves the tail, or the consumed index, where the ring is configured and
the index stays inside R137 and R138; a refused one changes nothing and completes with INVALID. A ring whose indices lie
inside it takes a new tail only where that keeps every slot that still waits, and never fills. Behind a write or an atomic that
waits, the doorbell waits too (R136 to R138, R395, R396).

Writes of the event ring's registers while the link is up and the module runs: EV_HEAD takes the value, and EVENT_PENDING is sent where
that makes an empty ring non-empty; a base in the head
region, 4 KiB aligned, and a size that is 0 or a power of two from 16 to 65,536 are taken and set head and tail to 0. The link's
going down and its retraining change nothing else (R392, R397, R399).

A doorbell's header and word spell its command, and RING 11b none; a register write at an offset spells the command of its row, OBJ_CMD
with GO the request of its fields, and what only stores is read back (R393, R395, R397). -/
def Obligations.DoorbellsAndEvents : Prop :=
  (∀ (s : State) (tag : BitVec 10) (d : Die) (j : Slot) (v : BitVec 16), HeadServed s →
    let done (st : Status) (u : State) : State := { u with sent := s.sent ++ [.completion tag st none] }
    let r := ringsOf s d j
    let u := s.dies[d].u
    let waits (x : Ring) : Nat := (x.tail.toNat + x.size.toNat - x.head.toNat) % x.size.toNat
    let bells (b : BellRing) (k : Slot) : State := { s with headQueue := s.headQueue ++ [.bell tag b d k v] }
    (s.headQueue ≠ [] →
      (∃ t, exec (.doorbellH tag d j v) s = .next t ∧ SettledFrom (bells .h j) t)
      ∧ (∃ t, exec (.doorbellC tag d j v) s = .next t ∧ SettledFrom (bells .c j) t)
      ∧ ∃ t, exec (.doorbellU tag d v) s = .next t ∧ SettledFrom (bells .u 0) t)
    ∧ (s.headQueue = [] →
    (∃ t, exec (.doorbellH tag d j v) s = .next t
      ∧ if r.h.size ≠ 0 ∧ r.c.size ≠ 0 ∧ tailOk r.h v.toNat = true then
          SettledFrom (done .ok (modRings s d j fun q => { q with h := { q.h with tail := v } })) t
        else SettledFrom (done .invalid s) t)
    ∧ (∃ t, exec (.doorbellC tag d j v) s = .next t
      ∧ if r.c.size ≠ 0 ∧ headOk r.c v.toNat = true then
          SettledFrom (done .ok (modRings s d j fun q => { q with c := { q.c with head := v } })) t
        else SettledFrom (done .invalid s) t)
    ∧ (∃ t, exec (.doorbellU tag d v) s = .next t
      ∧ if u.size ≠ 0 ∧ tailOk u v.toNat = true then
          SettledFrom (done .ok (modDie s d fun q => { q with u := { q.u with tail := v } })) t
        else SettledFrom (done .invalid s) t))
    ∧ (∀ x : Ring, x.head.toNat < x.size.toNat → x.tail.toNat < x.size.toNat → tailOk x v.toNat = true →
        v.toNat < x.size.toNat ∧ waits x ≤ waits { x with tail := v } ∧ waits { x with tail := v } < x.size.toNat))
  ∧ ((∀ (s : State) (v : BitVec 64), s.mailbox.linkUp = true → s.power = .running →
    let m := s.mailbox
    (∃ t, exec (.evHeadWrite v) s = .next t ∧ SettledFrom { s with
        mailbox := { m with evHead := v }
        sent := if m.evSize ≠ 0 ∧ m.evHead = m.evTail ∧ v ≠ m.evTail then s.sent ++ [.eventPending] else s.sent } t)
    ∧ (v.toNat % 4096 = 0 → headBase ≤ v.toNat → v.toNat < tier2End →
        ∃ t, exec (.evRingConfigWrite false v) s = .next t
          ∧ SettledFrom { s with mailbox := { s.mailbox with evBase := v, evHead := 0, evTail := 0 } } t)
    ∧ (v = 0 ∨ (isPow2 v.toNat = true ∧ 16 ≤ v.toNat ∧ v.toNat ≤ 65536) →
        ∃ t, exec (.evRingConfigWrite true v) s = .next t
          ∧ SettledFrom { s with mailbox := { s.mailbox with evSize := v, evHead := 0, evTail := 0 } } t))
  ∧ (∀ s : State, ∃ t, exec .ucieLinkDown s = .next t ∧ SettledFrom { s with mailbox := { s.mailbox with linkUp := false } } t)
  ∧ (∀ s : State, ∃ t, exec .ucieLinkRetrained s = .next t ∧ SettledFrom { s with mailbox := { s.mailbox with linkUp := true } } t))
  ∧ (∀ (tag : BitVec 10) (d : Die) (j : Slot) (v : BitVec 16) (rest : List Byte),
    let header (ring : Nat) : List Byte := leBytes 2 5 ++ leBytes 2 tag.toNat ++ leBytes 4 0
      ++ leBytes 8 (ring * 2 ^ 30 + d.val * 2 ^ 28 + j.val * 2 ^ 24 + v.toNat)
    headCommand (header 0) rest = some (.doorbellH tag d j v) ∧ headCommand (header 1) rest = some (.doorbellC tag d j v)
      ∧ headCommand (header 2) rest = some (.doorbellU tag d v) ∧ headCommand (header 3) rest = none)
  ∧ (∀ (s : State) (v : BitVec 64) (index : BitVec 16) (sub : BitVec 8) (seg : BitVec 5) (n : Nat), n ≤ 2048 →
    let go (op : Nat) : BitVec 64 := BitVec.ofNat 64 (2 ^ 63 + n * 2 ^ 32 + index.toNat * 2 ^ 16 + sub.toNat * 2 ^ 8 + op * 2 ^ 5 + seg.toNat)
    mailboxCommand s 0x1000 v = some (.evRingConfigWrite false v) ∧ mailboxCommand s 0x1008 v = some (.evRingConfigWrite true v)
      ∧ mailboxCommand s 0x1010 v = some (.evHeadWrite v)
      ∧ mailboxCommand s 0 (go 0) = some (.objectRead .ucie index sub seg)
      ∧ mailboxCommand s 0 (go 1) = some (.writeMore .ucie index sub seg (fitBytes n s.mailbox.objData))
      ∧ mailboxCommand s 0 (go 2) = some (.writeLast .ucie index sub seg (fitBytes n s.mailbox.objData))
      ∧ (bitOf v 63 = false → mailboxCommand s 0 v = none ∧ mailboxRead (mailboxStore s 0 v) 0 = v)
      ∧ (∀ i, i < 256 → mailboxRead (mailboxStore s (0x0800 + 8 * i) v) (0x0800 + 8 * i) = v
          ∧ mailboxRead (mailboxStore s (0x2800 + 8 * i) v) (0x2800 + 8 * i) = v))

/-! ## Pace, voltage and energy -/

/-- The loops of the limits while the module runs. The estimate of an interval is the energy of its events under the coefficients of the
rail's setpoint, as power, and the fixed part (R357). Cap: with the estimator trusted, no cap leaves the limit at 2,000, an estimate
above the cap lowers it by one step, not below 100, and one that has stood at or below 97% of the cap for 1 ms raises it by one
step, at most once in 1 ms; the event CAP_UNMET is counted. Guard: an input current above 48 A makes the guard limit the highest
running pace less 8 steps, then lowers it by one step a sample; a current that stays below 46 A raises it by one step in each 1 ms,
and it lifts at 2,000. Heat: one step down above 110 °C, one step up below 105 °C (R349, R355, R356). That no limit lies below 100
is R344's.

The estimator: each 1 ms moves the fixed part by 1/16 of what the measurement differs by; 50 intervals in a row off by more than
25% make the estimator distrusted, which frees the cap loop and is counted; 10,000 in a row within 10% make it trusted again.
While it is distrusted the measurement loop steps down above the cap and up at or below 97% of it, and rests at the ceiling of the
rail mode without one (R357, R358). That it starts from that ceiling is the model's choice, log entry 47.

The engine maximum is a step of the pace, at least 100 and at most 2,000, of an engine that is not retired (R344, R347). The
wear count counts the seconds at the Peak setpoint and no others, and it goes to the non-volatile store; a budget that runs out
while Peak is in force, or committed to, grants Sustain in its place with PEAK_REFUSED (R359, R360). The energy of an interval is
charged to the slots with a share, in proportion to their events' estimated energy, or to their tokens while the estimator is
distrusted, and without a remainder, or to the unattributed count where none has one; which slot takes the remainder is a free value
(R361, log entry 10). -/
def Obligations.PaceLoopsAndMeters : Prop :=
  (∀ s : State, s.power = .running →
    (∀ events : EnergyCounts, s.pm.distrusted = false →
      let mw : Nat := (((eventEnergy s.pm.railTarget events / 8 : Nat) : Int) + s.pm.fixedPart / 16).toNat
      let cap := s.pm.cap.toNat * 1000
      let low := 100 * mw ≤ 97 * cap
      let rises := low ∧ 125 ≤ s.pm.capBelow + 1 ∧ 125 ≤ s.pm.capSinceRise + 1 ∧ s.pm.capLimit < 2000
      ∃ t, exec (.capLoopSample events) s = .next t
        ∧ (s.pm.cap = 0 → t.pm.capLimit = 2000)
        ∧ (s.pm.cap ≠ 0 → cap < mw → t.pm.capLimit = max 100 (s.pm.capLimit - 20) ∧ t.pm.capBelow = 0)
        ∧ (s.pm.cap ≠ 0 → ¬ cap < mw → t.pm.capLimit = (if rises then min 2000 (s.pm.capLimit + 20) else s.pm.capLimit)
            ∧ t.pm.capBelow = if low then s.pm.capBelow + 1 else 0)
        ∧ t.pm.guardLimit = s.pm.guardLimit ∧ t.pm.heatLimit = s.pm.heatLimit ∧ t.pm.cap = s.pm.cap ∧ t.rings = s.rings
        ∧ (if s.pm.cap ≠ 0 ∧ cap < mw ∧ s.pm.capLimit = 100 ∧ 125 ≤ s.pm.unmetSamples + 1 ∧ s.pm.unmetRaised = false then
            t.pm.capUnmet = countUp s.pm.capUnmet ∧ t.pm.evSeq = s.pm.evSeq + 1 ∧ t.pm.unmetRaised = true
          else t.pm.capUnmet = s.pm.capUnmet ∧ t.pm.evSeq = s.pm.evSeq ∧ t.mem = s.mem))
    ∧ (∀ events : EnergyCounts, s.pm.distrusted = true → exec (.capLoopSample events) s = .next s)
    ∧ (∀ milliamps : Nat,
      (48000 < milliamps → s.pm.guardActive = false →
        ∃ t, exec (.guardSample milliamps) s = .next t ∧ t.pm.guardActive = true
          ∧ t.pm.guardLimit = max 100 (((List.finRange 16).foldl (fun a j => max a (runningPace s j)) 0) - 160)
          ∧ t.pm.guardEntries = countUp s.pm.guardEntries ∧ t.pm.evSeq = s.pm.evSeq + 1 ∧ t.pm.capLimit = s.pm.capLimit)
      ∧ (48000 < milliamps → s.pm.guardActive = true →
        ∃ t, exec (.guardSample milliamps) s = .next t
          ∧ SettledFrom { s with pm := { s.pm with guardLimit := max 100 (s.pm.guardLimit - 20), guardBelow := 0 } } t)
      ∧ (milliamps ≤ 48000 → s.pm.guardActive = false → exec (.guardSample milliamps) s = .next s)
      ∧ (milliamps < 46000 → s.pm.guardActive = true →
        let l := if (s.pm.guardBelow + 1) % 125 = 0 then min 2000 (s.pm.guardLimit + 20) else s.pm.guardLimit
        ∃ t, exec (.guardSample milliamps) s = .next t
          ∧ SettledFrom { s with pm := { s.pm with guardBelow := s.pm.guardBelow + 1, guardLimit := l, guardActive := decide (l < 2000) } } t)
      ∧ (46000 ≤ milliamps → milliamps ≤ 48000 → s.pm.guardActive = true →
        ∃ t, exec (.guardSample milliamps) s = .next t ∧ SettledFrom { s with pm := { s.pm with guardBelow := 0 } } t))
    ∧ (∀ milliCelsius : Int,
      let l := if 110000 < milliCelsius then max 100 (s.pm.heatLimit - 20)
        else if milliCelsius < 105000 then min 2000 (s.pm.heatLimit + 20) else s.pm.heatLimit
      ∃ t, exec (.heatLimitStep milliCelsius) s = .next t ∧ SettledFrom { s with pm := { s.pm with heatLimit := l } } t))
  ∧ (∀ s : State, s.power = .running →
    (∀ (events : EnergyCounts) (measured : Nat),
      let estimate : Nat := (((eventEnergy s.pm.railTarget events / 1000 : Nat) : Int) + s.pm.fixedPart / 16).toNat
      let apart : Nat := if estimate ≤ measured then measured - estimate else estimate - measured
      let wide := if measured < 4 * apart then s.pm.offBy25 + 1 else 0
      let close_ := if 10 * apart ≤ measured then s.pm.within10 + 1 else 0
      ∃ t, exec (.estimatorSlowLoop events measured) s = .next t
        ∧ t.pm.fixedPart = s.pm.fixedPart + ((measured : Int) - (estimate : Int))
        ∧ (s.pm.distrusted = false → 50 ≤ wide → t.pm.distrusted = true ∧ t.pm.capLimit = 2000
            ∧ t.pm.distrustEntries = countUp s.pm.distrustEntries ∧ t.pm.distrustValue = modeCeiling s.pm.mode)
        ∧ (s.pm.distrusted = true → 10000 ≤ close_ → t.pm.distrusted = false ∧ t.pm.capLimit = s.pm.capLimit)
        ∧ ((s.pm.distrusted = false ∧ wide < 50) ∨ (s.pm.distrusted = true ∧ close_ < 10000) →
            SettledFrom { s with pm := { s.pm with fixedPart := t.pm.fixedPart, offBy25 := wide, within10 := close_ } } t))
    ∧ (∀ mw : Nat, s.pm.distrusted = true →
      let cap := s.pm.cap.toNat * 1000
      let v := if s.pm.cap = 0 then modeCeiling s.pm.mode
        else if cap < mw then max 100 (s.pm.distrustValue - 20)
        else if 100 * mw ≤ 97 * cap then min 2000 (s.pm.distrustValue + 20)
        else s.pm.distrustValue
      ∃ t, exec (.measurementLoop mw) s = .next t ∧ SettledFrom { s with pm := { s.pm with distrustValue := v } } t))
  ∧ (∀ s : State, s.power = .running →
    (∀ (e : Eng) (rate : Nat), s.engines[e].state ≠ .retired →
      ∃ t m, exec (.paceMonitorSample e rate) s = .next t ∧ 100 ≤ m ∧ m ≤ 2000 ∧ m % 20 = 0
        ∧ SettledFrom (modEng s e fun r => { r with maxPace := BitVec.ofNat 16 m }) t)
    ∧ (s.pm.rail = 860 →
      let w := countUp s.pm.wear
      let peak (j : Slot) : Prop := s.slots[j].inForce.power = .peak ∨ (s.slots[j].phase = .committing ∧ s.slots[j].coming.power = .peak)
      (w.toNat < 31536000 ∨ (∀ j : Slot, ¬ peak j) →
        ∃ t, exec .wearCountTick s = .next t ∧ SettledFrom { s with pm := { s.pm with wear := w } } t)
      ∧ (31536000 ≤ w.toNat → (∃ j : Slot, peak j) →
        ∃ t, exec .wearCountTick s = .next t ∧ t.pm.wear = w ∧ t.pm.peakStatus = .peakRefused ∧ t.pm.evSeq = s.pm.evSeq + 1
          ∧ ∀ j : Slot, t.slots[j].inForceId = s.slots[j].inForceId
              ∧ t.slots[j].inForce = (if s.slots[j].inForce.power = .peak then { s.slots[j].inForce with power := .sustain } else s.slots[j].inForce)
              ∧ (s.slots[j].phase = .committing → t.slots[j].coming.power ≠ .peak)
              ∧ (peak j → t.slots[j].lastStatus = .peakRefused) ∧ (¬ peak j → t.slots[j].lastStatus = s.slots[j].lastStatus)))
    ∧ (s.pm.rail ≠ 860 → exec .wearCountTick s = .next s)
    ∧ (∃ t, exec .wearStoreWrite s = .next t ∧ SettledFrom { s with nv := { s.nv with wear := s.pm.wear } } t)
    ∧ (∀ (mj : Nat) (use : List (Slot × SlotUse)),
      let counted (u : SlotUse) : Nat := if s.pm.distrusted = true then u.tokens else eventEnergy s.pm.railTarget u.events
      let share (j : Slot) : Nat := ((use.filter fun p => p.1 == j).map fun p => counted p.2).sum
      let all := ((List.finRange 16).map share).sum
      ∃ (t : State) (part : Slot → Nat), exec (.energyAttribution mj use) s = .next t
        ∧ t.pm.moduleEnergy = s.pm.moduleEnergy + BitVec.ofNat 64 mj
        ∧ (∀ j : Slot, t.slots[j].energy = s.slots[j].energy + BitVec.ofNat 64 (part j))
        ∧ (all = 0 → (∀ j : Slot, part j = 0) ∧ t.pm.unattributed = s.pm.unattributed + BitVec.ofNat 64 mj)
        ∧ (all ≠ 0 → t.pm.unattributed = s.pm.unattributed ∧ ((List.finRange 16).map part).sum = mj
            ∧ (∀ j : Slot, share j = 0 → part j = 0) ∧ ∃ k : Slot, ∀ j : Slot, j ≠ k → part j = mj * share j / all)))

/-! ## Descriptors from fetch to record -/

/-- A fetch from a ring that may be fetched from moves its head on and takes the descriptor under its ticket, as the one fetched
last: it waits for its issue unless the screen at fetch finds it INVALID, or CANCELLED for its epoch, which end it at once. Rings H
and X of a die take turns. A ticket of another die is no ticket: the record with INVALID goes out once those due before it on
its ring C have (R116, R135 to R140, R147, R151, R158, R159). -/
def Obligations.FetchTakesDescriptor : Prop :=
  ∀ (s : State) (die : Die) (ring : RingKind) (slot : Slot),
    let r := ringAt s die ring slot
    let x := headDesc s r
    let k := freshTk s x.1 die ring slot r.head
    dispatchRuns s die = true → s.integrity.swapDue[diePair die] = none → ringEmpty r = false →
    (ring ≠ .u → urgentReady s die = false ∧ (ringsOf s die slot).c.size ≠ 0 ∧ ringTurn s die (turnOf ring slot) = true) →
    (ticketOk die ring k.ticket = true → getTk s k.ticket = none →
      (∃ t q, exec (.descriptorFetch die ring slot false) s = .next t ∧ getTk t k.ticket = some q ∧ q.desc = x.1 ∧ q.inst = s.nextInst
        ∧ t.nextInst = s.nextInst + 1 ∧ q.ring = ring ∧ q.ringDie = die ∧ q.idx = r.head
        ∧ (ringAt t die ring slot) = { r with head := BitVec.ofNat 16 ((r.head.toNat + 1) % r.size.toNat) }
        ∧ (match screenDesc s k x.2 with
           | none => q.phase = .fetched ∧ q.causes = [] ∧ t.accs = s.accs
           | some z => q.phase = .ended ∧ z ∈ q.causes)
        ∧ (ring ≠ .u → (t.dies[die]).turn = Fin.ofNat 32 (turnOf ring slot + 1))
        ∧ t.mem = s.mem ∧ t.flags = s.flags ∧ t.queues = s.queues ∧ ∀ d c, (ctxOf t d c).isSome = (ctxOf s d c).isSome)
      ∧ (∃ t, exec (.descriptorFetch die ring slot true) s = .next t ∧ t.failedCause = true
          ∧ ModUnit.dispatch (servedDie s die) ∈ t.isolated ∧ (getTk t k.ticket).isSome = true))
    ∧ (ticketOk die ring k.ticket = false → recordsDue s die (dSlot x.1) = false → ((ringsOf s die (dSlot x.1)).c.tail.toNat + 1) % (ringsOf s die (dSlot x.1)).c.size.toNat
          ≠ (ringsOf s die (dSlot x.1)).c.head.toNat → (ringsOf s die (dSlot x.1)).c.size ≠ 0 →
      ∀ fault : Bool, ∃ t, exec (.descriptorFetch die ring slot fault) s = .next t
        ∧ ((ringsOf t die (dSlot x.1)).c.tail
            = BitVec.ofNat 16 (((ringsOf s die (dSlot x.1)).c.tail.toNat + 1) % (ringsOf s die (dSlot x.1)).c.size.toNat))
        ∧ (ringsOf t die (dSlot x.1)).nextSeq = nextSeq32 (ringsOf s die (dSlot x.1)).nextSeq)

/-- A fetched descriptor of its slot's epoch whose waits are met, whose set and queue ends have come to it, and whose unit has
room, the oldest of these on its die, is issued to its unit under the next issue number. One of an older epoch is CANCELLED, and
one whose wait names a flag that is no longer its slot's is INVALID; so is a DRAIN for a set that is not OPEN and that nothing issued
will open. A fault of the unit, or of the dispatch unit, at issue isolates it and fails the module (R116, R122, R141, R151, R159, R294,
R296).

WAIT_CYCLE_SEARCH from a ticket whose dispatch unit runs ends each fetched member of a wait cycle that it reaches with
DEADLOCK and counts the cycles; where it reaches none, nothing changes (R162, R163). -/
def Obligations.IssueAndDeadlock : Prop :=
  (∀ (s : State) (t : TicketId) (k : Tk), getTk s t = some k → k.ticket = t → k.phase = .fetched → dFamily k.desc ≠ some .collective →
    dispatches s k = true →
    (dispatchWrong s k (waitFlags k) = true → ∀ fault : Bool, ∃ u, exec (.descriptorIssue t fault) s = .next u ∧ SettledFrom (dispatchFault s k) u
      ∧ ModUnit.dispatch (tkHost s k) ∈ u.isolated ∧ u.failedCause = true) ∧
    (dispatchWrong s k (waitFlags k) = false →
    let current : Prop := dEpoch k.desc = s.slots[dSlot k.desc].epoch
    let ready : Prop := current ∧ waitsUsable s k = true ∧ (dFamily k.desc = some .call → callOk s k = true) ∧ issueReady s k = true
      ∧ ∀ o ∈ earlier s k, issueReady s o = false
    (∀ fault : Bool, ¬ current → ∃ u, exec (.descriptorIssue t fault) s = .next u ∧ SettledFrom (modTk s t (failTk .cancelled)) u)
    ∧ (∀ fault : Bool, current → waitsUsable s k = false →
        ∃ u q, exec (.descriptorIssue t fault) s = .next u ∧ getTk u t = some q ∧ q.phase = .ended ∧ .invalid ∈ q.causes)
    ∧ (ready → ∃ u q, exec (.descriptorIssue t false) s = .next u ∧ getTk u t = some q ∧ q.issueNo = s.nextIssue
        ∧ (judgedAtIssue s k = false → q.phase = .issued)
        ∧ (judgedAtIssue s k = true → q.phase = .ended ∧ .invalid ∈ q.causes)
        ∧ u.nextIssue = s.nextIssue + 1 ∧ u.mem = s.mem ∧ u.flags = s.flags ∧ u.queues = s.queues ∧ u.rings = s.rings ∧ u.engines = s.engines)
    ∧ (ready → ∃ u, exec (.descriptorIssue t true) s = .next u
        ∧ SettledFrom (controlFault s (tkUnit s k) (tkUnitByte k) (dSlot k.desc) t.val) u
        ∧ tkUnit s k ∈ u.isolated ∧ u.failedCause = true)))
  ∧ (∀ (s : State) (t : TicketId) (k : Tk), getTk s t = some k → dispatches s k = true →
    (cycleMembers s t = [] → ∃ u, exec (.waitCycleSearch t) s = .next u ∧ SettledFrom s u)
    ∧ (∃ u, exec (.waitCycleSearch t) s = .next u ∧ u.flags = s.flags ∧ u.rings = s.rings
        ∧ ∀ m ∈ cycleMembers s t, ∀ q, getTk s m = some q → q.ticket = m → q.phase = .fetched →
            ∃ q', getTk u m = some q' ∧ q'.phase = .ended ∧ .deadlock ∈ q'.causes))

/-- An ended descriptor whose reads and writes are answered completes. Its sets are withheld, and every flag stays, where its
status is INVALID, CANCELLED, DEADLOCK, TIMEOUT or CONFLICT; else one set of a flag of its die that the descriptor may set raises
that VALUE by the increment mod 2¹⁶ and leaves the other flags (R142, R151, R152, R164). A replayed descriptor's sets leave the flags as
they are, and a repeat has none (R307, R309). -/
def Obligations.CompletionPerformsSets : Prop :=
  ∀ (s : State) (t : TicketId) (k : Tk), getTk s t = some k → k.ticket = t → k.phase = .ended → dispatches s k = true →
    unitIsolated s (tkUnit s k) = false → settledTk s k = true → dispatchWrong s k (setFlags s k) = false →
    (∃ u q, exec (.descriptorCompletion t) s = .next u ∧ getTk u t = some q ∧ (q.phase = .completed ∨ q.phase = .setting)
      ∧ q.desc = k.desc ∧ u.rings = s.rings ∧ (k.isRepeat = false → u.queues = s.queues))
    ∧ (setsWithheld (statusOf k.causes) = true ∨ setWords k.desc = [] ∨ k.isRepeat = true
          ∨ (k.isReplay = true ∧ s.slots[dSlot k.desc].replaying ≠ none) →
        ∃ u q, exec (.descriptorCompletion t) s = .next u ∧ getTk u t = some q ∧ (q.phase = .completed ∨ setsOut s k.inst = true)
          ∧ u.flags = s.flags)
    ∧ (∀ (i : Nat) (w : SetWord) (e : BitVec 32), setsWithheld (statusOf k.causes) = false → setWords k.desc = [(i, w)] → k.away = false →
        k.isReplay = false → k.isRepeat = false →
        w.remote = false → dFamily k.desc ≠ some .collective → e = flagEntry s k.ringDie w.flag → feEnable e = true →
        feSlot e = dSlot k.desc → feRemote e = true ∨ feProducer e = t → setsOut s k.inst = false →
        ∃ u q, exec (.descriptorCompletion t) s = .next u ∧ getTk u t = some q ∧ q.phase = .completed
          ∧ flagEntry u k.ringDie w.flag = feSetValue e (feValue e + w.inc.zeroExtend 16)
          ∧ ∀ n, n ≠ flagKey k.ringDie w.flag → sparseGet 0 u.flags n = sparseGet 0 s.flags n)

/-- A completed descriptor, the one that completed first on its ring C, gets its record at the ring's tail and gives its ticket
back: 32 bytes with the ring's next number, the ticket and the status; a NOREC descriptor that ends OK gets none; a full ring holds
it back (R142, R156 to R158, R164).

The status of a record is the first of R164's order that applies: INVALID before all others, then CANCELLED, DEADLOCK, TIMEOUT,
CONFLICT and so on, and OK where none does (R164). -/
def Obligations.CompletionRecords : Prop :=
  (∀ (s : State) (t : TicketId) (k : Tk), getTk s t = some k → k.ticket = t → k.phase = .completed → lateDue s t = none →
    recordTurn s k = true → dispatches s k = true → dispatchWrong s k [] = false → s.memWf = true → TicketsPlaced s →
    let x := statusOf k.causes
    let j := dSlot k.desc
    let c := (ringsOf s k.ringDie j).c
    let next := (c.tail.toNat + 1) % c.size.toNat
    let a := c.base.toNat + 32 * c.tail.toNat
    (x = .ok → dNorec k.desc = true → ∃ u, exec (.completionRecord t) s = .next u ∧ SettledFrom (freeTk s t) u ∧ getTk u t = none)
    ∧ (x ≠ .ok ∨ dNorec k.desc = false → c.size ≠ 0 → next = c.head.toNat → exec (.completionRecord t) s = .next s)
    ∧ (x ≠ .ok ∨ dNorec k.desc = false → c.size ≠ 0 → next ≠ c.head.toNat →
        let rec_ := recordBytes s (ringsOf s k.ringDie j).nextSeq k x
        ∃ u, exec (.completionRecord t) s = .next u ∧ getTk u t = none
          ∧ (ringsOf u k.ringDie j).c = { c with tail := BitVec.ofNat 16 next }
          ∧ (ringsOf u k.ringDie j).nextSeq = nextSeq32 (ringsOf s k.ringDie j).nextSeq
          ∧ (a % 32 = 0 → populated a 32 = true → burstBad s (a / 256) = false → ∀ i < 32, memByte u (a + i) = rec_.getD i 0)
          ∧ (∀ y, y < a ∨ a + 32 ≤ y → memByte u y = memByte s y)
          ∧ rec_.length = 32 ∧ fieldNat rec_ 0 4 = (ringsOf s k.ringDie j).nextSeq.toNat ∧ fieldNat rec_ 4 2 = t.val
          ∧ fieldNat rec_ 6 1 = x.code.toNat ∧ u.flags = s.flags ∧ u.queues = s.queues ∧ u.engines = s.engines))
  ∧ (∀ l : List Status, (∀ x ∈ l, x ∈ statusOrder) →
    (l = [] → statusOf l = .ok) ∧ (.invalid ∈ l → statusOf l = .invalid) ∧ (l ≠ [] → statusOf l ∈ l)
    ∧ ∀ x ∈ l, statusOrder.idxOf (statusOf l) ≤ statusOrder.idxOf x)

/-- CANCEL of the slot's present epoch raises the epoch, moves the heads of the slot's rings H and X to their tails on every die,
and leaves no stationary tile, no OPEN set and no entry of the slot under the old epoch, but for a set whose DRAIN must still supply
its rows; the CANCEL itself waits. One of an older
epoch completes with CANCELLED. Once no old-epoch ticket or read is left, CANCEL_COMPLETE ends it with OK, the slot free of
suspicion, marks and holds (R32, R74, R126, R160, R161, R323). -/
def Obligations.CancelStopsSlot : Prop :=
  (∀ (s : State) (t : TicketId) (k : Tk), Begins s t k → isFn .cancel 0 k.desc = true →
    let j := dSlot k.desc
    let ep := s.slots[j].epoch
    (dEpoch k.desc ≠ ep → ∃ u, exec (.cancel t) s = .next u ∧ SettledFrom (modTk (started s k) t (failTk .cancelled)) u)
    ∧ (dEpoch k.desc = ep →
      ∃ u, exec (.cancel t) s = .next u ∧ u.slots[j].epoch = ep + 1
        ∧ (∀ d : Die, (ringsOf u d j).h.head = (ringsOf s d j).h.tail ∧ (ringsOf u d j).x.head = (ringsOf s d j).x.tail
            ∧ (ringsOf u d j).c = (ringsOf s d j).c)
        ∧ (∀ (e : Eng) (y : Tile), u.engines[e].active = some y ∨ u.engines[e].shadow = some y → y.slot = j → y.epoch = ep + 1)
        ∧ (∀ (e : Eng) (m : Fin 16), (accSet u e m).state = .opened → (accSet u e m).slot = j → (accSet u e m).epoch = ep + 1
            ∨ ∃ o ∈ tksOf u, namesSet u o e m = true ∧ drainAtWork o = true)
        ∧ (∀ p ∈ u.queues, ∀ y ∈ p.2, y.slot = j → y.freed = false → y.epoch = ep + 1)
        ∧ (∀ i : Slot, i ≠ j → u.slots[i].epoch = s.slots[i].epoch ∧ ∀ d : Die, ringsOf u d i = ringsOf s d i)))
  ∧ (∀ (s : State) (t : TicketId) (k : Tk), getTk s t = some k → k.ticket = t → dFamily k.desc = some .cancel → k.phase = .running →
    dEpoch k.desc ≠ s.slots[dSlot k.desc].epoch → slotDrained s (dSlot k.desc) t = true →
    ∃ u q, exec (.cancelComplete t) s = .next u ∧ getTk u t = some q ∧ q.phase = .ended
      ∧ (anyArmed s = false → q.causes = k.causes) ∧ q.detail = k.detail
      ∧ u.slots[dSlot k.desc].suspect = false ∧ u.slots[dSlot k.desc].rollback = false ∧ u.slots[dSlot k.desc].replayCalls = []
      ∧ u.slots[dSlot k.desc].replaying = none
      ∧ u.slots[dSlot k.desc].epoch = s.slots[dSlot k.desc].epoch
      ∧ (¬ (∃ p ∈ s.slots[dSlot k.desc].images, p.2 = (if s.slots[dSlot k.desc].rollback = true then s.slots[dSlot k.desc].finalStep
            else s.slots[dSlot k.desc].dataStep)) → u.mem = s.mem ∧ u.slots[dSlot k.desc].dataStep = s.slots[dSlot k.desc].dataStep))

/-! ## Flags, fences, check values and copies -/

/-- A descriptor that asks for another profile than the one in force on its unit as it begins, or for a variant context that is
not resident for its slot, ends with INVALID and does none of its work: memory, the flags and the queues stay (R145, R146, R252). It
holds for the flag, fence, check-value and CANCEL descriptors, for PUT, both STREAMs and a forced drain alike.

WAIT_SET and FENCE end OK at once, a FENCE only when every write of the descriptors that it covers has been answered.
FLAG_WRITE stores VALUE into a flag of its own die and slot, whatever REMOTE and PRODUCER say, and leaves the other flags; a flag
that is not its slot's ends it with INVALID, and a replayed one writes into the replay's copy (R153, R155, R232, R307). -/
def Obligations.BeginningAndFlagDescriptors : Prop :=
  (∀ (s : State) (t : TicketId) (k : Tk) (c : Instr),
    ((c = .waitSet t ∧ isFn .flag 0 k.desc = true) ∨ (c = .flagWrite t ∧ isFn .flag 1 k.desc = true)
      ∨ (c = .fence t ∧ isFn .fence 0 k.desc = true ∧ ∀ i ∈ k.cover, instBusy s i = false)
      ∨ (c = .checkarm t ∧ isFn .checkarm 0 k.desc = true) ∨ (c = .cancel t ∧ isFn .cancel 0 k.desc = true)
      ∨ (c = .put t ∧ isXfer 0 k.desc = true) ∨ (c = .streamLinear t ∧ isFn .stream 0 k.desc = true)
      ∨ (c = .streamIndexed t ∧ isFn .stream 1 k.desc = true) ∨ (c = .drainForce t ∧ isDrain 0 true k.desc = true)) →
    NextOnUnit s t k → ¬ StartsLegal s k →
    ∃ u q, exec c s = .next u ∧ getTk u t = some q ∧ q.phase = .ended ∧ .invalid ∈ q.causes
      ∧ u.mem = s.mem ∧ u.flags = s.flags ∧ u.queues = s.queues ∧ u.homeQueue = s.homeQueue ∧ (consulted k.desc = [] → u.cvus = s.cvus))
  ∧ (∀ (s : State) (t : TicketId) (k : Tk), Begins s t k →
    (isFn .flag 0 k.desc = true → ∃ u, exec (.waitSet t) s = .next u ∧ SettledFrom (modTk (started s k) t (endTk [] 0)) u)
    ∧ (isFn .fence 0 k.desc = true →
        ((∀ i ∈ k.cover, instBusy s i = false) → ∃ u, exec (.fence t) s = .next u ∧ SettledFrom (modTk (started s k) t (endTk [] 0)) u)
        ∧ ((∃ i ∈ k.cover, instBusy s i = true) → exec (.fence t) s = .next s))
    ∧ (isFn .flag 1 k.desc = true →
        let e := flagEntry s k.ringDie (flFlag k.desc)
        (feEnable e = true ∧ feSlot e = dSlot k.desc → k.isReplay = true → s.slots[dSlot k.desc].replaying ≠ none →
          ∃ u q, exec (.flagWrite t) s = .next u ∧ getTk u t = some q ∧ q.phase = .ended ∧ q.causes = k.causes ∧ u.flags = s.flags)
        ∧ (feEnable e = true ∧ feSlot e = dSlot k.desc → k.isReplay = false →
          ∃ u q, exec (.flagWrite t) s = .next u ∧ getTk u t = some q ∧ q.phase = .ended ∧ q.causes = k.causes
            ∧ flagEntry u k.ringDie (flFlag k.desc) = feSetValue e (flValue k.desc)
            ∧ (∀ n, n ≠ flagKey k.ringDie (flFlag k.desc) → sparseGet 0 u.flags n = sparseGet 0 s.flags n)
            ∧ u.mem = s.mem ∧ u.queues = s.queues ∧ u.rings = s.rings)
        ∧ (¬ (feEnable e = true ∧ feSlot e = dSlot k.desc) →
          ∃ u q, exec (.flagWrite t) s = .next u ∧ getTk u t = some q ∧ q.phase = .ended ∧ .invalid ∈ q.causes ∧ u.flags = s.flags)))

/-- CHECKARM arms its unit on the tap and range it names where the unit is free and the slot owns the tap, and completes with
CONFLICT otherwise, the unit as it was; a TAP or a range that R299 does not admit is INVALID (R297, R299, R301).

A burst that passes a tap is folded into a unit armed there whose range holds its address or number, and into no other: V
takes CRC32C over the number from START on and the bytes. The last burst of the range disarms the unit and ends its CHECKARM, OK or
CHECKVAL (R297, R300). -/
def Obligations.CheckValueUnits : Prop :=
  (∀ (s : State) (t : TicketId) (k : Tk), Begins s t k → isFn .checkarm 0 k.desc = true →
    let n := chCvu k.desc
    let owned : Prop := tapOwner s (chTap k.desc).toNat = BitVec.ofNat 8 (dSlot k.desc).val
    (checkarmOk k.desc = false → ∃ u q, exec (.checkarm t) s = .next u ∧ getTk u t = some q ∧ q.phase = .ended ∧ .invalid ∈ q.causes
        ∧ u.cvus = s.cvus)
    ∧ (checkarmOk k.desc = true → s.cvus[n].armed = false → owned →
        ∃ u, exec (.checkarm t) s = .next u ∧ SettledFrom (modCvu (started s k) n (armUnit (startedTk s k))) u
          ∧ u.cvus[n].armed = true ∧ u.cvus[n].v = 0 ∧ u.cvus[n].tap = chTap k.desc ∧ u.cvus[n].bytes = chBytes k.desc
          ∧ u.cvus[n].start = chStart k.desc ∧ u.cvus[n].sequence = chFold k.desc)
    ∧ (checkarmOk k.desc = true → s.cvus[n].armed = true ∨ ¬ owned →
        ∃ u, exec (.checkarm t) s = .next u ∧ SettledFrom (modTk (started s k) t (failTk .conflict)) u))
  ∧ (∀ (s : State) (u : Fin 16) (tap : Nat) (seq : Bool) (num : Nat) (data : List Byte) (bad : Bool),
    let c := s.cvus[u]
    let n := if c.sequence = true then c.bytes / 256 else c.bytes
    let mine : Prop := c.armed = true ∧ c.tap.toNat = tap ∧ c.sequence = seq ∧ c.start ≤ num ∧ num < c.start + n
    let t := tapBurst s tap seq num data bad
    let v := c.v ^^^ crc32c (leBytes 8 (num - c.start) ++ data)
    (¬ mine → t.cvus[u] = c)
    ∧ (mine → t.cvus[u].v = v ∧ t.cvus[u].counted = c.counted + 1 ∧ t.cvus[u].bad = (c.bad || bad)
        ∧ t.cvus[u].armed = decide ((c.counted + 1).toNat * 256 ≠ c.bytes)
        ∧ ((c.counted + 1).toNat * 256 = c.bytes → t.cvus[u].last = v
            ∧ t.cvus[u].mismatches = if c.measure = false ∧ (c.bad = true ∨ bad = true ∨ v ≠ c.expect) then countUp c.mismatches else c.mismatches))
    ∧ TapsLeave s t)

/-- MIRROR of a region of the due copy begins the copy: with a route to the partner, zeros lie over the chosen half's header in the
keep and one answer of the partner is due; a region that is not one of the due copy's is INVALID, and while another MIRROR runs it
waits. A replayed MIRROR copies nothing. A write to the net that stays unanswered ends the copy with TIMEOUT, NET_FAIL recorded and the
next copy due at the next commit (R307, R324, R328, R330). -/
def Obligations.MirrorBeginsAndFails : Prop :=
  (∀ (s : State) (t : TicketId) (k : Tk), Begins s t k → isFn .mirror 0 k.desc = true →
    (∀ x o, (x, some o) ∈ s.tickets → dFamily o.desc = some .mirror → o.ticket ≠ t → o.phase ≠ .running ∧ (o.phase = .issued → k.issueNo ≤ o.issueNo)) →
    let j := dSlot k.desc
    let b := (s.slots[j].keepBase.toNat + (chosenHalf s j).val * halfBytes s j) / 256
    (k.isReplay = true → ∃ u q, exec (.mirror t) s = .next u ∧ getTk u t = some q ∧ q.phase = .ended ∧ q.causes = k.causes ∧ u.mem = s.mem
        ∧ u.slots[j].copy = s.slots[j].copy ∧ u.sent = s.sent)
    ∧ (k.isReplay = false → mirrorRegion s k = none → ∃ u q, exec (.mirror t) s = .next u ∧ getTk u t = some q ∧ q.phase = .ended ∧ .invalid ∈ q.causes ∧ u.mem = s.mem)
    ∧ (∀ g, k.isReplay = false → mirrorRegion s k = some g → s.slots[j].copy = none → Reaches s s.slots[j].partner.toNat →
        ∃ u c, exec (.mirror t) s = .next u ∧ u.slots[j].copy = some c ∧ c.step = miStep k.desc ∧ c.half = chosenHalf s j ∧ c.done = []
          ∧ c.v = 0 ∧ c.acks = 1 ∧ c.waiting = some (t, k.inst, g.pos) ∧ c.open_ = false ∧ c.closing = false
          ∧ (s.memWf = true → burstTripped s b = false → ∀ i < 256, memByte u (256 * b + i) = 0)
          ∧ ∀ x, x < 256 * b ∨ 256 * b + 256 ≤ x → memByte u x = memByte s x)
    ∧ (∀ g c, k.isReplay = false → mirrorRegion s k = some g → s.slots[j].copy = some c →
        ∃ u, exec (.mirror t) s = .next u
          ∧ SettledFrom (copyRegion (putCopy (started s k) j (some { c with waiting := some (t, k.inst, g.pos) })) j) u))
  ∧ (∀ (s : State) (j : Slot) (c : Copy) (t : TicketId) (inst pos : Nat), s.power = .running → s.slots[j].copy = some c → c.acks ≠ 0 →
    c.waiting = some (t, inst, pos) →
    ∃ u, exec (.mirrorTimeout j) s = .next u ∧ u.slots[j].copy = none ∧ u.slots[j].mirrorDue = none ∧ u.slots[j].copyForced = true
      ∧ u.mem = s.mem ∧ (∃ f, u.nv.failures.getLast? = some f ∧ f.kind = 0x0D)
      ∧ ∀ k, getTk s t = some k → k.ticket = t → k.inst = inst → ∃ q, getTk u t = some q ∧ q.phase = .ended ∧ .timeout ∈ q.causes)

/-! ## Arrays, accumulator sets and drains -/

/-- A MATMUL that begins on a free array at its place in its set's order: START and SEED open the set with its range under the
descriptor's slot and epoch, guard count 0, SEED with its totals still to come; CONTINUE leaves its OPEN set as it is; the array
then runs T tokens, on from the rounds that were read ahead for it. ACCEPT takes no array and waits for totals. A MATMUL that its shape, formats, inputs, set or scale entries do
not admit is INVALID, and one that meets a set that a double-bit error emptied ends with ECC_UNCORR (R45, R111, R112, R114, R129). -/
def Obligations.MatmulBegins : Prop :=
  ∀ (s : State) (t : TicketId) (k : Tk), Begins s t k → dFamily k.desc = some .matmul →
    let v := started s k
    let q := startedTk s k
    let e := tkEng s k
    let m := dAccSet k.desc
    let accept : Prop := dAccMode k.desc = .accept
    let free : Prop := setTurn s k = true ∧ (accept → (accSet s e m).incoming = none)
      ∧ (¬ accept → (s.engines[e]).run = none ∧ (s.engines[e]).swapTok = none)
    let c : Instr := match dAccMode k.desc with
      | .start => .matmulStart t | .continue_ => .matmulContinue t | .seed => .matmulSeed t | .accept => .matmulAccept t
    let valid : Bool := match dAccMode k.desc with
      | .accept => !engRetired s e && setMine v q
      | .continue_ => arrayOk v q && setMine v q && rowsFit k.desc (accSet s e m).rows && (matmulScales v q).1.isSome
      | _ => arrayOk v q && openOk v q && (matmulScales v q).1.isSome
    free →
      (valid = false → ∃ u x, exec c s = .next u ∧ getTk u t = some x ∧ x.phase = .ended ∧ .invalid ∈ x.causes ∧ u.mem = s.mem)
      ∧ (valid = true → accept → ∃ u, exec c s = .next u
          ∧ SettledFrom (modSet v e m fun a => { a with incoming := some (incomingOf v q) }) u ∧ getTk u t = some q)
      ∧ (valid = true → ¬ accept → (s.engines[e]).active = none →
          ∃ u x, exec c s = .next u ∧ getTk u t = some x ∧ x.phase = .ended ∧ .eccUncorr ∈ x.causes ∧ (u.engines[e]).run = none)
      ∧ (valid = true → ¬ accept → (s.engines[e]).active ≠ none →
          ∃ u a, exec c s = .next u ∧ (u.engines[e]).run = some a ∧ a.ticket = t ∧ a.t = dT k.desc ∧ a.done = 0 ∧ a.wavefronts = 0
            ∧ (u.engines[e]).active = (s.engines[e]).active ∧ (dAccMode k.desc = .continue_ → accSet u e m = accSet s e m)
            ∧ (dAccMode k.desc ≠ .continue_ → (accSet u e m).state = .opened ∧ (accSet u e m).base8 = BitVec.ofNat 9 (dBase8 k.desc)
                ∧ (accSet u e m).rows8 = BitVec.ofNat 9 (dRows8 k.desc) ∧ (accSet u e m).guard = 0 ∧ (accSet u e m).long = false
                ∧ (accSet u e m).slot = dSlot k.desc ∧ (accSet u e m).epoch = dEpoch k.desc
                ∧ ((accSet u e m).incoming ≠ none ↔ dAccMode k.desc = .seed))
            ∧ (∀ n : Fin 16, n ≠ m → accSet u e n = accSet s e n) ∧ a.ins = aheadOf s.engines[e] k ∧ (u.engines[e]).ahead = none
            ∧ ((s.engines[e]).ahead = none → u.queues = s.queues) ∧ u.mem = s.mem ∧ u.flags = s.flags ∧ u.rings = s.rings)

/-- LOADSTAT begins a load into the empty shadow set of its engine, and waits while that set holds a tile; each LOAD_STEP spends a token and stores the next operand row
in that set, and the step behind the last row makes it swap-ready, under the owners that the entry's tag has by then, and ends the LOADSTAT, with ECC_UNCORR and an empty shadow set
where an operand row was poisoned. A double-bit error in the shadow set empties it: the load starts again once, then ends with
ECC_UNCORR. The active set stays (R27, R30, R44, R45, R69). -/
def Obligations.StationaryLoad : Prop :=
  (∀ (s : State) (t : TicketId) (k : Tk), Begins s t k → isFn .loadstat 0 k.desc = true →
    let e := tkEng s k
    (∀ q en, (s.engines[e]).shadow = none → (s.engines[e]).load = none → dInQ k.desc 0 = some q → headEntry s k.shelf q = some en →
        popTurn s k q = true → loadOk s k = true → loadEntryOk k.desc en = true →
      ∃ u x l, exec (.loadstat t) s = .next u ∧ (u.engines[e]).shadow = some x ∧ (u.engines[e]).load = some l
        ∧ x.slot = dSlot k.desc ∧ x.epoch = dEpoch k.desc ∧ x.shape.toNat = dShape k.desc ∧ x.rows = [] ∧ x.ready = false
        ∧ x.owners = en.owners ∧ l.ticket = t ∧ l.step = 0 ∧ l.total = loadSteps (dShape k.desc) (dParam k.desc) ∧ l.reloaded = false
        ∧ (u.engines[e]).active = (s.engines[e]).active ∧ u.queues = s.queues ∧ u.mem = s.mem ∧ u.accs = s.accs)
    ∧ (loadOk s k = true → (s.engines[e]).shadow ≠ none → exec (.loadstat t) s = .next s)
    ∧ (loadOk s k = false → ∃ u x, exec (.loadstat t) s = .next u ∧ getTk u t = some x ∧ x.phase = .ended ∧ .invalid ∈ x.causes
        ∧ u.engines = s.engines ∧ u.queues = s.queues))
  ∧ (∀ (s : State) (e : Eng) (l : LoadRun) (x : Tile) (k : Tk), (s.engines[e]).load = some l → (s.engines[e]).shadow = some x →
    engRuns s e = true → (s.engines[e]).loadTokens ≠ 0 → getTk s l.ticket = some k → k.ticket = l.ticket → unitWrong s k [] = false →
    (∀ o rest, l.step < l.total → l.inp.buf = o :: rest →
      ∃ u, exec (.loadStep e .clean) s = .next u ∧ (u.engines[e]).shadow = some (loadRow x l.step o.bytes)
        ∧ (u.engines[e]).load = some { l with step := l.step + 1, inp := { l.inp with buf := rest }, poisoned := l.poisoned || o.poison }
        ∧ (u.engines[e]).loadTokens = (s.engines[e]).loadTokens - 1 ∧ (u.engines[e]).active = (s.engines[e]).active
        ∧ u.tickets = s.tickets ∧ u.queues = s.queues ∧ u.mem = s.mem)
    ∧ (l.total ≤ l.step → ∃ u q, exec (.loadStep e .clean) s = .next u ∧ getTk u l.ticket = some q ∧ q.phase = .ended
        ∧ (u.engines[e]).load = none ∧ (u.engines[e]).active = (s.engines[e]).active
        ∧ (l.poisoned = false → (u.engines[e]).shadow = some { x with ready := true, owners := ((dInQ k.desc 0).bind fun q => headEntry s k.shelf q).elim x.owners (·.owners) }
            ∧ q.causes = k.causes)
        ∧ (l.poisoned = true → (u.engines[e]).shadow = none ∧ .eccUncorr ∈ q.causes))
    ∧ (l.step ≠ 0 → l.total ≤ l.step ∨ l.inp.buf ≠ [] →
      ∃ u, exec (.loadStep e .uncorrectable) s = .next u ∧ ((u.engines[e]).state ≠ .retired → (u.engines[e]).active = (s.engines[e]).active)
        ∧ (l.reloaded = true → (u.engines[e]).load = none ∧ (u.engines[e]).shadow = none
            ∧ ∃ q, getTk u l.ticket = some q ∧ q.phase = .ended ∧ .eccUncorr ∈ q.causes)
        ∧ (l.reloaded = false → (u.engines[e]).state ≠ .retired →
            (∃ y, (u.engines[e]).shadow = some y ∧ y.rows = []) ∧ ∃ y, (u.engines[e]).load = some y ∧ y.step = 0 ∧ y.reloaded = true)))

/-- SWAP puts its token at its engine where a set is ready under its epoch or a LOADSTAT is outstanding; it is INVALID, the active
set as it was, on a retired engine and where no set is ready and no load outstanding (that this takes in a set filled under another
epoch is the model's choice, log entry 65). One behind another SWAP's token waits.

SWAP_EXECUTE moves the swap-ready shadow set to the active place between two MATMULs, empties the shadow set and ends the SWAP. While a
MATMUL runs, or the set is not ready and a load is outstanding, it waits; a load that left the shadow set empty ends the SWAP with
INVALID (R28, R29). A tile that was ready and was lost to a double-bit error leaves the active set empty for the next MATMUL to meet
(the model's choice, log entry 92).

A token that the pace limiter grants a working engine adds one, 8 at most, and one for a load that is pending. A corrected word of queue
storage is written back: its wrong bits and its write-back are gone, and the other words stay (R60, R69, R344). -/
def Obligations.SwapsAndTokens : Prop :=
  (∀ (s : State) (t : TicketId) (k : Tk), Begins s t k → isFn .swap 0 k.desc = true →
    let e := tkEng s k
    ((s.engines[e]).swapTok ≠ none → exec (.swap t) s = .next s)
    ∧ ((s.engines[e]).swapTok = none → engRetired s e = false → swapReady s e (dEpoch k.desc) = true ∨ loadOutstanding s e = true →
      ∃ u, exec (.swap t) s = .next u ∧ SettledFrom (modEng (started s k) e fun r => { r with swapTok := some t }) u)
    ∧ ((s.engines[e]).swapTok = none → engRetired s e = true ∨ (swapReady s e (dEpoch k.desc) = false ∧ loadOutstanding s e = false) →
      ∃ u q, exec (.swap t) s = .next u ∧ getTk u t = some q ∧ q.phase = .ended ∧ .invalid ∈ q.causes ∧ u.engines = s.engines))
  ∧ (∀ (s : State) (e : Eng) (t : TicketId) (k : Tk), (s.engines[e]).swapTok = some t → getTk s t = some k → engRuns s e = true →
    unitWrong s k [] = false →
    ((s.engines[e]).run ≠ none → exec (.swapExecute e) s = .next s)
    ∧ (swapReady s e (dEpoch k.desc) = false → loadOutstanding s e = true → exec (.swapExecute e) s = .next s)
    ∧ ((s.engines[e]).run = none → (s.engines[e]).shadow = none → swapReady s e (dEpoch k.desc) = true →
      ∃ u q, exec (.swapExecute e) s = .next u ∧ getTk u t = some q ∧ q.phase = .ended ∧ q.causes = k.causes
        ∧ (u.engines[e]).active = none ∧ (u.engines[e]).emptied = true ∧ (u.engines[e]).swapTok = none ∧ (u.engines[e]).shadowLost = none
        ∧ (∀ f : Eng, f ≠ e → u.engines[f] = s.engines[f]) ∧ u.accs = s.accs ∧ u.queues = s.queues ∧ u.mem = s.mem)
    ∧ ((s.engines[e]).run = none → (s.engines[e]).shadow = none → swapReady s e (dEpoch k.desc) = false → loadOutstanding s e = false →
      ∃ u q, exec (.swapExecute e) s = .next u ∧ getTk u t = some q ∧ q.phase = .ended ∧ .invalid ∈ q.causes
        ∧ (u.engines[e]).active = (s.engines[e]).active ∧ (u.engines[e]).swapTok = none)
    ∧ (∀ x : Tile, (s.engines[e]).run = none → (s.engines[e]).shadow = some x → x.ready = true → x.epoch = dEpoch k.desc →
      ∃ u q, exec (.swapExecute e) s = .next u ∧ (u.engines[e]).active = some x ∧ (u.engines[e]).shadow = none
        ∧ (u.engines[e]).swapTok = none ∧ (u.engines[e]).freshSwap = true ∧ getTk u t = some q ∧ q.phase = .ended ∧ q.causes = k.causes
        ∧ (∀ f : Eng, f ≠ e → u.engines[f] = s.engines[f]) ∧ u.accs = s.accs ∧ u.queues = s.queues ∧ u.mem = s.mem))
  ∧ (∀ (s : State) (e : Eng), (s.engines[e]).swapTok = none → exec (.swapExecute e) s = .next s)
  ∧ (∀ (s : State) (e : Eng), engRuns s e = true → engWorks s e = true →
    ∃ u, exec (.admissionToken e) s = .next u ∧ (u.engines[e]).tokens.val = min 8 ((s.engines[e]).tokens.val + 1)
      ∧ (u.engines[e]).loadTokens.val = (if (s.engines[e]).load.isSome = true then min 8 ((s.engines[e]).loadTokens.val + 1) else 0)
      ∧ (u.engines[e]).active = (s.engines[e]).active ∧ (∀ f : Eng, f ≠ e → u.engines[f] = s.engines[f])
      ∧ u.tickets = s.tickets ∧ u.queues = s.queues ∧ u.mem = s.mem)
  ∧ (∀ (s : State) (e : Eng) (w : Fin 8388608) (rest : List (Fin 8388608)), engRuns s e = true → (s.engines[e]).writebacks = w :: rest →
    ∃ u, exec (.correctedWriteback e) s = .next u ∧ wordFinding u e w.val = .clean ∧ w ∉ (u.engines[e]).writebacks
      ∧ (∀ x, x ≠ w.val → wordFinding u e x = wordFinding s e x) ∧ (∀ f : Eng, f ≠ e → u.engines[f] = s.engines[f])
      ∧ u.queues = s.queues ∧ u.tickets = s.tickets ∧ u.mem = s.mem)
  ∧ ∀ (s : State) (e : Eng), (engRuns s e = false ∨ engWorks s e = false → exec (.admissionToken e) s = .next s)
    ∧ ((s.engines[e]).writebacks = [] → exec (.correctedWriteback e) s = .next s)

/-- CAROUSEL_ROUND of a streamed input hands the next round of the entry, read row-wise or column-wise as its ORIENT bit says and
without the padding, to the input's buffer behind what stands there, and frees the entry behind its last round unless KEEP is set; the
other inputs stay. A column-wise entry of more than 512 stored rows gives the first part of each operand row in one round and the rest in
the next. Where no MATMUL under way takes the round, the one that is next has the rounds of its first entry read ahead, and the entry
stays where it is. An entry that does not keep R66 ends the MATMUL with INVALID. A round of the stationary load goes to the load's
buffer; an L4w tile's exponent rows are read row-wise in either orientation (R60 to R64, R66, R68, R71).

The code decodes every word of the round: a word with one wrong bit has its write-back due, and a double-bit error poisons the operand
rows that share the word and gives ECC_UNCORR (R43, R45, R60). -/
def Obligations.CarouselRoundReads : Prop :=
  (∀ (s : State) (e : Eng) (i : Fin 4) (word : Fin 1024) (code : Ecc) (a : ArrayRun) (k : Tk) (q : Nat) (en : Entry),
    let ir := a.ins[i]
    let fmt := dFmtIn k.desc 0
    let col := colWise k.desc i.val
    let per := roundRows fmt col
    let left := a.t - (a.done + ir.buf.length)
    let last : Prop := lastRound en fmt col ir.round = true
    let parts := colRounds col en.rows
    let x := carouselRead s e a.ticket en fmt col en.rows ir.round word.val code
    let whole := joinHalves ir.half x.2
    let c : Instr := .carouselRound e (Fin.castSucc i) word code
    sparseWf [] s.queues = true →
    engRuns s e = true → (s.engines[e]).run = some a → getTk s a.ticket = some k → k.ticket = a.ticket → i.val < shapeInputs (dShape k.desc) →
    left ≠ 0 → ir.buf.length ≤ per → inputEntry s k i.val ir = some (q, en) → (ir.round = 0 → popTurn s k q = true) →
    (ir.round = 0 → streamEntryOk k.desc i.val en left = false →
      ∃ u x, exec c s = .next u ∧ getTk u a.ticket = some x ∧ x.phase = .ended ∧ .invalid ∈ x.causes ∧ (u.engines[e]).run = none)
    ∧ ((ir.round = 0 → streamEntryOk k.desc i.val en left = true) → roundReady en col ir.round = true →
      ∃ u b, exec c s = .next u ∧ (u.engines[e]).run = some b
        ∧ (ir.round % parts + 1 = parts → (b.ins[i]).half = []
            ∧ (b.ins[i]).buf = ir.buf ++ (whole.take (operandRows en fmt col - ir.round / parts * per)).map (spreadRow k.desc i.val))
        ∧ (ir.round % parts + 1 ≠ parts → (b.ins[i]).half = whole ∧ (b.ins[i]).buf = ir.buf)
        ∧ (last → (b.ins[i]).round = 0 ∧ (b.ins[i]).entries = ir.entries + 1) ∧ (¬ last → (b.ins[i]).round = ir.round + 1)
        ∧ (∀ n : Fin 4, n ≠ i → b.ins[n] = a.ins[n]) ∧ b.done = a.done ∧ b.wavefronts = a.wavefronts
        ∧ (¬ last ∨ keeps k.desc i.val = true → u.queues = s.queues)
        ∧ (last → keeps k.desc i.val = false → entriesOf u k.shelf q
            = dropFreed ((entriesOf s k.shelf q).map fun y => if y.id = en.id then { y with freed := true } else y))
        ∧ u.mem = s.mem ∧ u.accs = s.accs ∧ u.flags = s.flags ∧ u.upsets = x.1.upsets))
  ∧ (∀ (s : State) (e : Eng) (i : Fin 4) (word : Fin 1024) (code : Ecc) (k : Tk) (q : Nat) (en : Entry),
    let ins := aheadOf s.engines[e] k
    let ir := ins[i]
    let fmt := dFmtIn k.desc 0
    let col := colWise k.desc i.val
    let x := carouselRead s e k.ticket en fmt col en.rows ir.round word.val code
    engRuns s e = true → streamRound s e i word.val code = none → nextMatmul s e = some k → i.val < shapeInputs (dShape k.desc) →
    inputUsable s k i.val = true → ir.entries = 0 → ir.buf.length < dT k.desc →
    ((s.engines[e]).run.elim 0 fun a => (a.ins[i]).buf.length) + ir.buf.length ≤ roundRows fmt col →
    inputEntry s k i.val ir = some (q, en) → popTurn s k q = true → streamEntryOk k.desc i.val en (dT k.desc) = true →
    roundReady en col ir.round = true →
    ∃ u, exec (.carouselRound e (Fin.castSucc i) word code) s = .next u
      ∧ (u.engines[e]).ahead = some (k.inst, ins.set i (roundTaken k.desc i.val en ir x.2)) ∧ (u.engines[e]).run = (s.engines[e]).run
      ∧ (u.engines[e]).active = (s.engines[e]).active ∧ u.queues = s.queues ∧ u.mem = s.mem ∧ u.accs = s.accs)
  ∧ (∀ (s : State) (e : Eng) (word : Fin 1024) (code : Ecc) (l : LoadRun) (k : Tk) (q : Nat) (en : Entry),
    let fmt := dFmtIn k.desc 0
    let l4w : Bool := dShape k.desc = 6 ∨ dShape k.desc = 7
    let seen := l.step + l.inp.buf.length
    let col := colWise k.desc 0 && !(l4w && 512 ≤ seen)
    let per := roundRows fmt col
    let x := carouselRead s e l.ticket en fmt col (if l4w && col then 512 else en.rows) (seen / per) word.val code
    engRuns s e = true → (s.engines[e]).load = some l → getTk s l.ticket = some k →
    seen < l.total → l.inp.buf.length ≤ per → dInQ k.desc 0 = some q → headEntry s k.shelf q = some en → roundReady en col (seen / per) = true →
    ∃ u b, exec (.carouselRound e 4 word code) s = .next u ∧ (u.engines[e]).load = some b ∧ b.step = l.step ∧ b.inp.buf = l.inp.buf ++ x.2
      ∧ (u.engines[e]).active = (s.engines[e]).active ∧ (u.engines[e]).shadow = (s.engines[e]).shadow ∧ u.queues = s.queues ∧ u.mem = s.mem)
  ∧ ∀ (s : State) (e : Eng) (t : TicketId) (k : Tk) (en : Entry) (fmt n round word : Nat) (col : Bool) (code : Ecc),
    let x := carouselRead s e t en fmt col n round word code
    let m := meetWords (upsetQueue s e (roundWord en col n round word) code) e en (roundReads en col n round)
    getTk s t = some k → k.ticket = t →
    (m.doubles = [] → x.2 = readRound en fmt col n round)
    ∧ (∀ w ∈ m.singles, Fin.ofNat 8388608 w ∈ (x.1.engines[e]).writebacks)
    ∧ (m.doubles ≠ [] → (∃ y, getTk x.1 t = some y ∧ .eccUncorr ∈ y.causes) ∧ (col = true → ∀ o ∈ x.2, o.poison = true))
    ∧ (col = false → ∀ p ∈ m.doubles, ∀ o, x.2[p.1 - 8 * round]? = some o → o.poison = true)
    ∧ (m.doubles = [] → m.singles = [] → (∀ o ∈ x.2, o.poison = false) → x.1.engines = s.engines ∧ x.1.tickets = s.tickets)

/-- A WAVEFRONT of streamed rows spends a token and promotes, into the entries that it reaches and no others, the chunk values of the
tile with those rows, ascending; where operand rows or scale entries are not poisoned, and nothing fails, those entries are what the
promotions make of them. Behind the last one the MATMUL ends: the guard count takes the shape's chunk values and the set's end
token goes on. A check wavefront, and one with failures, leaves every other entry as it was too. A double-bit error in the
scrubbed row empties the active set and ends the MATMUL with ECC_UNCORR (R25, R33, R39, R45, R113, R117, R120, R122). -/
def Obligations.WavefrontPromotes : Prop :=
  ∀ (s : State) (e : Eng) (a : ArrayRun) (x : Tile) (k : Tk) (f : ArrayFault),
    let m := dAccSet k.desc
    let set := accSet s e m
    let tile := { x with shape := BitVec.ofNat 4 (dShape k.desc), param := BitVec.ofNat 8 (dParam k.desc) }
    let base := set.base + 8 * dOff8 k.desc
    engRuns s e = true → (s.engines[e]).run = some a → (s.engines[e]).active = some x → (s.engines[e]).tokens ≠ 0 →
    getTk s a.ticket = some k → k.ticket = a.ticket → seedWaits s e k.desc a = false → unitWrong s k [] = false →
    (∀ rows, a.checkDue = false → waveRows a (dShape k.desc) = some rows → ownersOk tile (rows.map (·.side)) = true →
        (∀ o ∈ rows, o.poison = false) → a.scalePoison = false → f.tree = [] → f.scrub = .clean → f.bank = [] → f.promo = [] → set.state = .opened →
      let sides := rows.map (·.side)
      let ps := streamed (dShape k.desc) tile.param.toNat (dFmtIn k.desc 0) (rows.map (·.bytes))
      ∃ u, exec (.wavefront e f) s = .next u ∧ (u.engines[e]).tokens = (s.engines[e]).tokens - 1
        ∧ (∀ row col, bankGet u e row col = bankGet (promoteWave s e tile ps sides [] (a.sigmaA + a.sigmaB) base a.t a.done) e row col)
        ∧ (∀ row col, (∀ p ∈ reached tile sides, row * 512 + col ≠ (base + p.1 * a.t + a.done) * 512 + p.2) → bankGet u e row col = bankGet s e row col)
        ∧ (a.done + 1 < a.t → accSet u e m = set ∧ ∃ b, (u.engines[e]).run = some b ∧ b.done = a.done + 1 ∧ b.wavefronts = a.wavefronts + 1)
        ∧ (a.t ≤ a.done + 1 → (u.engines[e]).run = none ∧ (accSet u e m).ended = set.ended + 1
            ∧ (accSet u e m).guard = min 65536 (set.guard + shapeChunks (dShape k.desc))
            ∧ ∃ q, getTk u a.ticket = some q ∧ q.phase = .ended)
        ∧ u.mem = s.mem ∧ u.queues = s.queues ∧ u.flags = s.flags ∧ u.rings = s.rings)
    ∧ (a.checkDue = true → f.scrub = .clean →
      ∃ u b, exec (.wavefront e f) s = .next u ∧ (u.engines[e]).run = some b ∧ b.done = a.done ∧ b.wavefronts = a.wavefronts + 1
        ∧ b.checkDue = false ∧ u.accs = s.accs ∧ u.mem = s.mem ∧ u.queues = s.queues)
    ∧ (a.checkDue = true ∨ waveRows a (dShape k.desc) ≠ none → f.scrub = .uncorrectable → f.scrubRow = (s.engines[e]).scrubRow →
      ∃ u q, exec (.wavefront e f) s = .next u ∧ (u.engines[e]).active = none ∧ (u.engines[e]).run = none
        ∧ getTk u a.ticket = some q ∧ q.phase = .ended ∧ .eccUncorr ∈ q.causes)

/-- The order of promotions decides the last bit: an entry at +0 that takes 1, 2⁻³² and 2⁻³² stays at FF_8000_0000h, and in the
other order ends at FF_8000_0001h. A promotion that cancels exactly gives +0, and a NaN chunk value makes the total NaN
(R117, R118). -/
def Obligations.PromotionOrderAndCancel : Prop :=
  let one : Val := .fin false 1 0
  let small : Val := .fin false 1 (-32)
  let run (l : List Val) : BitVec 42 := l.foldl (fun x c => promote x c false) 0
  run [one, small, small] = 0xFF80000000#42 ∧ run [small, small, one] = 0xFF80000001#42
  ∧ (∀ (l : BitVec 42) (b sticky : Bool) (m : Nat) (x : Int), longVal l = .fin b m x → promote l (.fin (!b) m x) sticky = 0)
  ∧ ∀ (l : BitVec 42) (sticky : Bool), longVal (promote l .nan sticky) = .nan

/-- Every VEC function runs once its turn has come, its inputs are complete and its outputs have room, and ends: the inputs come
off their queue ends, the values of its formula go out in the target's format to each output in turn; SUMSQ adds its sum to the
norm of its channel, or of its variant context, instead, but not in a replay, and MAXCAP folds its capture. A poisoned row of an input or a poisoned scale
entry gives ECC_UNCORR, and a poisoned scale entry of an input or of any output makes every output the NaN of its format. A VEC that
R101, R434 or R437 does not admit is INVALID and pops nothing. One whose inputs need more entries than its queue ends hold at once pops
those that are complete, and waits for the rest. The formulas whose operations R156 gives bit for bit are those of binary32
(R102, R148, R154, R156, R280, R436). -/
def Obligations.VectorFunctions : Prop :=
  (∀ (s : State) (t : TicketId) (k : Tk) (r : Option (Nat × Nat)) (c : Instr) (f : Nat),
    (c, f) ∈ vecCommands t r →
    Begins s t k → isFn .vec f k.desc = true →
    let v := started s k
    let q := startedTk s k
    let d := k.desc
    let ok (b : Bool) : Prop := vecOk s (takeStart s k) = b ∧ vecOk v q = b
    (ok false → ∃ u x, exec c s = .next u ∧ getTk u t = some x ∧ x.phase = .ended ∧ .invalid ∈ x.causes ∧ u.mem = s.mem
        ∧ u.queues = s.queues ∧ u.homeQueue = s.homeQueue)
    ∧ (∀ a : TakenAll, ok true → popsTurn s k = true → (vecRun s (takeStart s k) none).isSome = true →
        takeInputs v q (vcCount d) (vecInputs f) = some a →
      let sig := (vecInScales v q).1.getD []
      let inBad := (vecInScales v q).2
      let x (i : Nat) := widen (sig.getD i 0) (a.vals.getD i [])
      let y := vecResults f (veRowLen d) (veK d 0) (veK d 1) (veK d 2) (x 0) (x 1) (x 2)
      let bad := inBad || outScaleBad v q
      (∀ w, vecOutputs f = 1 → vecPut a.s q 0 r bad y.1 = some w →
        ∃ u e, exec c s = .next u ∧ getTk u t = some e ∧ e.phase = .ended ∧ e.wrote = true ∧ e.detail = BitVec.ofNat 64 (vecOutCount d)
          ∧ u.homeQueue = w.1.homeQueue ∧ u.queues = w.1.queues ∧ u.mem = w.1.mem ∧ (w.2.nonfinite = true → .nonfinite ∈ e.causes)
          ∧ (a.bad = true ∨ bad = true → .eccUncorr ∈ e.causes) ∧ (r.isSome = true → .residue ∈ e.causes))
      ∧ (∀ w z, vecOutputs f = 2 → vecPut a.s q 0 r bad y.1 = some w → vecPut w.1 q 1 none bad y.2 = some z →
        ∃ u e, exec c s = .next u ∧ getTk u t = some e ∧ e.phase = .ended ∧ e.wrote = true ∧ e.detail = BitVec.ofNat 64 (vecOutCount d)
          ∧ u.homeQueue = z.1.homeQueue ∧ u.queues = z.1.queues ∧ u.mem = z.1.mem
          ∧ (w.2.nonfinite = true ∨ z.2.nonfinite = true → .nonfinite ∈ e.causes) ∧ (a.bad = true ∨ bad = true → .eccUncorr ∈ e.causes))
      ∧ (f = 0x30 → ∃ u e, exec c s = .next u ∧ getTk u t = some e ∧ e.phase = .ended ∧ u.mem = a.s.mem ∧ u.queues = a.s.queues
          ∧ (a.bad = true ∨ inBad = true → .eccUncorr ∈ e.causes)
          ∧ let sum := match r with
              | some p => BitVec.ofNat 32 p.2
              | none => if inBad then f32NaN else rowSum ((x 0).map fun a => f32Mul a a)
            (dVarEn d = false → sparseWf (0, false) s.slots[dSlot d].parts = true →
              let p := sparseGet (0, false) s.slots[dSlot d].parts (veChannel d).val
              sparseGet (0, false) u.slots[dSlot d].parts (veChannel d).val = (if k.isReplay = true then p else (f32Add p.1 sum, p.2))
                ∧ u.slots[dSlot d].variantParts = s.slots[dSlot d].variantParts)
            ∧ (dVarEn d = true → sparseWf (0, false) s.slots[dSlot d].variantParts = true →
              let i := 64 * dVariant d + (veChannel d).val
              let p := sparseGet (0, false) s.slots[dSlot d].variantParts i
              sparseGet (0, false) u.slots[dSlot d].variantParts i = (if k.isReplay = true then p else (f32Add p.1 sum, p.2)) ∧ u.slots[dSlot d].parts = s.slots[dSlot d].parts))
      ∧ (f = 0x50 →
        ∃ u e, exec c s = .next u ∧ getTk u t = some e ∧ e.phase = .ended ∧ u.queues = a.s.queues
          ∧ let lost := inBad || lookScale v q (veTidOut d 0) none == .poisoned
            (lost = false → u.mem = (foldCapture a.s q (veTidOut d 0) (captureOf ((x 0).map f32Val))).mem)
            ∧ (lost = true → u.mem = a.s.mem ∧ .eccUncorr ∈ e.causes))))
  ∧ (∀ (s : State) (t : TicketId) (r : Option (Nat × Nat)) (c : Instr) (f : Nat) (p : Tk) (w : VecRun), (c, f) ∈ vecCommands t r → getTk s t = some p → p.ticket = t → p.phase = .running → p.run = .vec w → w.computed = false →
        isFn .vec f p.desc = true → s.power = .running → unitIsolated s (tkUnit s p) = false → unitWrong s p (entriesRead p) = false →
      let x := drawEntries p (vcCount p.desc) (vecInputs f) 65536 (s, w)
      gotAllInputs p.desc x.2 (vcCount p.desc) (vecInputs f) = false →
      ∃ u e, exec c s = .next u ∧ getTk u t = some e ∧ e.phase = .running ∧ e.run = .vec x.2 ∧ u.queues = x.1.queues ∧ u.mem = s.mem
        ∧ u.homeQueue = s.homeQueue)
  ∧ ∀ (n : Nat) (k0 k1 k2 : BitVec 32) (a b c : List (BitVec 32)),
    (vecResults 0x01 n k0 k1 k2 a b c).1 = a
    ∧ (vecResults 0x02 n k0 k1 k2 a b c).1 = a.map f32Relu
    ∧ (vecResults 0x08 n k0 k1 k2 a b c).1 = a.map (f32Mul k0)
    ∧ (vecResults 0x10 n k0 k1 k2 a b c).1 = (a.zip b).map (fun p => f32Add p.1 p.2)
    ∧ (vecResults 0x11 n k0 k1 k2 a b c).1 = (a.zip b).map (fun p => f32Mul p.1 p.2)
    ∧ (vecResults 0x12 n k0 k1 k2 a b c).1 = ((a.zip b).zip c).map (fun p => f32Fma p.1.1 p.1.2 p.2)
    ∧ (n ≠ 0 → a.length % n = 0 → (vecResults 0x20 n k0 k1 k2 a b c).1.length = a.length / n
        ∧ (vecResults 0x21 n k0 k1 k2 a b c).1.length = a.length
        ∧ ∀ i < a.length / n, (∃ j < n, f32Val ((a.drop (i * n)).getD j 0) = .nan) →
            (vecResults 0x20 n k0 k1 k2 a b c).1.getD i 0 = f32NaN)

/-- CONVERT writes the codes of its input's values in the target's format, row by row to memory, an L4w's block exponents to its second
output, or to a queue end, and ends, one whose input needs more entries than its queue end holds at once popping them as they are
complete; a CONVERT between formats, of a rounding or to an output that R88, R154 or R434 does not admit is
INVALID. That two binary formats are neither an import nor an export is the model's choice (log entry 73). A DRAIN with TARGET OUT
waits for the end token of its set's order, then writes the set's totals, converted row by row, and leaves the set EMPTY and its
entries at +0, with LONGSUM where the set is LONG; a set that is not OPEN under its slot, a retired engine, and an output that R434 does
not admit make it INVALID (R82, R88, R110, R120 to R124, R127, R154). -/
def Obligations.ConvertAndDrainOut : Prop :=
  (∀ (s : State) (t : TicketId) (k : Tk) (r : Option (Nat × Nat)), Begins s t k → isFn .convert 0 k.desc = true →
    let v := started s k
    let q := startedTk s k
    let d := k.desc
    let ok (b : Bool) : Prop := convertOk s (takeStart s k) = b ∧ convertOk v q = b
    (ok false → ∃ u x, exec (.convert t r) s = .next u ∧ getTk u t = some x ∧ x.phase = .ended ∧ .invalid ∈ x.causes ∧ u.mem = s.mem
        ∧ u.queues = s.queues ∧ u.homeQueue = s.homeQueue)
    ∧ (∀ (a : TakenAll) (tg : Target), ok true → popsTurn s k = true → (convertRun s (takeStart s k) none).isSome = true →
        takeInputs v q (vcCount d) 1 = some a → convertTarget v q = some tg →
      let look := convertScale v q
      let sig : Int := match look with | .found x => x | _ => 0
      let bad := tg.poison || look == .poisoned
      let tb : Target := { tg with poison := bad }
      let els : List (Nat × Option Val) :=
        ((List.range (vcCount d)).zip (a.vals.getD 0 [])).map fun p => (vcOrigin d + p.1, some (p.2.scale sig))
      let w := codesFor (drawKeyOf v q tg.domain tg.tid) tb false 512 els
      let codes := withResidue r w.codes
      let done (u : State) : Prop := ∃ e, exec (.convert t r) s = .next u ∧ getTk u t = some e ∧ e.phase = .ended
        ∧ e.detail = BitVec.ofNat 64 (vcCount d) ∧ (w.nonfinite = true → .nonfinite ∈ e.causes)
        ∧ (a.bad = true ∨ bad = true → .eccUncorr ∈ e.causes) ∧ (r.isSome = true → .residue ∈ e.causes)
      (∀ g, dOutW d 0 = .memory g → tg.fmt ≠ .l4w →
        ∃ u, done u ∧ u.homeQueue = (writeRows a.s q g (cvPitch d) (rowsBytes tg.fmt 512 codes)).homeQueue ∧ u.queues = a.s.queues)
      ∧ (∀ g h, dOutW d 0 = .memory g → dOutW d 1 = .memory h → tg.fmt = .l4w →
        let xs := (l4wBlocks 512 (els.map fun p => if bad then none else p.2.map fun v => v.scale (-tg.sigma))).2
        ∃ u, done u ∧ u.homeQueue = (writeRows (writeRows a.s q g (cvPitch d) (rowsBytes tg.fmt 512 codes)) q h (2 * cvPitch d)
            (xs.map fun r => r.map i8)).homeQueue ∧ u.queues = a.s.queues)
      ∧ (∀ n o, dOutW d 0 = .queue n → pushElements a.s q n tg.fmt codes = some o →
        ∃ u, done u ∧ u.queues = o.queues ∧ u.homeQueue = a.s.homeQueue)))
  ∧ (∀ (s : State) (t : TicketId) (k : Tk) (r : Option (Nat × Nat)) (w : VecRun), getTk s t = some k → k.ticket = t → k.phase = .running →
      k.run = .vec w → w.computed = false → isFn .convert 0 k.desc = true → s.power = .running → unitIsolated s (tkUnit s k) = false →
      unitWrong s k (entriesRead k) = false →
    let x := drawEntries k (vcCount k.desc) 1 65536 (s, w)
    gotAllInputs k.desc x.2 (vcCount k.desc) 1 = false →
    ∃ u e, exec (.convert t r) s = .next u ∧ getTk u t = some e ∧ e.phase = .running ∧ e.run = .vec x.2 ∧ u.queues = x.1.queues ∧ u.mem = s.mem
      ∧ u.homeQueue = s.homeQueue)
  ∧ (∀ (s : State) (t : TicketId) (k : Tk) (r : Option (Nat × Nat)) (bank : List BankFault), Begins s t k → isDrain 0 false k.desc = true →
    let v := started s k
    let q := startedTk s k
    let d := k.desc
    let e := tkEng s k
    let m := dAccSet d
    let set := accSet s e m
    let c : Instr := .drainOut t r bank
    let refused : Prop := ∃ u x, exec c s = .next u ∧ getTk u t = some x ∧ x.phase = .ended ∧ .invalid ∈ x.causes ∧ u.homeQueue = s.homeQueue
      ∧ u.mem = s.mem ∧ u.queues = s.queues
    (engRetired s e = true → refused)
    ∧ (engRetired s e = false → tokenHere set (dAccSeq d) = false → ∃ u x, exec c s = .next u ∧ getTk u t = some x ∧ x.phase = .running
        ∧ x.run = .drain { judged := false, rowsSent := 0 } ∧ u.accs = s.accs ∧ u.homeQueue = s.homeQueue)
    ∧ (engRetired s e = false → tokenHere set (dAccSeq d) = true → setMine s k = false → refused)
    ∧ (engRetired s e = false → tokenHere set (dAccSeq d) = true → setMine s k = true →
        ((dOut d 0).bind fun f => targetOf v q f (drTid d) (drDomain d) (drB d) true) = none → refused)
    ∧ (∀ tg, engRetired s e = false → tokenHere set (dAccSeq d) = true → setMine s k = true →
        ((dOut d 0).bind fun f => targetOf v q f (drTid d) (drDomain d) (drB d) true) = some tg →
      let b := drainFindings v e set.base set.rows bank
      let els := drainElements b e set d tg.sigma
      let w := codesFor (drawKeyOf v q (drDomain d) (drTid d)) tg true (drCols d) els
      let rows := rowsBytes tg.fmt (drCols d) (withResidue r w.codes)
      let done (u : State) : Prop := ∃ x, exec c s = .next u ∧ getTk u t = some x ∧ x.phase = .ended ∧ x.detail = BitVec.ofNat 64 set.rows
        ∧ (set.long = true → .longsum ∈ x.causes) ∧ (w.nonfinite = true → .nonfinite ∈ x.causes)
        ∧ (tg.poison = true ∨ (∃ p ∈ els, p.2 = none) → .eccUncorr ∈ x.causes) ∧ (r.isSome = true → .residue ∈ x.causes)
        ∧ (accSet u e m).state = .empty
        ∧ (∀ row col, set.base ≤ row → row < set.base + set.rows → col < 512 → bankGet u e row col = 0)
        ∧ (∀ row col, col < 512 → row < set.base ∨ set.base + set.rows ≤ row → bankGet u e row col = bankGet s e row col)
        ∧ (∀ n : Fin 16, n ≠ m → accSet u e n = accSet s e n)
      (drainOk v q set.rows tg = false → refused)
      ∧ (∀ g, drainOk v q set.rows tg = true → dOutW d 0 = .memory g →
          ∃ u, done u ∧ u.homeQueue = (writeRows b q g (drPitch d) rows).homeQueue ∧ u.queues = s.queues)
      ∧ (∀ n o, drainOk v q set.rows tg = true → dOutW d 0 = .queue n → pushTurn b q n = true →
          pushRows b q n (pushPitch tg.fmt) (rowBytes tg.fmt (drCols d)) tg.fmt.code [set.rows] rows = some o →
          ∃ u, done u ∧ u.queues = o.queues ∧ u.homeQueue = s.homeQueue)))

/-- A DRAIN with TARGET ENGINE waits for its set's end token, END_TOKEN judges it, and TOTALS_ROW sends its rows to the set that
expects them, and waits while none does: a SEED's set takes them as its opening values unchanged, with their guard count beside its
own MATMUL's, an ACCEPT promotes each as one more chunk value, a set of another number of rows becomes INVALID, and one under another epoch takes none; the last row leaves the sending set
EMPTY and ends the DRAIN. FORCE makes the set INVALID at once, its DRAIN ends with INVALID, and the set's abandon marker makes the sets
that wait for its totals INVALID (R114, R121, R122, R125 to R129). -/
def Obligations.TotalsBetweenSets : Prop :=
  (∀ (s : State) (t : TicketId) (k : Tk), Begins s t k → isDrain 1 false k.desc = true →
    let e := tkEng s k
    let here := tokenHere (accSet s e (dAccSet k.desc)) (dAccSeq k.desc)
    (engRetired s e = false → here = false ∨ setMine s k = true → ∃ u x, exec (.drainEngine t) s = .next u ∧ getTk u t = some x
        ∧ x.phase = .running ∧ x.run = .drain { judged := here, rowsSent := 0 } ∧ u.accs = s.accs)
    ∧ (engRetired s e = true ∨ (here = true ∧ setMine s k = false) → ∃ u x, exec (.drainEngine t) s = .next u ∧ getTk u t = some x
        ∧ x.phase = .ended ∧ .invalid ∈ x.causes))
  ∧ (∀ (s : State) (t : TicketId) (k : Tk) (n : Nat), getTk s t = some k → k.ticket = t → s.power = .running →
    dFamily k.desc = some .drain → k.phase = .running → k.run = .drain { judged := false, rowsSent := n } → unitIsolated s (tkUnit s k) = false →
    unitWrong s k [] = false →
    tokenHere (accSet s (tkEng s k) (dAccSet k.desc)) (dAccSeq k.desc) = true →
    ∃ u x, exec (.endToken t) s = .next u ∧ getTk u t = some x
      ∧ (setMine s k = true → x.phase = .running ∧ x.run = .drain { judged := true, rowsSent := n })
      ∧ (setMine s k = false → x.phase = .ended ∧ .invalid ∈ x.causes))
  ∧ (∀ (s : State) (e : Eng) (m : Fin 16) (residue : Option (Fin 512 × BitVec 42)) (bank taken : List BankFault) (promo : List PromoFault)
      (k : Tk) (r : DrainRun),
    let de := tkEngine s k (dDestEngine k.desc)
    let dm := dDestSet k.desc
    let a := accSet s e m
    let b := accSet s de dm
    let c : Instr := .totalsRow e m residue { bank := bank, taken := taken, promo := promo }
    let sent (u : State) : Prop := exec c s = .next u ∧ ∃ x, getTk u k.ticket = some x ∧ (residue.isSome = true → .residue ∈ x.causes)
      ∧ (r.rowsSent + 1 < a.rows → x.run = .drain { r with rowsSent := r.rowsSent + 1 })
      ∧ (r.rowsSent + 1 = a.rows → x.phase = .ended ∧ (a.long = true → .longsum ∈ x.causes) ∧ (accSet u e m).state = .empty)
    sendingDrain s e m = some (k, r) → getTk s k.ticket = some k → s.power = .running → unitIsolated s (.engine e) = false →
    unitWrong s k [] = false →
    r.rowsSent < a.rows → (e, m) ≠ (de, dm) →
    (b.incoming = none → k.wrote = false → dEpoch k.desc = (s.slots[dSlot k.desc]).epoch → exec c s = .next s)
    ∧ (∀ i, b.incoming = some i → i.src = e → i.srcSet = m →
      (i.epoch ≠ dEpoch k.desc → ∃ u, sent u ∧ accSet u de dm = b)
      ∧ (i.epoch = dEpoch k.desc → b.state = .opened → a.rows ≠ b.rows → ∃ u, exec c s = .next u ∧ (accSet u de dm).state = .invalid)
      ∧ (i.epoch = dEpoch k.desc → b.state = .opened → a.rows = b.rows → a.state = .opened →
          (e ≠ de ∨ a.base + a.rows ≤ b.base ∨ b.base + b.rows ≤ a.base) → sparseWf 0 (s.accs[de]).bank = true →
          residue = none → bank = [] → taken = [] → promo = [] →
        ∃ u, sent u
          ∧ (i.seed = true → ∀ c < 512, bankGet u de (b.base + r.rowsSent) c = bankGet s e (a.base + r.rowsSent) c)
          ∧ (i.seed = false → ∀ c < 512, bankPoison s e (a.base + r.rowsSent) c = false → bankPoison s de (b.base + r.rowsSent) c = false →
              bankGet u de (b.base + r.rowsSent) c
                = promote (bankGet s de (b.base + r.rowsSent) c) (longVal (bankGet s e (a.base + r.rowsSent) c)) false)
          ∧ (i.seed = true → r.rowsSent = 0 → (accSet u de dm).guard = min 65536 (b.guard + a.guard)
              ∧ (accSet u de dm).long = (b.long || a.long || decide (65536 < b.guard + a.guard)))
          ∧ (r.rowsSent + 1 < a.rows → (accSet u de dm).incoming = some { i with arrived := r.rowsSent + 1 } ∧ (accSet u e m).state = a.state)
          ∧ (r.rowsSent + 1 = a.rows → (accSet u de dm).incoming = none
              ∧ (i.seed = false → (accSet u de dm).ended = b.ended + 1 ∧ (accSet u de dm).guard = min 65536 (b.guard + 1))))))
  ∧ (∀ (s : State) (t : TicketId) (k : Tk), Begins s t k → isDrain 0 true k.desc = true →
    let e := tkEng s k
    ∃ u x, exec (.drainForce t) s = .next u ∧ getTk u t = some x ∧ x.phase = .ended ∧ .invalid ∈ x.causes
      ∧ (accSet u e (dAccSet k.desc)).state = .invalid ∧ (accSet u e (dAccSet k.desc)).marker = true
      ∧ (∀ n : Fin 16, n ≠ dAccSet k.desc → accSet u e n = accSet s e n) ∧ u.mem = s.mem ∧ u.queues = s.queues)
  ∧ (∀ (s : State) (e : Eng) (m : Fin 16), s.power = .running → (accSet s e m).marker = true →
    let waits (f : Eng) (n : Fin 16) : Prop := ∃ i, (accSet s f n).incoming = some i ∧ i.src = e ∧ i.srcSet = m
    ∃ u, exec (.abandonMarker e m) s = .next u ∧ (¬ waits e m → (accSet u e m).marker = false)
      ∧ (∀ f n, waits f n → (accSet u f n).state = .invalid ∧ (accSet u f n).incoming = none)
      ∧ (∀ f n, ¬ waits f n → (f, n) ≠ (e, m) → accSet u f n = accSet s f n) ∧ u.mem = s.mem)

/-! ## Streams, transfers and homes -/

/-- A STREAM that R190 admits begins before its first entry, one that narrows with the exponent of its scale entry, or poisoned with it;
another one is INVALID. An entry may start while fewer than LEAD entries are outstanding at its queue end, or at any time where LEAD is 0;
it then claims its strips in full and reads its rows, or its index first, and waits while strips are short; under a poisoned scale entry
every row is poisoned and nothing is read (R190, R191, R197 to R199, R436).

READ_DATA_ARRIVAL takes the index, once all its bursts have come, and then lands rows: a row whose bursts have come lands in the
entry and a block row is valid once its eight rows have landed; the row of a PAD, and a row that may not be read or was refused, leave
the entry's bytes as they were claimed, the second with INVALID and a count; a poisoned burst and a residue failure of the narrowing
poison the stored rows, with ECC_UNCORR; data that arrives for a STREAM of an old epoch is discarded. The last row ends the entry, and the last entry the STREAM (R73, R192, R193, R196, R198, R202).

A read outstanding at another module for too long is counted, and the first one ends the STREAM with TIMEOUT, its entry as it was
claimed, though all its rows may have landed; a row that lands later still lands (R203, R204). That the expiry is counted per read is the model's choice (log entry 76). -/
def Obligations.StreamFillsEntries : Prop :=
  (∀ (s : State) (t : TicketId) (k : Tk) (c : Instr) (f : Nat), (c, f) ∈ [(.streamLinear t, 0), (.streamIndexed t, 1)] →
    Begins s t k → isFn .stream f k.desc = true →
    let v := started s k
    let q := startedTk s k
    let look := if narrows k.desc then sigmaFor v q (stTid k.desc) .l8f else .found 0
    let runs (x : Int) (bad : Bool) : Prop :=
      ∃ u, exec c s = .next u ∧ SettledFrom (modTk v t fun y => { y with run := .stream (freshStream k.desc x bad) }) u
    (streamOk v q = false ∨ look = .invalid →
      ∃ u x, exec c s = .next u ∧ getTk u t = some x ∧ x.phase = .ended ∧ .invalid ∈ x.causes ∧ u.queues = s.queues ∧ u.homeQueue = s.homeQueue)
    ∧ (∀ x, streamOk v q = true → look = .found x → runs x false) ∧ (streamOk v q = true → look = .poisoned → runs 0 true))
  ∧ (∀ (s : State) (t : TicketId) (k : Tk) (r : StreamRun), runningStream s t = some (k, r) → k.ticket = t →
    unitWrong s k (entriesRead k) = false →
    let d := k.desc
    let o := outQueue d
    let lead := stLead d
    let n := outstanding s k.shelf o
    let e := blankEntry k (stRows d) (stPitchOut d) (storedWidth d) (dFmtOut d 0) (stPack d)
    (r.stage = .waitLead → streamTurn s k = true → lead = 0 ∨ n < lead → ∃ u q, exec (.streamEntryStart t) s = .next u
      ∧ getTk u t = some q ∧ q.run = .stream { r with stage := .waitStrips } ∧ q.phase = .running ∧ u.queues = s.queues)
    ∧ (r.stage ≠ .waitLead ∨ streamTurn s k = false ∨ (lead ≠ 0 ∧ lead ≤ n) → exec (.streamEntryStart t) s = .next s)
    ∧ (r.stage ≠ .waitStrips ∨ pushTurn s k o = false ∨ claimEntry s k.shelf o e = none → exec (.stripClaim t) s = .next s)
    ∧ ∀ s1 id, r.stage = .waitStrips → pushTurn s k o = true → claimEntry s k.shelf o e = some (s1, id) →
      let r1 : StreamRun := { r with stage := .reading, entryId := id, index := [], landed := [], got := [] }
      let s2 := modTk s1 t fun x => { x with run := .stream r1 }
      ∃ u, exec (.stripClaim t) s = .next u ∧ u.mem = s.mem
        ∧ (r.scalePoison = false → u.queues = s1.queues
            ∧ SettledFrom (if stIndexed d = true then issueIndex s2 k r1 else issueRows s2 k []) u)
        ∧ (r.scalePoison = true → u.homeQueue = s.homeQueue
            ∧ u.queues = (modEntry s1 k.shelf o id fun e => { e with poison := List.range e.rows, valid := List.range (e.rows / 8) }).queues
            ∧ ∃ x, getTk u t = some x ∧ .eccUncorr ∈ x.causes ∧ (namesRefused s d r1 = true → .invalid ∈ x.causes) ∧ (x.phase = .ended ↔ r.entries ≤ r.entry + 1)))
  ∧ (∀ (s : State) (t : TicketId) (k : Tk) (r : StreamRun) (row : Nat) (residue : Bool), arrivingStream s t row = some (k, r) → s.power = .running →
    unitIsolated s (tkUnit s k) = false → unitWrong s k [] = false → sparseWf [] s.queues = true →
    let d := k.desc
    let q := outQueue d
    let c : Instr := .readDataArrival t row residue
    let old := entriesOf s k.shelf q
    let landed := r.landed ++ [row]
    let lands (f : Entry → Entry) (u : State) : Prop := exec c s = .next u ∧ u.flags = s.flags ∧ u.homeQueue = s.homeQueue
      ∧ entriesOf u k.shelf q = old.map fun e => if e.id = r.entryId then { f e with valid := validBlocks d landed } else e
    let caused (x : Status) (u : State) : Prop := instTk s k.ticket k.inst = some k → ∃ y, instTk u k.ticket k.inst = some y ∧ x ∈ y.causes
    (indexPending d r = true → ∃ u, exec c s = .next u ∧ SettledFrom (takeIndex s k r) u)
    ∧ (indexPending d r = false →
      (sourceAt d r.index row = none → ∃ u, lands id u)
      ∧ (∀ g n, sourceAt d r.index row = some (g, n) → sourceOk s g n = false ∨ (fetchBytes s r g n).refused = true →
          ∃ u, lands id u ∧ caused .invalid u
            ∧ (u.dies[tkHost s k]).invalidRows = countUp (s.dies[tkHost s k]).invalidRows)
      ∧ (∀ g n, sourceAt d r.index row = some (g, n) → sourceOk s g n = true → (fetchBytes s r g n).refused = false →
          let f := fetchBytes s r g n
          let wrong := f.bad || (residue && narrows d)
          ∃ u, lands (fun e =>
              let e := placeRow d e row (r.index.getD row 0) (storedBytes d r.sigma f.bytes)
              if wrong then { e with poison := (poisons d row).foldl addOnce e.poison } else e) u
            ∧ (wrong = true → caused .eccUncorr u))
      ∧ (entryLanded d { r with landed := landed } = true → getTk s k.ticket = some k → k.phase = .running → r.expired = [] →
          ∃ u x, exec c s = .next u ∧ getTk u k.ticket = some x
            ∧ (r.entry + 1 < r.entries → x.phase = .running ∧ ∃ y, x.run = .stream y ∧ y.stage = .waitLead ∧ y.entry = r.entry + 1)
            ∧ (r.entries ≤ r.entry + 1 → x.phase = .ended ∧ x.detail = BitVec.ofNat 64 (r.bytes + stRows d * stPitchOut d)))))
  ∧ (∀ (s : State) (t : TicketId) (tag : Fin 8192) (k : Tk) (r : StreamRun), timedRead s t tag.val = some (k, r) → s.power = .running →
    unitIsolated s (tkUnit s k) = false →
    ∃ u, exec (.streamReadTimeout (t, tag)) s = .next u ∧ u.queues = s.queues ∧ u.homeQueue = s.homeQueue
      ∧ (u.dies[tkHost s k]).timedOut = countUp (s.dies[tkHost s k]).timedOut
      ∧ (k.phase = .running → getTk s t = some k → ∃ q, getTk u t = some q ∧ q.phase = .ended ∧ .timeout ∈ q.causes
          ∧ ∃ y, q.run = .stream y ∧ tag.val ∈ y.expired)
      ∧ (k.phase = .ended → r.expired = [] → getTk s t = some k → ∃ q, getTk u t = some q ∧ q.phase = .ended ∧ .timeout ∈ q.causes)
      ∧ (k.phase ≠ .running → u.mem = s.mem ∧ (r.expired ≠ [] → u.waitReqs = s.waitReqs) ∧ ∀ x, getTk s x ≠ none → getTk u x ≠ none))
  ∧ (∀ (s : State) (t : TicketId) (k : Tk) (r : StreamRun) (row : Nat) (residue : Bool), getTk s t = some k → streamOf k = some r →
    (s.lingering.filter fun o => o.ticket == t) = [] → r.stage ≠ .reading ∨ dEpoch k.desc ≠ (s.slots[dSlot k.desc]).epoch ∨ row ∈ r.landed →
    indexPending k.desc r = false → exec (.readDataArrival t row residue) s = .next s)
  ∧ ∀ (s : State) (t : TicketId), (∀ row residue, arrivingStream s t row = none → exec (.readDataArrival t row residue) s = .next s)
    ∧ (runningStream s t = none → exec (.streamEntryStart t) s = .next s ∧ exec (.stripClaim t) s = .next s)
    ∧ ∀ tag : Fin 8192, timedRead s t tag.val = none → exec (.streamReadTimeout (t, tag)) s = .next s

/-- PUT issues the bytes of its source as writes, to the homes for a DST of this module and as WRITE flits for another, and ends
with the bytes as its DETAIL, with ECC_UNCORR where a burst of its source was bad. GET reads its source, asks another module in READ
flits of at most 256 bursts, and ends once every burst has come; into a queue end it claims its entries first, one by one as each finds
its strips, and waits while an earlier descriptor has still to claim there. A transfer that R155 or R210 does not admit is INVALID. A request outstanding at
another module for too long ends it with TIMEOUT, once (R155, R210, R264, R268, R269). -/
def Obligations.PutAndGet : Prop :=
  (∀ (s : State) (t : TicketId) (k : Tk), Begins s t k → isXfer 0 k.desc = true →
    let v := started s k
    let q := startedTk s k
    let n := pgBytes k.desc
    let src := globalLocal (pgSrc k.desc)
    let r := readBursts v src n
    (putOk v q = false → ∃ u x, exec (.put t) s = .next u ∧ getTk u t = some x ∧ x.phase = .ended ∧ .invalid ∈ x.causes
      ∧ u.mem = s.mem ∧ u.homeQueue = s.homeQueue ∧ u.fabReqs = s.fabReqs)
    ∧ (putOk v q = true → spanBad s src n = false → r.2.1.flatten = memBytes s src n ∧ r.2.2.1 = none)
    ∧ (putOk v q = true →
      let w := writeOn r.1 q (pgVc k.desc) (pgDst k.desc) r.2.1.flatten
      ∃ u x, exec (.put t) s = .next u ∧ getTk u t = some x ∧ x.phase = .ended ∧ x.detail = BitVec.ofNat 64 n
        ∧ (r.2.2.1 ≠ none → .eccUncorr ∈ x.causes) ∧ (r.2.2.2 = true → .hot ∈ x.causes)
        ∧ u.homeQueue = w.homeQueue ∧ u.fabReqs = w.fabReqs ∧ u.waitReqs = w.waitReqs ∧ u.queues = s.queues ∧ u.flags = s.flags))
  ∧ (∀ (s : State) (t : TicketId) (k : Tk), Begins s t k → isXfer 1 k.desc = true →
    let v := started s k
    let q := startedTk s k
    let n := pgBytes k.desc
    let src := globalLocal (pgSrc k.desc)
    let run : XferRun := { entries := [], landed := [], todo := getEntryRows k.desc }
    let w := modTk v t fun y => { y with run := .xfer run }
    (getOk v q = false → (∀ x, dOutW k.desc 0 = .queue x → getOk s k = false) →
      ∃ u x, exec (.get t) s = .next u ∧ getTk u t = some x ∧ x.phase = .ended ∧ .invalid ∈ x.causes
      ∧ u.mem = s.mem ∧ u.homeQueue = s.homeQueue ∧ u.fabReqs = s.fabReqs)
    ∧ (getOk v q = true → dOutW k.desc 0 = .none → isLocal s (pgSrc k.desc) = true → instBusy s k.inst = false → spanBad s src n = false →
        k.parent = none → k.isReplay = false → anyArmed s = false →
      ∃ u x, exec (.get t) s = .next u ∧ getTk u t = some x ∧ x.phase = .ended ∧ x.detail = BitVec.ofNat 64 n
        ∧ u.homeQueue = s.homeQueue ++ (List.range (n / 256)).flatMap fun i =>
            (burstParts 257 (globalLocal (pgDst k.desc) + 256 * i) (memBytes s (src + 256 * i) 256)).map fun p => match p.2.2 with
              | none => HomeReq.write k.inst t p.1 p.2.1
              | some m => HomeReq.masked k.inst t p.1 p.2.1 m)
    ∧ (∀ x, getOk s k = true → dOutW k.desc 0 = .queue x → pushTurn s k x = false ∨ claimsAll s k x 512 (run.todo.take 1) = false →
        exec (.get t) s = .next s)
    ∧ (∀ x, getOk s k = true → getOk v q = true → dOutW k.desc 0 = .queue x → pushTurn s k x = true →
        claimsAll s k x 512 (run.todo.take 1) = true →
      ∃ u, exec (.get t) s = .next u ∧ SettledFrom (getEntries w q x run 0) u
        ∧ ((claimRows w q x run.todo 0).2.2 = [] → isLocal s (pgSrc k.desc) = true → instBusy s k.inst = false → anyArmed s = false →
            ∃ y, getTk u t = some y ∧ y.phase = .ended ∧ y.detail = BitVec.ofNat 64 n))
    ∧ (getOk v q = true → dOutW k.desc 0 = .none → isLocal s (pgSrc k.desc) = false → 256 ≤ n → pgSrc k.desc < 2 ^ 56 →
        Reaches s (pgSrc k.desc / localSize) →
      ∃ u x, exec (.get t) s = .next u ∧ getTk u t = some x ∧ x.phase = .running ∧ (reqsOf u).any (fun r => r.inst == some k.inst) = true
        ∧ u.mem = s.mem ∧ u.homeQueue = s.homeQueue))
  ∧ (∀ (s : State) (t : TicketId) (k : Tk) (r : XferRun) (x : Nat), getTk s t = some k → s.power = .running → isXfer 1 k.desc = true →
    k.phase = .running → k.run = .xfer r → dOutW k.desc 0 = .queue x → r.todo ≠ [] → unitIsolated s (tkUnit s k) = false →
    unitWrong s k (entriesRead k) = false →
    ∃ u, exec (.get t) s = .next u ∧ SettledFrom (getEntries s k x r (rowsClaimed k.desc r)) u)
  ∧ (∀ (s : State) (t : TicketId) (k : Tk), getTk s t = some k → k.ticket = t → s.power = .running → dFamily k.desc = some .putget →
    (k.phase = .ended ∨ k.phase = .running → .timeout ∉ k.causes → timedAbroad s k.inst = true →
      ∃ u q, exec (.fabricOpTimeout t) s = .next u ∧ getTk u t = some q ∧ q.phase = .ended ∧ .timeout ∈ q.causes
        ∧ u.fabReqs = s.fabReqs ∧ (∀ y ∈ u.waitReqs, y.1.inst ≠ some k.inst) ∧ u.mem = s.mem)
    ∧ ((k.phase ≠ .ended ∧ k.phase ≠ .running) ∨ .timeout ∈ k.causes ∨ timedAbroad s k.inst = false →
      exec (.fabricOpTimeout t) s = .next s))

/-- A home serves a queued request once no earlier one of the same descriptor waits for the same burst; that requests of different
descriptors overtake one another on their way is the model's choice (log entry 57). A whole write lays its 256 bytes, a masked one
those under its mask, and every other byte stays; a burst that is written whole is no longer poisoned, and one of a tripped stack
stays as it was. A read hands its burst's bytes to the STREAM that asked; what the code finds uncorrectable is poisoned, and a masked
write leaves a poisoned burst as it was. The places behind the queue are those of the head die's requests that a hold kept waiting
(R211, R212, R214 to R217, R222, R329).

The scrubber of a home at which no request waits and whose stack is not at level 05h or 06h reads burst after burst and counts its passes; a corrected burst waits to
be written back, behind the requests that wait, with its bytes as they are. A sample of a stack's hottest sensor sets its class, trips it from 115 °C on,
throttles it to level 05h from 105 °C on, and starts level 01h as it enters WARNING from level 00h; a step moves a level 01h to 04h
up in WARNING and down in NORMAL below 92 °C; a tripped stack stays tripped (R216, R218 to R220, R222). -/
def Obligations.HomesAndHeat : Prop :=
  (∀ (s : State) (pos inst b : Nat) (t : TicketId) (data : List Byte) (mask : List Bool) (code : Ecc), s.memWf = true →
    let others (u : State) : Prop := (∀ x, x / 256 ≠ b → memByte u x = memByte s x) ∧ u.homeQueue = s.homeQueue.eraseIdx pos
      ∧ u.queues = s.queues ∧ u.flags = s.flags ∧ u.rings = s.rings ∧ u.engines = s.engines
    let found := code.worse (standing s b)
    (s.homeQueue[pos]? = some (.write inst t b data) → servable s pos b = true → heldBurst s b = false → data.length = 256 →
      ∃ u, exec (.homeAccess pos code) s = .next u ∧ others u
        ∧ (burstTripped s b = false → burstBytes u b = data ∧ isPoison u b = false)
        ∧ (burstTripped s b = true → u.mem = s.mem ∧ u.poison = s.poison))
    ∧ (s.homeQueue[pos]? = some (.masked inst t b data mask) → servable s pos b = true → heldBurst s b = false →
      ∃ u, exec (.maskedWrite pos code) s = .next u ∧ others u
        ∧ (burstTripped s b = false → isPoison s b = false → found ≠ .uncorrectable → ∀ i < 256, memByte u (256 * b + i)
            = if mask.getD i false = true then data.getD i 0 else memByte s (256 * b + i))
        ∧ (isPoison s b = true ∨ (found = .uncorrectable ∧ burstTripped s b = false ∧ burstHome b ≠ none) →
            isPoison u b = true ∧ u.mem = s.mem))
    ∧ (s.homeQueue[pos]? = some (.read inst t b) → servable s pos b = true →
      (∃ u, exec (.homeAccess pos code) s = .next u ∧ others u)
      ∧ (anyArmed s = false → isPoison s b = false → burstTripped s b = false → found = .clean → ∃ u, exec (.homeAccess pos code) s = .next u
          ∧ SettledFrom (modInst (dropReq s pos) t inst (bringBurst b (burstBytes s b) false (burstHot s b))) u)
      ∧ (anyArmed s = false → isPoison s b = true → ∃ u, exec (.homeAccess pos code) s = .next u
          ∧ SettledFrom (modInst (dropReq s pos) t inst (bringBurst b (burstBytes s b) true (burstHot s b))) u)
      ∧ (burstHome b ≠ none → burstTripped s b = false → found = .uncorrectable →
          ∃ u, exec (.homeAccess pos code) s = .next u ∧ isPoison u b = true))
    ∧ (∀ r, s.homeQueue[pos]? = some r → servable s pos r.burst = false →
        exec (.homeAccess pos code) s = .next s ∧ exec (.maskedWrite pos code) s = .next s)
    ∧ (heldBurst s b = true → (s.homeQueue[pos]? = some (.write inst t b data) → exec (.homeAccess pos code) s = .next s)
        ∧ (s.homeQueue[pos]? = some (.masked inst t b data mask) → exec (.maskedWrite pos code) s = .next s))
    ∧ (s.homeQueue[pos]? = none → let head (masked : Bool) : State := serveHead (pos - s.homeQueue.length) masked s
        (∃ u, exec (.homeAccess pos code) s = .next u ∧ SettledFrom (head false) u)
        ∧ ∃ u, exec (.maskedWrite pos code) s = .next u ∧ SettledFrom (head true) u))
  ∧ ((∀ (s : State) (h : Home) (code : Ecc) (arisen : List Upset), s.power = .running →
    let n := (s.homes[h]).scrubBurst
    let b := homeBase h / 256 + n
    let found := code.worse (standing { s with upsets := s.upsets ++ arisen } b)
    (5 ≤ homeLevel s h ∨ homeWaits s h = true → exec (.patrolScrub h (code, arisen)) s = .next s)
    ∧ (homeLevel s h < 5 → homeWaits s h = false → ∃ u, exec (.patrolScrub h (code, arisen)) s = .next u ∧ u.mem = s.mem
      ∧ (u.homes[h]).scrubBurst = (if n + 1 = homeBursts h then 0 else n + 1)
      ∧ (n + 1 = homeBursts h → (u.homes[h]).scrubPasses = countUp (s.homes[h]).scrubPasses)
      ∧ (found = .clean → u.poison = s.poison ∧ u.writebacks = s.writebacks)
      ∧ (burstHome b = some h → found = .corrected → isPoison s b = false → sparseGet false u.writebacks b = true ∧ u.poison = s.poison)
      ∧ (burstHome b = some h → found = .uncorrectable → isPoison u b = true)))
  ∧ (∀ (s : State) (b : Nat), (sparseGet false s.writebacks b = true → (∀ h, burstHome b = some h → homeWaits s h = false) →
      ∃ u, exec (.memoryWriteback b) s = .next u
        ∧ SettledFrom (freshCheck { s with writebacks := sparseSet false s.writebacks b false } b) u)
    ∧ (sparseGet false s.writebacks b = false ∨ (∃ h, burstHome b = some h ∧ homeWaits s h = true) → exec (.memoryWriteback b) s = .next s))
  ∧ (∀ (s : State) (h : Stack) (m : Int), s.power = .running →
    let old := s.homes[stackHome h]
    ∃ u, exec (.stackClassSample h m) s = .next u ∧ (u.homes[stackHome h]).class_ = some (heatClass m)
      ∧ (old.level = 6 ∨ 115000 ≤ m → (u.homes[stackHome h]).level = 6)
      ∧ (old.level ≠ 6 → 105000 ≤ m → m < 115000 → (u.homes[stackHome h]).level = 5)
      ∧ (old.level = 0 → 95000 ≤ m → m < 105000 → old.class_.getD 0 = 0 → (u.homes[stackHome h]).level = 1)
      ∧ (old.level ≠ 6 → old.level ≠ 5 → m < 95000 → (u.homes[stackHome h]).level = old.level)
      ∧ (old.level = 5 → m < 105000 → (u.homes[stackHome h]).level = if m < 102000 then 4 else 5)
      ∧ (∀ i, i ≠ stackHome h → u.homes[i] = s.homes[i]) ∧ u.mem = s.mem)
  ∧ (∀ (s : State) (h : Stack) (m : Int), s.power = .running →
    let old := s.homes[stackHome h]
    ∃ u, exec (.throttleStep h m) s = .next u
      ∧ (u.homes[stackHome h]).level
        = (if old.level = 0 ∨ old.level = 5 ∨ old.level = 6 then old.level
           else if old.class_ = some 1 then (if old.level = 4 then 4 else old.level + 1)
           else if old.class_.getD 0 = 0 ∧ m < 92000 then old.level - 1 else old.level)
      ∧ u.mem = s.mem ∧ u.tickets = s.tickets))

/-- An atomic of the head die on a populated, aligned word of this module reads the old value, stores the operation's result in
its 4 or 8 bytes and no other, and completes with the old value; ATOMIC_CAS stores its replacement where the old value is the expected
one. Elsewhere it completes with INVALID, and with ECC_UNCORR on a burst that is poisoned, lost or found uncorrectable. On a burst that
a copy holds, or that an earlier request of the head die waits for, it waits in turn (R211, R329).

A Ringmaster's AMO on memory that its context reaches does the same and hands the old value to the context, on its private memory too;
one of a replay writes nothing. A misaligned one traps, and so does one that its context does not reach, one that meets a double-bit
error, and one to a slot of its ring X that is not free (R167, R168, R173, R176, R233, R234, R307). -/
def Obligations.AtomicOperations : Prop :=
  ∀ (s : State) (tag : BitVec 10) (addr : BitVec 56) (wide : Bool) (x y : BitVec 64), s.memWf = true →
    let ops (p : Option (Die × CtxId)) : List (Instr × AtomicOp) :=
      [(.atomicAdd p tag addr wide x, .add), (.atomicSwap p tag addr wide x, .swap), (.atomicAnd p tag addr wide x, .and_),
       (.atomicOr p tag addr wide x, .or_), (.atomicXor p tag addr wide x, .xor_), (.atomicMin p tag addr wide x, .min),
       (.atomicMax p tag addr wide x, .max), (.atomicMinu p tag addr wide x, .minu), (.atomicMaxu p tag addr wide x, .maxu)]
    let n := if wide = true then 8 else 4
    let stores (u : State) (a n : Nat) (l : List Byte) : Prop :=
      memBytes u a n = l ∧ (∀ i, i < a ∨ a + n ≤ i → memByte u i = memByte s i) ∧ u.flags = s.flags ∧ u.queues = s.queues ∧ u.rings = s.rings
    let a := globalLocal addr.toNat
    let good (n : Nat) : Prop := isLocal s addr.toNat = true ∧ a % n = 0 ∧ populated a n = true
    let waits : Bool := headWaits s s.headQueue (a / 256)
    let refuses (c : Instr) (n : Nat) (o : HeadOp) : Prop :=
      (¬ good n → ∃ u, exec c s = .next u ∧ SettledFrom { s with sent := s.sent ++ [.completion tag .invalid none] } u)
      ∧ (good n → waits = false → spanBad s a n = true →
          ∃ u, exec c s = .next u ∧ SettledFrom (emit (findSpan s a n) (.completion tag .eccUncorr none)) u)
      ∧ (good n → waits = true → ∃ u, exec c s = .next u ∧ SettledFrom { s with headQueue := s.headQueue ++ [.atomic tag a o] } u)
    HeadServed s →
    (∀ c op, (c, op) ∈ ops none →
      (good n → waits = false → spanBad s a n = false →
        ∃ u, exec c s = .next u ∧ stores u a n (atomicBytes op wide (memBytes s a n) x)
          ∧ u.sent = s.sent ++ [.completion tag .ok (some (bytesWord 64 (memBytes s a n)))])
      ∧ refuses c n (.word op wide x))
    ∧ (good 8 → waits = false → spanBad s a 8 = false →
        let old := memBytes s a 8
        ∃ u, exec (.atomicCas tag addr x y) s = .next u ∧ stores u a 8 (if bytesWord 64 old = x then wordBytes 8 y else old)
          ∧ u.sent = s.sent ++ [.completion tag .ok (some (bytesWord 64 old))])
    ∧ refuses (.atomicCas tag addr x y) 8 (.cas x y)
    ∧ (∀ (d : Die) (k : CtxId) (w : Ctx) (c : Instr) (op : AtomicOp), (c, op) ∈ ops (some (d, k)) → ctxOf s d k = some w →
        ctxActs w = true → s.power = .running → s.isolated.contains (.ringmaster d) = false → controlWrong s (.ringmaster d) [] = false →
      let g := addr.toNat
      let value (old : List Byte) : Sent := .contextValue d k (if wide = true then bytesWord 64 old else (bytesWord 32 old).signExtend 64)
      let old := memBytes s g n
      let mine := getTk s w.ticket
      let replays : Bool := mine.any (·.isReplay)
      let taken : Bool := mine.any fun q => !q.isReplay && rxTaken s q g
      let traps (cause : BitVec 8) : Prop := ∃ u, exec c s = .next u ∧ .contextTrap d k cause ∈ u.sent ∧ ctxOf u d k = none
        ∧ u.flags = s.flags ∧ u.queues = s.queues
        ∧ ∀ q, mine = some q → ∃ q', getTk u w.ticket = some q' ∧ q'.phase = .ended ∧ .invalid ∈ q'.causes
      let outside : Prop := g % n = 0 ∧ inPriv g n = false
      (g % n ≠ 0 → traps 6)
      ∧ (outside → ctxReaches s d k g n = false ∨ spanBad s g n = true ∨ taken = true → traps 7)
      ∧ (outside → ctxReaches s d k g n = true → spanBad s g n = false → taken = false → heldBurst s (g / 256) = false →
        ∃ u, exec c s = .next u ∧ u.sent = s.sent ++ [value old]
          ∧ (replays = false → stores u g n (atomicBytes op wide old x)) ∧ (replays = true → u.mem = s.mem))
      ∧ (g % n = 0 → inPriv g n = true → privBroken s d g = true → traps 7)
      ∧ (g % n = 0 → inPriv g n = true → privBroken s d g = false → sparseWf 0 (s.dies[d]).priv = true →
        ∃ u, exec c s = .next u ∧ u.mem = s.mem ∧ u.sent = s.sent ++ [value (privBytes s d g n)]
          ∧ privBytes u d g n = atomicBytes op wide (privBytes s d g n) x))

/-! ## Collectives -/

/-- A collective whose waits are met issues at its channel's next CSEQ once the channel is free, in its place among the descriptors of its
die: NEXT_CSEQ and the issue number go up, it stands in flight on its channel with its READYs sent, and it holds no contribution yet.
Before its turn it waits; one of an older epoch is CANCELLED, one that its channel's slot, role or member list does not fit, or whose
fields R275 to R283 do not admit, is INVALID, and a poisoned scale entry ends it at once. A control fault of the dispatch unit or of the
collective engine isolates it. A replayed collective takes no place on its channel (R141, R270 to R272, R275, R294, R307, R436). -/
def Obligations.CollectiveIssues : Prop :=
  ∀ (s : State) (t : TicketId) (k : Tk), getTk s t = some k → k.ticket = t → dFamily k.desc = some .collective → k.phase = .fetched →
    dispatches s k = true →
    let c := coChannel k.desc
    let i : Instr := .collectiveIssue t
    let current : Prop := dEpoch k.desc = s.slots[dSlot k.desc].epoch
    let sound : Prop := dispatchWrong s k (waitFlags k) = false
    let issues : Prop := sound ∧ current ∧ waitsUsable s k = true ∧ waitsMet k = true ∧ unitIsolated s .collective = false
    let turn : Prop := issues ∧ channelFits s k = true ∧ issueTurn s k = true
    let k1 : Tk := { k with phase := .issued, issueNo := s.nextIssue }
    let s0 := setTk { s with nextIssue := s.nextIssue + 1 } k1
    let s1 := modChan s0 c fun r => { r with nextCseq := r.nextCseq + 1 }
    let works : Prop := controlWrong s .collective (entriesRead k) = false
    let ends (x : Status) : Prop := ∃ u q, exec i s = .next u ∧ getTk u t = some q ∧ q.phase = .ended ∧ x ∈ q.causes
    (¬ sound → ∃ u, exec i s = .next u ∧ SettledFrom (dispatchFault s k) u)
    ∧ (sound → ¬ current → ∃ u, exec i s = .next u ∧ SettledFrom (modTk s t (failTk .cancelled)) u)
    ∧ (sound → current → waitsUsable s k = false → ends .invalid)
    ∧ (issues → channelFits s k = false → ∃ u q, exec i s = .next u ∧ getTk u t = some q ∧ q.phase = .ended
        ∧ .invalid ∈ q.causes ∧ u.chans = s.chans)
    ∧ (issues → channelFits s k = true → issueTurn s k = false → exec i s = .next s)
    ∧ (k.isReplay = false → coCseq k.desc ≠ (s.chans[c]).nextCseq ∨ collOnChannel s c = true → issueTurn s k = false)
    ∧ (turn → k.isReplay = false → ¬ works → ∃ u, exec i s = .next u ∧ SettledFrom (controlFault s1 .collective (unitByte 4 0) (dSlot k.desc) t.val) u)
    ∧ (turn → k.isReplay = false → works →
        (∃ u q, exec i s = .next u ∧ (u.chans[c]).nextCseq = (s.chans[c]).nextCseq + 1 ∧ u.nextIssue = s.nextIssue + 1
          ∧ getTk u t = some q ∧ (q.phase = .running ∨ q.phase = .ended) ∧ u.flags = s.flags ∧ u.queues = s.queues ∧ u.rings = s.rings)
        ∧ (¬ StartsLegal s1 k1 ∨ collOk (started s1 k1) (startedTk s1 k1) = false → ends .invalid)
        ∧ (StartsLegal s1 k1 → collOk (started s1 k1) (startedTk s1 k1) = true →
            ∃ u o, exec i s = .next u ∧ (u.chans[c]).op = some o ∧ o.k.ticket = t ∧ o.cseq = coCseq k.desc
              ∧ (scalePoisoned (started s1 k1) (startedTk s1 k1) = true → o.played = true)
              ∧ (scalePoisoned (started s1 k1) (startedTk s1 k1) = false → isNormColl k.desc = false → (s.chans[c]).held = [] → (∀ b, heldBurst s b = false) →
                  o.opened = true ∧ o.contrib = none)))
    ∧ (turn → k.isReplay = true → works →
        (¬ StartsLegal s0 k1 ∨ collOk (started s0 k1) (startedTk s0 k1) = false → ends .invalid)
        ∧ (StartsLegal s0 k1 → collOk (started s0 k1) (startedTk s0 k1) = true → ∃ u, exec i s = .next u
            ∧ SettledFrom (beginReplayed (started s0 k1) (startedTk s0 k1)) u ∧ u.chans = s.chans ∧ u.sent = s.sent))

/-- The collective engine takes a contribution from SRC: a reduction widens the L16s values exactly, an Arrival one and a gather
keep the codes. Along a chain a member's sum is its predecessor's plus its own, in binary32. A residue failure ends the
collective with INVALID. The norm collective passes its gate only where the step is not suspect, and a suspect step is aborted with a
failure-record entry; under Strict the gate is that of the step before, it waits while replays are due, and a cause that no replay covers
aborts its own step (that last one is the model's choice, log entry 84). A BACKUP whose part is played ends
(R273, R274, R278, R281, R283, R293, R303, R304, R306). -/
def Obligations.CollectivesPlay : Prop :=
  (∀ (s : State) (t : TicketId) (c : ChanId) (o : Coll) (x : Instr × (Desc → Bool)), s.power = .running → unitIsolated s .collective = false →
    (s.chans[c]).op = some o → runningColl s t x.2 = some c → unitWrong s o.k (entriesRead o.k) = false →
    (x ∈ [(.chainReduce t true, fun d => dFunc d == 0 && !isNormColl d), (.reduceScatter t true, fun d => dFunc d == 1),
        (.backup t true, fun d => dFunc d == 4), (.normCollective t true, isNormColl)] →
      ∃ u, exec x.1 s = .next u ∧ (∀ p, (u.chans[c]).op = some p → p.played = true) ∧ u.flags = s.flags ∧ u.rings = s.rings
        ∧ ∀ k, o.timedOut = false → getTk s o.k.ticket = some k → k.inst = o.k.inst →
            ∃ q, getTk u o.k.ticket = some q ∧ q.phase = .ended ∧ .invalid ∈ q.causes)
    ∧ (x ∈ [(.chainReduce t false, fun d => dFunc d == 0 && !isNormColl d), (.reduceScatter t false, fun d => dFunc d == 1),
        (.allGather t, fun d => dFunc d == 2), (.broadcast t, fun d => dFunc d == 3), (.backup t false, fun d => dFunc d == 4)] →
      (∃ u, exec x.1 s = .next u ∧ u.flags = s.flags ∧ u.queues = s.queues ∧ u.rings = s.rings)
      ∧ (o.contrib = none → isNormColl o.k.desc = false → coSrcDrain o.k.desc = false → (dFunc o.k.desc = 3 → o.member = 0) →
        let a := globalLocal (coSrc o.k.desc)
        let n := sourceBytes s c o.k.desc o.member
        spanBad s a n = false →
        ∃ u, exec x.1 s = .next u
          ∧ ∀ p, (u.chans[c]).op = some p → p.contrib = some (
              if isGather o.k.desc = true then (codesOf ((dIn o.k.desc 0).getD .l16s) (memBytes s a n)).map (BitVec.ofNat 32)
              else if o.arrival = true then (codesOf .l16s (memBytes s a n)).map (BitVec.ofNat 32)
              else (codesOf .l16s (memBytes s a n)).map fun v => f32Of (fmtVal .l16s v)))))
  ∧ (∀ (s : State) (t : TicketId) (c : ChanId) (o : Coll), s.power = .running → unitIsolated s .collective = false →
    (s.chans[c]).op = some o → runningColl s t isNormColl = some c → o.opened = false → unitWrong s o.k (entriesRead o.k) = false →
    let r := s.slots[o.slot]
    let strict : Prop := r.inForce.integrity = .strict
    let before : Prop := r.suspectPrev = true ∨ r.resolutionFailed = true
    ((strict ∧ (r.noReplay = true ∨ (r.replayPrev = [] ∧ before))) ∨ (¬ strict ∧ r.suspect = true) → s.upsets = [] → (s.chans[c]).held = [] →
        ∃ u f, exec (.normCollective t false) s = .next u ∧ (∀ p, (u.chans[c]).op = some p → p.played = true)
        ∧ u.nv.failures.getLast? = some f ∧ f.kind = 0x0C ∧ u.integrity.aborted = countUp s.integrity.aborted)
    ∧ (strict → r.noReplay = false → r.replayPrev ≠ [] → (s.chans[c]).held = [] →
        ∃ u, exec (.normCollective t false) s = .next u ∧ SettledFrom s u)
    ∧ ((strict ∧ r.noReplay = false ∧ r.replayPrev = [] ∧ ¬ before) ∨ (¬ strict ∧ r.suspect = false) →
        ∃ u, exec (.normCollective t false) s = .next u ∧ (u.slots[o.slot]).gated = true
        ∧ (u.slots[o.slot]).parts = [] ∧ ∀ p, (u.chans[c]).op = some p → p.opened = true ∧ p.ride = ownRide s o.k))
  ∧ (∀ (s : State) (t : TicketId) (c : ChanId) (o : Coll), s.power = .running → unitIsolated s .collective = false →
    (s.chans[c]).op = some o → runningColl s t (fun d => dFunc d == 4) = some c → o.contrib.isSome = true → backupPlayed s c o = true →
    digestsDone s c o = true → unitWrong s o.k (entriesRead o.k) = false →
    ∃ u, exec (.backup t false) s = .next u ∧ (∀ p, (u.chans[c]).op = some p → p.played = true)
      ∧ ∀ k, o.timedOut = false → getTk s o.k.ticket = some k → k.inst = o.k.inst → ∃ q, getTk u o.k.ticket = some q ∧ q.phase = .ended
          ∧ (.absent ∈ o.causes ∨ o.absent ≠ [] → .absent ∈ q.causes))
  ∧ ∀ (s : State) (c : ChanId) (o : Coll) (k b p : Nat) (x : Blk) (own : List (BitVec 32)), isGather o.k.desc = false →
    prevIn s c o.k.desc k o.member = some p → blockFrom s c o k b p = some x → ownBlock s c o b = some own →
    ∃ nf, blockValue s c o k b = some (List.zipWith f32Add (payloadCodes .b32 (blockLen o.k.desc b) x.payload) own, nf, some x)

/-- A DRAIN with TARGET COLLECTIVE hands its set over as the contribution of the collective that takes it and leaves the set
EMPTY; a COUNT that is not the set's rows times COLS ends both with INVALID; under a replay the totals are folded into the signature.
BURST_ADD adds one burst of the home's own part. A lateness timer notes that the limit of the pending decision has expired, and where
none is pending changes nothing. TIMEOUT_US, and under Arrival order the fabric operation timeout of a BURST_ADD, ends the descriptor with
TIMEOUT, CSEQ and the absent members as its DETAIL (R130, R269, R275, R279, R284, R287, R307). -/
def Obligations.CollectiveDrainsAddsAndTimers : Prop :=
  (∀ (s : State) (t : TicketId) (k : Tk) (r : DrainRun) (residue : Option (Nat × Nat)) (bank : List BankFault),
    let c := drChannel k.desc
    let e := tkEng s k
    let set := accSet s e (dAccSet k.desc)
    let i : Instr := .drainCollective t residue bank
    let fits (coll : Desc) : Prop := drCols k.desc ≠ 0 ∧ drCols k.desc ≤ 512 ∧ coCount coll = set.rows * drCols k.desc
      ∧ drOrigin k.desc + (set.rows - 1) * drRowLen k.desc + drCols k.desc - 1 < 2 ^ 40
    getTk s t = some k → k.ticket = t → k.phase = .running → k.run = .drain r → r.judged = true → isDrain 2 false k.desc = true →
    s.power = .running → unitIsolated s (tkUnit s k) = false → unitWrong s k (entriesRead k) = false →
    (∀ o, k.isReplay = false → (s.chans[c]).op = some o → takesDrain o k = true →
      (¬ fits o.k.desc → ∃ u q, exec i s = .next u ∧ getTk u t = some q ∧ q.phase = .ended ∧ .invalid ∈ q.causes
        ∧ ∀ p, (u.chans[c]).op = some p → p.played = true)
      ∧ (fits o.k.desc → ∃ u q, exec i s = .next u ∧ getTk u t = some q ∧ q.phase = .ended
        ∧ (accSet u e (dAccSet k.desc)).state = .empty ∧ (set.long = true → .longsum ∈ q.causes) ∧ (residue.isSome = true → .residue ∈ q.causes)
        ∧ u.flags = s.flags ∧ ∀ p, (u.chans[c]).op = some p → p.contrib.isSome = true))
    ∧ (k.isReplay = false → (∀ o, (s.chans[c]).op = some o → takesDrain o k = false) → ∃ u, exec i s = .next u ∧ SettledFrom s u)
    ∧ (∀ o, k.isReplay = true → replayedColl s k = some o → ∃ u, exec i s = .next u ∧ SettledFrom (handReplayed s k o residue bank) u
        ∧ u.chans = s.chans))
  ∧ (∀ (s : State) (t : TicketId) (k : Tk) (residue : Option (Nat × Nat)) (bank : List BankFault), Begins s t k → isDrain 2 false k.desc = true →
    (engRetired s (tkEng s k) = false → tokenHere (accSet s (tkEng s k) (dAccSet k.desc)) (dAccSeq k.desc) = false →
      ∃ u q, exec (.drainCollective t residue bank) s = .next u ∧ getTk u t = some q ∧ q.phase = .running
        ∧ q.run = .drain { judged := false, rowsSent := 0 } ∧ u.accs = s.accs)
    ∧ (engRetired s (tkEng s k) = true ∨ (tokenHere (accSet s (tkEng s k) (dAccSet k.desc)) (dAccSeq k.desc) = true ∧ setMine s k = false) →
      ∃ u q, exec (.drainCollective t residue bank) s = .next u ∧ getTk u t = some q ∧ q.phase = .ended ∧ .invalid ∈ q.causes))
  ∧ (∀ (s : State) (c : ChanId) (j : Nat) (o : Coll) (l : List (BitVec 32)),
    let k := if collFn o.k.desc = 1 then o.member else 0
    let sp := burstSpan s c o.k.desc k j
    (s.chans[c]).op = some o → o.contrib = some l → s.power = .running → unitIsolated s .collective = false → o.played = false →
    o.arrival = true → o.opened = true → isNormColl o.k.desc = false → homeMember s c o.k.desc k = o.member → j < burstsOf s c o.k.desc k →
    j ∉ o.ownAdds → heldBurst s (globalLocal (coDst o.k.desc) / 256 + j) = false → (∀ f ∈ (s.chans[c]).held, f.typ ≠ 6) →
    unitWrong s o.k (entriesRead o.k) = false →
    ∃ u, exec (.burstAdd c j) s = .next u
      ∧ u.mem = (addBurst s c o o.member j (bytesOfCodes .l16s (((l.drop sp.1).take sp.2).map BitVec.toNat))).1.mem
      ∧ (∀ p, (u.chans[c]).op = some p → j ∈ p.ownAdds) ∧ u.flags = s.flags ∧ u.queues = s.queues)
  ∧ (∀ (s : State) (c : ChanId) (k : BitVec 13) (o : Coll), (s.chans[c]).op = some o → s.power = .running → unitIsolated s .collective = false →
    o.played = false → k.toNat ∈ shardsOf s c o.k.desc →
    (∀ p, firstPending s c o k.toNat = some p →
      ∃ u, exec (.latenessTimer c k) s = .next u ∧ ∀ q, (u.chans[c]).op = some q → 2 * k.toNat + 1 ∈ q.expired)
    ∧ (∀ p, firstPending s c o k.toNat = none → nextPending s c o k.toNat = some p →
      ∃ u, exec (.latenessTimer c k) s = .next u ∧ ∀ q, (u.chans[c]).op = some q → 2 * k.toNat ∈ q.expired)
    ∧ (firstPending s c o k.toNat = none → nextPending s c o k.toNat = none → exec (.latenessTimer c k) s = .next s))
  ∧ (∀ (s : State) (c : ChanId) (o : Coll), (s.chans[c]).op = some o → s.power = .running → unitIsolated s .collective = false →
    (coTimeout o.k.desc = 0 ∨ o.timedOut = true → exec (.collectiveTimeout c) s = .next s)
    ∧ (coTimeout o.k.desc ≠ 0 → o.timedOut = false →
      let times (x : State) : State := modTk x o.k.ticket (endTk [.timeout] (o.cseq.toNat * 2 ^ 32 + o.absent.length))
      ∃ u, exec (.collectiveTimeout c) s = .next u
        ∧ (o.played = false → SettledFrom (times (modChan s c fun r => { r with timeouts := countUp r.timeouts, op := some { o with timedOut := true } })) u)
        ∧ (o.played = true → SettledFrom (times (modChan s c fun r =>
            { r with timeouts := countUp r.timeouts, op := none, last := some (o.cseq, o.slot, o.k.ticket, o.k.dataStep) })) u)))
  ∧ ∀ (s : State) (t : TicketId) (k : Tk) (o : Coll), getTk s t = some k → k.ticket = t → s.power = .running → dFamily k.desc = some .collective →
    k.phase = .ended ∨ k.phase = .running → .timeout ∉ k.causes → timedAbroad s k.inst = true → (s.chans[coChannel k.desc]).op = some o →
    o.k.ticket = t → o.k.inst = k.inst →
    ∃ u q, exec (.fabricOpTimeout t) s = .next u ∧ getTk u t = some q ∧ q.phase = .ended ∧ .timeout ∈ q.causes
      ∧ ∀ p, (u.chans[coChannel k.desc]).op = some p → p.timedOut = true ∧ p.addsStopped = true

/-! ## Ringmasters -/

/-- A LAYER_FWD, LAYER_BWD or outside routine that its context has entered forms descriptors from what it reads and stamps each with its
slot, epoch and next ticket. As many as find free slots are written to ring X and published; a first publication waits for the
slot's earlier CALLs; those of a replay go to the replay. LAYER_FWD forms only reads, products, drains and VEC work of a forward, LAYER_BWD
either its products with the L8g drains of data gradients or the stored sums of weight gradients; the last descriptor sets
DONE_FLAG, and the routine returns their number once all are written. An outside routine reads no header and goes on, and traps where it
enters outside its bank or at an instruction that reads a counter.

What a routine has left to write it writes first. A layer routine whose block is of another library version returns with nothing
done, and one whose argument block or step record comes poisoned traps (R166, R171, R172, R175, R176, R178, R179, R244 to R246, R250, R307). Which
descriptors a routine forms within its kinds is the model's free value (log entry 13), and the encoding of a counter read is presumed (log
entry 104). -/
def Obligations.RoutinesFormDescriptors : Prop :=
  ∀ (s s1 : State) (t : TicketId) (i : Instr) (mine : Nat → Bool) (keep : Option (Config.PlanInput → Desc → Bool)) (d : Die) (c : CtxId) (x : Ctx) (k : Tk),
    (i, mine, keep) ∈ [(.layerFwd t, (· == 1), some fun _ => isForward), (.layerBwd t, (· == 2), some isBackward),
      (.externalRoutine t, (fun n => 0x80 ≤ n), none)] →
    enterRoutine s t mine = (s1, some (d, c, x, k)) → x.ticket = t → k.ticket = t → s1.memWf = true → NotArming s1 t →
    let version := (if x.bankB = true then (s1.dies[d]).bankB else (s1.dies[d]).bankA).version.toNat
    let copy (y : Nat × Nat) : Nat := y.2 + 64 * (k.dataStep.toNat % 2)
    let forms (args : List Byte) (l : List Desc) (value : Option (BitVec 64)) : Prop :=
      ∃ u, exec i s = .next u ∧ u.flags = s.flags ∧ u.queues = s.queues
        ∧ RoutineForms s1 d c x k (((List.range l.length).zip l).map fun y =>
            stamp k (fieldNat args 4 2 % 1024) (fieldNat args 6 2) (x.used + y.1) y.2) value u
    (∀ y, x.todo = y → y ≠ [] → ∃ u, exec i s = .next u ∧ u.flags = s.flags ∧ u.queues = s.queues ∧ RoutineForms s1 d c x k y x.ret u)
    ∧ (∀ f s2 args s3 p s4 scales, keep = some f → x.todo = [] → x.phase = 0 → argBlock s1 x = (s2, args, false) →
        fieldNat args 0 4 = version → planPart s2 d c args = some (s3, p) →
        readEach (Nat × Nat) copy 64 d c (Config.lossScales (planInput s3 d x k args p 0)) s3 = .ok (s4, scales) →
        let l := withDone args ((withK0 (plan s3 d x k args p 0) scales).filter (f (planInput s3 d x k args p 0)))
        forms args l (some (BitVec.ofNat 64 l.length)))
    ∧ (∀ s2 args, keep = none → x.todo = [] → x.phase = 0 → argBlock s1 x = (s2, args, false) →
        let e := entryPoint s2 d x k
        (e.1 < 0x10000 → readsCounter e.2 = false → forms args (plan s2 d x k args [] 0) x.ret)
        ∧ (0x10000 ≤ e.1 → ∃ u, exec i s = .next u ∧ ContextTrapped d c t 1 u ∧ u.rings = s1.rings)
        ∧ (e.1 < 0x10000 → readsCounter e.2 = true → ∃ u, exec i s = .next u ∧ ContextTrapped d c t 2 u ∧ u.rings = s1.rings))
    ∧ (∀ s2 args, keep ≠ none → x.todo = [] → argBlock s1 x = (s2, args, false) → fieldNat args 0 4 ≠ version →
        ∃ u, exec i s = .next u ∧ RoutineReturned s1 d c x nothingDone u ∧ u.rings = s1.rings)
    ∧ (∀ s2 args, x.todo = [] → argBlock s1 x = (s2, args, true) →
        ∃ u, exec i s = .next u ∧ ContextTrapped d c t 5 u ∧ u.rings = s1.rings)
    ∧ (∀ s2 args s3 p a, keep ≠ none → x.todo = [] → x.phase = 0 → argBlock s1 x = (s2, args, false) →
        fieldNat args 0 4 = version → planPart s2 d c args = some (s3, p) →
        readEach (Nat × Nat) copy 64 d c (Config.lossScales (planInput s3 d x k args p 0)) s3 = .error a →
        ∃ u, exec i s = .next u ∧ ContextTrapped d c t 5 u ∧ u.rings = s1.rings)

/-- The decision of a step record (R180, R248, R249): a flag or a special sum skips the step, lowers λ by 1 down to its floor and keeps
the live buffer; else the buffers flip, λ rises at the end of a growth interval up to its ceiling, and the gradient is clipped to the
limit m where its norm n is above it.

NORM_CLIP_UPDATE forms the norm collective from AD0 and waits for its flag. Past its wait it writes the record for the next step
beside the one it read, with two events on a skip, and forms the snapshot's PUTs and the update or the skip, never an update on a skip,
the update behind the flags of the snapshots that still read what it writes;
a record of another step makes it return FFFF_FFFF_FFFFh with an event. VARIANT_UPDATE suspends on no flag: it decides for
each listed variant from its own record and its own place in context order in the ride record, stamps what it forms with the variant, and
returns the number updated. MIRROR_STEP returns 0 where no copy is due; else it raises MIRROR_QUEUED, forms one MIRROR for each region from
the buffer of the due step, and returns the bytes queued (R174, R178, R180, R248 to R251, R254 to R256, R328). The plan's descriptors and
places are the model's free values (log entry 13). -/
def Obligations.ClipVariantAndMirrorRoutines : Prop :=
  (∀ (old : List Byte) (q : BitVec 32) (flag : Bool),
    let cl := clipOf old q flag
    let lam := fieldNat old 4 1
    let bad : Prop := flag = true ∨ (f32Val q).special = true
    let grown : Prop := fieldNat old 8 4 + 1 = fieldNat old 12 4
    let n := f32Sqrt q
    cl.record.length = 64
    ∧ (bad → cl.skipped = true ∧ cl.lambda = max (lam - 1) (fieldNat old 5 1) ∧ cl.clip = 0
        ∧ fieldNat cl.record 7 1 = 2 + fieldNat old 7 1 % 2 ∧ fieldNat cl.record 8 4 = 0 ∧ fieldNat cl.record 20 4 = 0x7FC00000)
    ∧ (¬ bad → cl.skipped = false ∧ cl.lambda = (if grown then min (lam + 1) (fieldNat old 6 1) else lam)
        ∧ fieldNat cl.record 7 1 = 1 - fieldNat old 7 1 % 2 ∧ fieldNat cl.record 20 4 = n.toNat
        ∧ cl.clip = (if Val.lt (f32Val (BitVec.ofNat 32 (fieldNat old 16 4))) (f32Val n) = true
            then f32Div (BitVec.ofNat 32 (fieldNat old 16 4)) n else f32One))
    ∧ fieldNat cl.record 5 2 = fieldNat old 5 2 ∧ fieldNat cl.record 12 8 = fieldNat old 12 8)
  ∧ ∀ (s s1 s2 s3 : State) (t : TicketId) (d : Die) (c : CtxId) (x : Ctx) (k : Tk) (args p : List Byte), s1.memWf = true → NotArming s1 t →
    x.ticket = t → k.ticket = t → k.isReplay = false → x.todo = [] → x.ret = none → argBlock s1 x = (s2, args, false) →
    fieldNat args 0 4 = (if x.bankB = true then (s1.dies[d]).bankB else (s1.dies[d]).bankA).version.toNat →
    planPart s2 d c args = some (s3, p) →
    let step := k.dataStep.toNat
    let old := sliceBytes args (32 + 64 * (step % 2)) 64
    let i := planInput s3 d x k args p 0
    let norm := normDesc s3 d x k args p
    let r := (ringsOf s1 k.ringDie (dSlot k.desc)).x
    let events (u : State) (n : BitVec 16) : Prop := NoneDrains s1 d → (u.dies[d]).evSeq = (s1.dies[d]).evSeq + n
    let ringOnly (y : Nat) : Prop := ∀ j < r.size.toNat, y < r.base.toNat + 128 * j ∨ r.base.toNat + 128 * j + 128 ≤ y
    let stored (u : State) (a : Nat) (l : List Byte) : Prop :=
      NoneDrains s1 d → a % 64 = 0 → spanBad s3 a 64 = false → (∀ y, a ≤ y → y < a + 64 → ringOnly y) →
      memBytes u a 64 = l ∧ ∀ y, y < a ∨ a + 64 ≤ y → ringOnly y → memByte u y = memByte s1 y
    let forms (u : State) (l : List Desc) (v : Option Nat) : Prop :=
      RoutineForms s1 d c x k (form args k l x).todo (v.map (BitVec.ofNat 64)) u
    let waits (u : State) : Prop := ∃ z, ctxOf u d c = some z ∧ z.phase = 2 ∧ z.waitMet = false
      ∧ z.wait = (norm.bind fun nd => dSet nd 0).bind fun w =>
          if flagReached (feValue (flagEntry s3 k.ringDie w.flag)) (Config.normTarget i) = true then none else some (w.flag, Config.normTarget i)
    let rideAt (nd : Desc) : Nat := globalLocal (coDst nd) + k.ringDie.val * (2 * stackSpan)
    let decided (cl : Clip) (skip update : Nat) : List Desc :=
      if cl.skipped = true then skipOnly (plan s3 d x k args p skip)
      else behindSnapshots i ((updateOnly (plan s3 d x k args p update)).map (withK2 cl))
    (enterRoutine s t (· == 3) = (s1, some (d, c, x, k)) →
      (x.phase = 0 → fieldNat args (32 + 64 * (step % 2)) 4 ≠ step →
        ∃ u, exec (.normClipUpdate t) s = .next u ∧ RoutineReturned s1 d c x nothingDone u ∧ events u 1)
      ∧ (x.phase = 0 → fieldNat args (32 + 64 * (step % 2)) 4 = step → k.ringDie = 0 →
          ∃ u, exec (.normClipUpdate t) s = .next u ∧ forms u norm.toList none ∧ ∃ z, ctxOf u d c = some z ∧ z.phase = 1)
      ∧ ((x.phase = 0 ∧ fieldNat args (32 + 64 * (step % 2)) 4 = step ∧ k.ringDie ≠ 0) ∨ x.phase = 1 →
          ∃ u, exec (.normClipUpdate t) s = .next u ∧ waits u)
      ∧ (x.phase = 2 → norm = none → ∃ u, exec (.normClipUpdate t) s = .next u ∧ RoutineReturned s1 d c x 0 u)
      ∧ (∀ nd, x.phase = 2 → norm = some nd → spanBad s3 (rideAt nd) 16 = true →
          ∃ u, exec (.normClipUpdate t) s = .next u ∧ ContextTrapped d c t 5 u)
      ∧ ∀ nd, x.phase = 2 → norm = some nd → spanBad s3 (rideAt nd) 16 = false →
          let cl := clipOf old (BitVec.ofNat 32 (memNat s1 (rideAt nd) 4)) (memNat s1 (rideAt nd + 4) 1 % 2 == 1)
          let a := x.a0.toNat + 32 + 64 * ((step + 1) % 2)
          ∃ u, exec (.normClipUpdate t) s = .next u
            ∧ forms u (closingDone args x (snapshotPuts i (fieldNat old 7 1 % 2) ++ decided cl 2 1)) (some (bnat cl.skipped * 2 ^ 47 + cl.clip.toNat))
            ∧ events u (if cl.skipped = true then 2 else 0) ∧ (cl.skipped = false → stored u a cl.record))
    ∧ (enterRoutine s t (· == 4) = (s1, some (d, c, x, k)) → x.phase = 0 →
      (norm = none → ∃ u, exec (.variantUpdate t) s = .next u ∧ RoutineReturned s1 d c x 0 u)
      ∧ ∀ nd, norm = some nd → spanBad s3 (rideAt nd) (16 + 8 * 512) = false →
          let q (v : Fin 512) : Nat := rideAt nd + 16 + 8 * ((residentOf s1 (dSlot k.desc)).findIdx (· == v.val))
          let clip (v : Fin 512 × List Byte) : Clip :=
            clipOf v.2 (BitVec.ofNat 32 (memNat s1 (q v.1) 4)) (memNat s1 (q v.1 + 5) 1 % 2 == 1)
          let copy (n : Nat) (v : Fin 512) : Nat := Config.variantRecord i v + 64 * (n % 2)
          (∀ s4 records, readEach (Fin 512) (copy step) 64 d c (Config.planVariants i) (rideOn s3 k nd (16 + 8 * 512)).1 = .ok (s4, records) →
            ∃ u, exec (.variantUpdate t) s = .next u
              ∧ forms u (withDone args (records.flatMap fun v => (decided (clip v) (4 + 2 * v.1.val) (3 + 2 * v.1.val)).map (stampVariant v.1)))
                  (some (records.filter fun v => !(clip v).skipped).length)
              ∧ ∀ v, records = [v] → (clip v).skipped = false → stored u (copy (step + 1) v.1) (clip v).record)
          ∧ ∀ a, readEach (Fin 512) (copy step) 64 d c (Config.planVariants i) (rideOn s3 k nd (16 + 8 * 512)).1 = .error a →
              ∃ u, exec (.variantUpdate t) s = .next u ∧ ContextTrapped d c t 5 u)
    ∧ (enterRoutine s t (· == 5) = (s1, some (d, c, x, k)) → x.phase = 0 →
      (s1.slots[dSlot k.desc].mirrorDue = none → ∃ u, exec (.mirrorStep t) s = .next u ∧ RoutineReturned s1 d c x 0 u)
      ∧ ∀ w, s1.slots[dSlot k.desc].mirrorDue = some w →
          let copy (g : Config.MirrorItem) : Nat := g.record + 64 * (w.toNat % 2)
          (∀ s4 gs, readEach Config.MirrorItem copy 64 d c (Config.mirrorList i) s3 = .ok (s4, gs) →
            ∃ u, exec (.mirrorStep t) s = .next u ∧ events u 1
              ∧ forms u (withDone args (gs.map fun g => mirrorDesc (if fieldNat g.2 7 1 % 2 = 1 then g.1.baseB else g.1.baseA) g.1.bytes w))
                  (some (gs.map fun g => g.1.bytes).sum))
          ∧ ∀ a, readEach Config.MirrorItem copy 64 d c (Config.mirrorList i) s3 = .error a →
              ∃ u, exec (.mirrorStep t) s = .next u ∧ ContextTrapped d c t 5 u)

/-- The control registers of an acting context. RX_TAIL publishes on ring X up to a new tail; it holds the context's first publication
with its descriptors while an earlier CALL of its slot is not done, and traps where the tail would pass the head. PUBLICATION_RELEASE lets
a held one proceed to the slots that then follow. FLAG_WAIT suspends the context until its flag is satisfied, FLAG_WAIT_RESUME resumes it even
if the flag has moved on, FLAG_READ names a flag and hands it the VALUE, EVENT raises a routine event of code 80h or more, ROUTINE_RETURN ends its
CALL with the library epoch and a0 as DETAIL once its descriptors are out, and a fence waits for nothing. A replay publishes on no
ring and raises no event. A Ringmaster whose control fields are wrong, or that reads a wrong flag entry, is isolated instead (R170 to R174, R176, R230,
R294, R296, R307). That an EVENT code below 80h raises nothing, and that a fence has nothing left to wait for, are the model's choices (log entry 50). -/
def Obligations.ContextRegisters : Prop :=
  ∀ (s : State) (d : Die) (c : CtxId) (x : Ctx) (k : Tk), ctxOf s d c = some x → getTk s x.ticket = some k →
    k.ticket = x.ticket → NotArming s x.ticket → s.memWf = true →
    let r := (ringsOf s k.ringDie (dSlot k.desc)).x
    let sets (f : Ctx → Ctx) (l : List Sent) : State := { putCtx s d c (some (f x)) with sent := s.sent ++ l }
    (actingCtx s d c = some (x, k) →
      (controlWrong s (.ringmaster d) [] = false →
        (∀ tail, x.todo ≠ [] ∨ k.isReplay = true → exec (.rxTail d c tail) s = .next s)
        ∧ (∀ tail, x.todo = [] → k.isReplay = false →
          (rxTailOk s k tail = true → x.published = true ∨ publicationFree s k = true → ∃ u y, exec (.rxTail d c tail) s = .next u
            ∧ (ringsOf u k.ringDie (dSlot k.desc)).x = { r with tail := tail } ∧ ctxOf u d c = some y ∧ y.published = true ∧ u.mem = s.mem)
          ∧ (rxTailOk s k tail = true → x.published = false → publicationFree s k = false →
            ∃ u, exec (.rxTail d c tail) s = .next u ∧ SettledFrom (sets (fun x => { x with held := true, todo := storedUpTo s r tail }) []) u)
          ∧ (rxTailOk s k tail = false → ∃ u, exec (.rxTail d c tail) s = .next u ∧ ContextTrapped d c x.ticket 7 u ∧ u.rings = s.rings))
        ∧ (∀ word : BitVec 64, bitsOf word 63 56 < 0x80 ∨ k.isReplay = true → ∃ u, exec (.event d c word) s = .next u ∧ SettledFrom s u)
        ∧ (∀ word : BitVec 64, 0x80 ≤ bitsOf word 63 56 → k.isReplay = false → ∃ u, exec (.event d c word) s = .next u
            ∧ (u.dies[d]).evSeq = (s.dies[d]).evSeq + 1 ∧ u.rings = s.rings ∧ u.flags = s.flags)
        ∧ (∀ a0, x.todo = [] → ∃ u q, exec (.routineReturn d c a0) s = .next u ∧ ctxOf u d c = none ∧ getTk u x.ticket = some q
            ∧ q.phase = .ended ∧ q.detail = BitVec.ofNat 64 ((ctxEpoch s d x).toNat * 2 ^ 48 + a0.toNat % 2 ^ 48)
            ∧ u.rings = s.rings ∧ u.flags = s.flags)
        ∧ (∀ a0, x.todo ≠ [] → ∃ u, exec (.routineReturn d c a0) s = .next u ∧ RoutineForms s d c x k x.todo (some a0) u)
        ∧ exec (.riscvFence d c) s = .next s)
      ∧ (∀ f : BitVec 12, controlWrong s (.ringmaster d) [(.flag k.ringDie, f.toNat)] = false →
          (∀ word : BitVec 64, word.extractLsb' 32 12 = f → let goal := word.extractLsb' 0 16
            (flagHolds s k f goal = true → exec (.flagWait d c word) s = .next s)
            ∧ (flagHolds s k f goal = false → ∃ u, exec (.flagWait d c word) s = .next u
              ∧ SettledFrom (sets (fun x => { x with wait := some (f, goal), waitMet := false }) []) u))
          ∧ let v := feValue (seenFlag s k f)
            ∃ u, exec (.flagRead d c f) s = .next u
              ∧ SettledFrom (sets (fun x => { x with flagRead := f }) [.contextValue d c (v.zeroExtend 64)]) u)
      ∧ ∀ (i : Instr) (reads : List (CodedTable × Nat)),
          (i, reads) ∈ [(.rxTail d c 0, []), (.event d c 0, []), (.routineReturn d c 0, []), (.riscvFence d c, []),
            (.flagWait d c 0, [(CodedTable.flag k.ringDie, 0)]), (.flagRead d c 0, [(.flag k.ringDie, 0)]),
            (.loadReserved d c 0 true, []), (.storeConditional d c 0 true 0, [])] →
          controlWrong s (.ringmaster d) reads = true →
          ∃ u, exec i s = .next u ∧ SettledFrom (controlFault s (.ringmaster d) (unitByte 5 d.val) x.slot x.ticket.val) u)
    ∧ (s.power = .running → unitIsolated s (.ringmaster d) = false →
      (x.held = false ∨ publicationFree s k = false → exec (.publicationRelease d c) s = .next s)
      ∧ (x.held = true → publicationFree s k = true → x.wait = none → x.todo ≠ [] →
          ∃ u, exec (.publicationRelease d c) s = .next u ∧ RoutineForms s d c x k x.todo x.ret u)
      ∧ (x.wait = none → exec (.flagWaitResume d c) s = .next s)
      ∧ (∀ f goal, x.wait = some (f, goal) →
        (x.waitMet = false → flagHolds s k f goal = false → exec (.flagWaitResume d c) s = .next s)
        ∧ (x.waitMet = true ∨ flagHolds s k f goal = true →
            ∃ u, exec (.flagWaitResume d c) s = .next u ∧ SettledFrom (sets (fun x => { x with wait := none, waitMet := false }) []) u)))

/-- LR hands the context the word, sign-extended where it is of 4 bytes, and puts its reservation on the burst or the place in private
memory; of a read of the bank window or the control registers it keeps none. SC stores and answers 0 while that reservation
stands, and answers 1 without a store else; either way it is gone. A misaligned or unreachable address traps, and so does a double-bit
error of private memory, the store of part of its word among them, and an SC to a slot of ring X that is not free. A store of any
other party to the burst takes the reservation away; a replay stores nothing (R167, R168, R173, R176, R235, R307). That the bank window and the
control registers take no reservation is the model's choice (log entry 86). -/
def Obligations.ReservationPairs : Prop :=
  ∀ (s : State) (d : Die) (c : CtxId) (x : Ctx) (k : Tk) (addr value : BitVec 64) (wide : Bool), actingCtx s d c = some (x, k) →
    ctxOf s d c = some x → k.ticket = x.ticket → s.memWf = true → sparseWf 0 (s.dies[d]).priv = true → NotArming s x.ticket →
    controlWrong s (.ringmaster d) [] = false →
    let a := addr.toNat
    let n := if wide = true then 8 else 4
    let bytes (u : State) : List Byte := if inPriv a n = true then privBytes u d a n else memBytes u a n
    let near : Prop := inPriv a n = true ∨ (¬ (bankWindow ≤ a ∧ a + n ≤ bankWindow + 0x10000)
      ∧ ¬ (controlBase ≤ a ∧ a + n ≤ controlBase + 0x1000) ∧ ctxReaches s d c a n = true ∧ spanBad s a n = false)
    let value_ (l : List Byte) : BitVec 64 := if wide = true then bytesWord 64 l else (bytesWord 32 l).signExtend 64
    let traps (i : Instr) (cause : BitVec 8) : Prop := ∃ u, exec i s = .next u ∧ ContextTrapped d c x.ticket cause u
    let lr := Instr.loadReserved d c addr wide
    let sc := Instr.storeConditional d c addr wide value
    let answers (i : Instr) (f : Ctx → Ctx) (v : BitVec 64) : Prop :=
      ∃ u, exec i s = .next u ∧ SettledFrom { putCtx s d c (some (f x)) with sent := s.sent ++ [.contextValue d c v] } u
    (a % n ≠ 0 → traps lr 4 ∧ traps sc 6)
    ∧ (a % n = 0 → ctxLoad s d c x k a n = none → traps lr 5)
    ∧ (a % n = 0 → storable s d c k a n = none → traps sc 7)
    ∧ (a % n = 0 → inPriv a n = true → privBroken s d a = true → traps lr 5 ∧ (wide = false → traps sc 7))
    ∧ (∀ l b, a % n = 0 → ctxLoad s d c x k a n = some (l, b) → answers lr (fun x => { x with reservation := b }) (value_ l))
    ∧ (near → a % n = 0 → inPriv a n = false ∨ privBroken s d a = false →
        answers lr (fun x => { x with reservation := some (if inPriv a n = true then privBurst d a else a / 256) }) (value_ (bytes s)))
    ∧ (a % n = 0 → bankWindow ≤ a → a + n ≤ bankWindow + 0x10000 →
        let code := (if x.bankB = true then (s.dies[d]).bankB else (s.dies[d]).bankA).code
        answers lr (fun x => { x with reservation := none }) (value_ (fitBytes n ((code.drop (a - bankWindow)).take n))) ∧ traps sc 7)
    ∧ ∀ b, a % n = 0 → storable s d c k a n = some b →
      (x.reservation ≠ some b → answers sc (fun x => { x with reservation := none }) 1)
      ∧ (x.reservation = some b → heldBurst s b = true → exec sc s = .next s)
      ∧ (x.reservation = some b → heldBurst s b = false → ∃ u y, exec sc s = .next u
          ∧ u.sent = s.sent ++ [.contextValue d c 0] ∧ ctxOf u d c = some y ∧ y.reservation = none
          ∧ (inPriv a n = true → u.mem = s.mem ∧ privBytes u d a n = wordBytes n value
              ∧ ∀ i, i < a ∨ a + n ≤ i → privBase ≤ i → privBytes u d i 1 = privBytes s d i 1)
          ∧ (inPriv a n = false → k.isReplay = true → u.mem = s.mem)
          ∧ (inPriv a n = false → k.isReplay = false → memBytes u a n = wordBytes n value
              ∧ ∀ i, i < a ∨ a + n ≤ i → memByte u i = memByte s i)
          ∧ (inPriv a n = true ∨ k.isReplay = false →
              ∀ (e : Die) (h : CtxId) (z : Ctx), ctxOf u e h = some z → z.reservation ≠ some b))

/-! ## Flits, links and lanes -/

/-- A request that arrives undamaged for this module is acknowledged on its link, unless it is the module's own, and answered. WRITE lays its 256 bytes over the burst
it names where that lies in memory that other modules may reach, READ answers with one DATA flit for each burst, marked where the burst is
poisoned or its stack hot, FLAGSET raises a flag that admits sets from other modules; a request that is not served changes nothing and is
answered INVALID, and a WRITE that a tripped stack loses ECC_UNCORR. A WRITE to a burst that a copy holds waits. A dispatch unit that finds
itself or the flag's entry wrong is isolated instead (R152, R210, R216, R221, R222, R262 to R264, R268, R294, R296). -/
def Obligations.FabricRequests : Prop :=
  ∀ (s : State) (p : PortId) (f : Flit), flitSized f = true → s.memWf = true →
    let a := bitsOf f.arg 42 0
    let tag := bitsOf f.arg 63 51
    let b := a / 256
    let out (u : State) (g : Flit) : Prop := (∃ q, .flit q (sealFlit g) ∈ u.sent) ∨ (∃ x, (g, x) ∈ u.outQueue) ∨ sealFlit g ∈ u.ownFlits
    let ack (x : Status) : Flit := ownFlit s 0x04 (if f.vc = 7 then 7 else 4) f.src.toNat (tagArg tag x.code.toNat) []
    let taken (u : State) : Prop := u.queues = s.queues ∧ u.rings = s.rings ∧ u.engines = s.engines
      ∧ (f ∉ s.ownFlits → Reaches s f.src.toNat → (u.ports[p]).rxSeq = (s.ports[p]).rxSeq + 1)
    let answers (u : State) (x : Status) : Prop := taken u ∧ (Reaches s f.src.toNat → out u (ack x))
    let keeps_ (u : State) : Prop := u.mem = s.mem ∧ u.poison = s.poison ∧ u.flags = s.flags
    (arrives s p f 1 = true →
      (peerMay s f a 256 = true → heldBurst s b = true → exec (.writeFlit p f) s = .next s)
      ∧ (peerMay s f a 256 = true → heldBurst s b = false → burstTripped s b = false →
        ∃ u, exec (.writeFlit p f) s = .next u ∧ burstBytes u b = f.payload ∧ isPoison u b = false
          ∧ (∀ x, x / 256 ≠ b → memByte u x = memByte s x) ∧ u.flags = s.flags ∧ answers u (if burstHot s b = true then .hot else .ok))
      ∧ (peerMay s f a 256 = true → heldBurst s b = false → burstTripped s b = true →
        ∃ u, exec (.writeFlit p f) s = .next u ∧ keeps_ u ∧ answers u .eccUncorr)
      ∧ (peerMay s f a 256 = false → ∃ u, exec (.writeFlit p f) s = .next u ∧ keeps_ u ∧ answers u .invalid))
    ∧ (arrives s p f 2 = true → let n := bitsOf f.arg 50 43 + 1
        (peerMay s f a (256 * n) = false → ∃ u, exec (.readFlit p f) s = .next u ∧ keeps_ u ∧ answers u .invalid)
        ∧ (peerMay s f a (256 * n) = true → ∃ u, exec (.readFlit p f) s = .next u ∧ u.mem = s.mem ∧ u.flags = s.flags ∧ taken u
          ∧ (∀ x, x < b ∨ b + n ≤ x → isPoison u x = isPoison s x)
          ∧ (Reaches s f.src.toNat → ∀ i < n,
              ∃ data, out u (ownFlit s 0x03 4 f.src.toNat
                  (tagArg tag (i * 2 ^ 43 + 2 * bnat (burstHot s (b + i)) + bnat (burstBad s (b + i)))) data)
                ∧ (burstBad s (b + i) = false → data = burstBytes s (b + i)))))
    ∧ (arrives s p f 5 = true →
        let d : Die := Fin.ofNat 4 (bitsOf f.arg 35 34)
        let n : BitVec 12 := BitVec.ofNat 12 (bitsOf f.arg 47 36)
        let e := flagEntry s d n
        let inc : BitVec 8 := f.arg.setWidth 8
        let may : Prop := inc ≠ 0 ∧ feEnable e = true ∧ feRemote e = true
        let wrong := controlWrong s (.dispatch d) [(.flag d, n.toNat)]
        (wrong = false → may →
          ∃ u, exec (.flagsetFlit p f) s = .next u ∧ flagEntry u d n = feSetValue e (feValue e + inc.zeroExtend 16)
            ∧ (∀ x, x ≠ flagKey d n → sparseGet 0 u.flags x = sparseGet 0 s.flags x) ∧ u.mem = s.mem ∧ answers u .ok)
        ∧ (wrong = false → ¬ may → ∃ u, exec (.flagsetFlit p f) s = .next u ∧ keeps_ u ∧ answers u .invalid)
        ∧ (wrong = true → ∃ u, exec (.flagsetFlit p f) s = .next u ∧ keeps_ u ∧ .dispatch d ∈ u.isolated))

/-- What comes back for a request: the DATA of a GET is written where the GET says, that of a STREAM and of a restore is handed to it, and
the request is closed with its last burst, and with it a GET that has no entry left to claim; a restore's header is judged as it comes
(R337, R338); an ACK closes its request and gives its descriptor INVALID, ECC_UNCORR or HOT as its status says. A
burst that came poisoned gives a GET ECC_UNCORR, one from a hot stack gives either HOT. Bursts that are no longer due change nothing
(R201, R202, R210, R216, R221, R268). -/
def Obligations.FabricAnswers : Prop :=
  ∀ (s : State) (p : PortId) (f : Flit), flitSized f = true → sparseWf none s.fabReqs = true → s.waitReqs = [] →
    let tag := flitTag f
    let i := bitsOf f.arg 50 43
    let bad := bitOf f.arg 0
    let hot := bitOf f.arg 1
    let code : BitVec 8 := f.arg.setWidth 8
    (arrives s p f 3 = true →
      (∀ inst t lo n seen k r, sparseGet none s.fabReqs tag = some (.get inst t lo n seen) → i < n → i ∉ seen →
          getTk s t = some k → k.ticket = t → k.inst = inst → isXfer 1 k.desc = true → k.phase = .running → k.isReplay = false →
          k.run = .xfer r → NotArming s t →
        ∃ u q, exec (.dataFlit p f) s = .next u ∧ getTk u t = some q
          ∧ (dOutW k.desc 0 = .none → bad = false → u.homeQueue = s.homeQueue
              ++ (burstParts 257 (globalLocal (pgDst k.desc) + 256 * (lo + i)) f.payload).map fun y => match y.2.2 with
                | none => HomeReq.write inst t y.1 y.2.1
                | some m => HomeReq.masked inst t y.1 y.2.1 m)
          ∧ (∀ e, dOutW k.desc 0 = .queue e → u.homeQueue = s.homeQueue)
          ∧ (bad = true → .eccUncorr ∈ q.causes) ∧ (hot = true → .hot ∈ q.causes)
          ∧ (seen.length + 1 ≠ n → sparseGet none u.fabReqs tag = some (.get inst t lo n (i :: seen)))
          ∧ (seen.length + 1 = n → sparseGet none u.fabReqs tag = none)
          ∧ (seen.length + 1 = n → r.todo = [] → (∀ y ∈ s.fabReqs, y.1 ≠ tag → ∀ z, y.2 = some z → z.inst ≠ some inst) → q.phase = .ended
              ∧ q.detail = BitVec.ofNat 64 (pgBytes k.desc))
          ∧ u.mem = s.mem ∧ u.flags = s.flags ∧ (dOutW k.desc 0 = .none → u.queues = s.queues))
      ∧ (∀ inst t lo n seen k r, sparseGet none s.fabReqs tag = some (.stream inst t lo n seen) → i < n → i ∉ seen → getTk s t = some k →
          k.inst = inst → k.run = .stream r → sparseWf none r.got = true → NotArming s t →
        ∃ u q z, exec (.dataFlit p f) s = .next u ∧ getTk u t = some q ∧ q.run = .stream z
          ∧ sparseGet none z.got (lo + i) = some (f.payload, bad) ∧ (hot = true → .hot ∈ q.causes)
          ∧ (seen.length + 1 ≠ n → sparseGet none u.fabReqs tag = some (.stream inst t lo n (i :: seen)))
          ∧ (seen.length + 1 = n → sparseGet none u.fabReqs tag = none) ∧ u.mem = s.mem ∧ u.queues = s.queues)
      ∧ (∀ j run a before, sparseGet none s.fabReqs tag = some (.restoreHeader j run a) → i = 0 → s.slots[j].headerAsked = some (run, before) →
        let h := if bad = true then [] else f.payload
        ∃ u, exec (.dataFlit p f) s = .next u ∧ u.slots[j].headerAsked = none ∧ u.mem = s.mem ∧ u.queues = s.queues
          ∧ (headerGoes s j h = true → u.slots[j].slotState = .restoring
              ∧ ∃ q, u.slots[j].restore = some q ∧ q.header = h ∧ q.own = false ∧ q.run = run ∧ q.got = [])
          ∧ (headerGoes s j h = false → u.slots[j].slotState = before
              ∧ u.slots[j].restoreStatus = (if headerOk s j h = true then .streamSkew else .invalid)))
      ∧ (∀ j run a lo n seen q, sparseGet none s.fabReqs tag = some (.restore j run a lo n seen) → i < n → i ∉ seen →
          s.slots[j].restore = some q → q.run = run → sparseWf none q.got = true →
        ∃ u z, exec (.dataFlit p f) s = .next u ∧ u.slots[j].restore = some z ∧ sparseGet none z.got (lo + i) = some (f.payload, bad)
          ∧ (seen.length + 1 ≠ n → sparseGet none u.fabReqs tag = some (.restore j run a lo n (i :: seen)))
          ∧ (seen.length + 1 = n → sparseGet none u.fabReqs tag = none) ∧ u.mem = s.mem ∧ u.queues = s.queues)
      ∧ (sparseGet none s.fabReqs tag = none → ∃ u, exec (.dataFlit p f) s = .next u ∧ SettledFrom (landFlit s p f) u))
    ∧ (arrives s p f 4 = true →
      (∀ inst t k, sparseGet none s.fabReqs tag = some (.put inst t) → getTk s t = some k → k.ticket = t → k.inst = inst →
        ∃ u q, exec (.ackFlit p f) s = .next u ∧ sparseGet none u.fabReqs tag = none ∧ getTk u t = some q ∧ q.phase = k.phase
          ∧ (code = Status.invalid.code → .invalid ∈ q.causes)
          ∧ (code = Status.eccUncorr.code → .eccUncorr ∈ q.causes)
          ∧ (code = Status.hot.code → dFamily k.desc = some .putget → .hot ∈ q.causes)
          ∧ (code = Status.ok.code → q = k) ∧ u.mem = s.mem ∧ u.flags = s.flags)
      ∧ (∀ inst t lo n seen k, sparseGet none s.fabReqs tag = some (.get inst t lo n seen) → getTk s t = some k → k.ticket = t →
          k.inst = inst → code = Status.invalid.code →
        ∃ u q, exec (.ackFlit p f) s = .next u ∧ sparseGet none u.fabReqs tag = none ∧ getTk u t = some q ∧ .invalid ∈ q.causes
          ∧ u.mem = s.mem ∧ u.flags = s.flags)
      ∧ (sparseGet none s.fabReqs tag = none → ∃ u, exec (.ackFlit p f) s = .next u ∧ SettledFrom (landFlit s p f) u))

/-- The flits of a channel. CHAIN and RESULT give the collective in flight a block, RIDE a block of the norm record, and it goes
on; a block past COUNT, a CHAIN for a norm collective, or a misplaced LAST aborts it, and so does a READY of another function; a residue failure
ends it. READY, DIGEST and NOTICE of a collective that this module has still to reach are held; flits of one that is past change nothing, but
for a NOTICE DIGEST_BAD of the last one, which is counted, and makes that one's own step suspect. An engine that finds its CSEQ wrong is
isolated, and then takes none of the three. NOTICE ABORT ends the collective with INVALID; a BURST_ADD for no collective in flight is
answered INVALID (R263, R272, R273, R279, R286, R293, R294, R302). That the late DIGEST_BAD still counts is the model's choice (log
entry 79). -/
def Obligations.ChannelFlits : Prop :=
  ∀ (s : State) (p : PortId) (f : Flit), flitSized f = true →
    let c := argChannel f
    let b := bitsOf f.arg 25 3
    let base := landFlit s p f
    let blk : Blk := { src := f.src.toNat, result := f.typ == 0x11, block := b, nonfinite := bitOf f.arg 2, arg := f.arg, payload := f.payload }
    let keeps_ (u : State) : Prop := SettledFrom base u
    let gone (o : Coll) (u : State) : Prop := (∀ q, (u.chans[c]).op = some q → q.played = true) ∧ u.flags = s.flags ∧ u.rings = s.rings
      ∧ ∀ k, getTk s o.k.ticket = some k → k.inst = o.k.inst → o.timedOut = false →
          ∃ q, getTk u o.k.ticket = some q ∧ q.phase = .ended ∧ .invalid ∈ q.causes
    let has (o : Coll) (x : Blk) : Prop := ∃ y ∈ o.blocks, y.src = x.src ∧ y.block = x.block ∧ y.result = x.result
    (∀ x : Instr × Instr × Nat, x ∈ [(.chainFlit p f false, .chainFlit p f true, 0x10), (.resultFlit p f false, .resultFlit p f true, 0x11)] →
        arrives s p f x.2.2 = true →
      (currentFlit s c f = false → ∃ u, exec x.1 s = .next u ∧ keeps_ u)
      ∧ ∀ o, (s.chans[c]).op = some o → currentFlit s c f = true →
        let mine : Prop := o.played = false ∧ ¬ (isNormColl o.k.desc = true ∧ x.2.2 = 0x11)
        let bad : Prop := coCount o.k.desc ≤ 64 * b ∨ (bitOf f.arg 0 = true ∧ lastBlock s c o.k.desc b = false)
        (¬ mine → ∃ u, exec x.1 s = .next u ∧ keeps_ u)
        ∧ (mine → bad → ∃ u, exec x.1 s = .next u ∧ gone o u)
        ∧ (mine → ¬ bad → has o blk → ∃ u, exec x.1 s = .next u ∧ keeps_ u)
        ∧ (mine → ¬ bad → ¬ has o blk →
            (∃ u, exec x.1 s = .next u ∧ SettledFrom (pump (modOp base c fun o => { o with blocks := o.blocks ++ [blk] }) c) u)
            ∧ (isGather o.k.desc = false → ∃ u, exec x.2.1 s = .next u ∧ gone o u)))
    ∧ (arrives s p f 0x13 = true → ∀ o, (s.chans[c]).op = some o → currentFlit s c f = true →
        (o.played = true ∨ isNormColl o.k.desc = false → ∃ u, exec (.rideFlit p f false) s = .next u ∧ keeps_ u)
        ∧ (o.played = false → isNormColl o.k.desc = true → (∀ y ∈ o.blocks, ¬ (y.src = f.src.toNat ∧ y.block = b)) →
        (∃ u, exec (.rideFlit p f false) s = .next u
          ∧ SettledFrom (pump (modOp base c fun o => { o with blocks := o.blocks ++ [{ blk with result := false, nonfinite := false }] }) c) u)
        ∧ ∃ u, exec (.rideFlit p f true) s = .next u ∧ gone o u))
    ∧ (∀ x : Instr × Nat × Option Nat, x ∈ [(.readyFlit p f, 0x12, none), (.digestFlit p f, 0x14, none), (.noticeAbsent p f, 0x15, some 1),
          (.noticeDigestBad p f, 0x15, some 2), (.noticeAbort p f, 0x15, some 3)] →
        arrives s p f x.2.1 = true → (∀ n, x.2.2 = some n → bitsOf f.arg 7 0 = n) →
      let wrong (o : Coll) : Prop := (s.chans[c]).op = some o ∧ unitWrong s o.k [] = true
      (unitIsolated s .collective = true → ∃ u, exec x.1 s = .next u ∧ keeps_ u)
      ∧ (unitIsolated s .collective = false → ∀ o, wrong o → ∃ u, exec x.1 s = .next u ∧ SettledFrom (unitFault base o.k) u)
      ∧ (unitIsolated s .collective = false → (∀ o, ¬ wrong o) →
      (currentFlit s c f = true → ∃ u, exec x.1 s = .next u ∧ SettledFrom (pump (takeControl base c p f) c) u)
      ∧ (∀ o, (s.chans[c]).op = some o → currentFlit s c f = true → o.played = false → x.2.2 = some 3 →
          ∃ u, exec x.1 s = .next u ∧ gone o u)
      ∧ (∀ o, (s.chans[c]).op = some o → currentFlit s c f = true → o.played = false → x.2.1 = 0x12 →
          bitsOf f.arg 25 22 ≠ collFn o.k.desc ∨ bitOf f.arg 7 ≠ coDigest o.k.desc → ∃ u, exec x.1 s = .next u ∧ gone o u)
      ∧ (currentFlit s c f = false → futureFlit s c f = true →
          ∃ u, exec x.1 s = .next u ∧ SettledFrom (modChan base c fun r => { r with held := r.held ++ [f] }) u)
      ∧ (currentFlit s c f = false → futureFlit s c f = false →
          let late (q : BitVec 32 × Slot × TicketId × BitVec 32) : Prop :=
            (s.chans[c]).last = some q ∧ q.1.toNat = bitsOf f.arg 57 26 ∧ x.2.2 = some 2
          ((∀ q, ¬ late q) → ∃ u, exec x.1 s = .next u ∧ keeps_ u)
          ∧ ∀ q, late q → ∃ u, exec x.1 s = .next u ∧ SettledFrom (digestWrong base c p q.2.1 q.2.2.1 q.2.2.2) u)))
    ∧ (arrives s p f 6 = true → let k : ChanId := Fin.ofNat 64 (bitsOf f.arg 50 45)
        ((s.chans[k]).op = none → ∃ u, exec (.burstAddFlit p f) s = .next u ∧ SettledFrom (ackTo base f .invalid) u ∧ u.mem = s.mem)
        ∧ ∀ o, (s.chans[k]).op = some o → ∃ u, exec (.burstAddFlit p f) s = .next u ∧ SettledFrom (pump (performAdd base k f) k) u)

/-- A flit for another module leaves by a port of its route with its TTL less one and a fresh LCRC, taking a credit and a place in the
replay buffer; with TTL 0 or no usable route it is dropped and counted, and a WRITE, READ or FLAGSET is answered INVALID. A flit of a
type that R263 does not list is dropped and counted. A damaged flit is not taken in, and a NAK asks for it again. LINK returns credits and takes
the acknowledged flits from the replay buffer; a NAK replays the rest. A link die that finds itself or its route wrong carries no traffic from
then on. A flit whose size is no flit's is a fault of the sender (R259, R262, R263, R266, R294, R296). How acknowledgements number flits is
the model's choice (log entry 51), and so is which ports a faulted link die takes down (log entry 82). -/
def Obligations.LinksAndRouting : Prop :=
  ∀ (s : State) (p q : PortId) (f : Flit), s.power = .running → portUsable s.ports[p] = true →
    let ps := routePorts s f.dest.toNat
    let forward : Prop := flitSized f = true ∧ intact f = true ∧ f.typ ≠ 0 ∧ knownType f.typ = true ∧ f.dest.toNat ≠ ownModule s
    let wrong := controlWrong s (.linkDie (linkDieOf p)) [(.routing (linkDieOf p), f.dest.toNat)]
    let sent := sealFlit { f with ttl := f.ttl - 1 }
    let types : List Instr := [.writeFlit p f, .readFlit p f, .dataFlit p f, .ackFlit p f, .flagsetFlit p f, .burstAddFlit p f,
      .chainFlit p f false, .resultFlit p f false, .readyFlit p f, .rideFlit p f false, .digestFlit p f, .noticeAbsent p f,
      .noticeDigestBad p f, .noticeAbort p f, .linkFlit p f, .flitForward p q f]
    (forward → wrong = false →
      (f.ttl ≠ 0 → q ∈ ps → (s.ports[q]).credits[vcIx f] ≠ 0 → ∃ u, exec (.flitForward p q f) s = .next u
        ∧ .flit q sent ∈ u.sent ∧ intact sent = true ∧ (u.ports[q]).credits[vcIx f] = (s.ports[q]).credits[vcIx f] - 1
        ∧ (u.ports[q]).replayBuf.getLast? = some sent ∧ u.mem = s.mem ∧ u.flags = s.flags ∧ u.queues = s.queues)
      ∧ (f.ttl = 0 ∨ ps = [] → ∃ u, exec (.flitForward p q f) s = .next u ∧ u.mem = s.mem ∧ u.flags = s.flags
        ∧ (f.typ ≠ 1 → f.typ ≠ 2 → f.typ ≠ 5 → u.fabric.dropped = countUp s.fabric.dropped)
        ∧ (f.typ = 1 ∨ f.typ = 2 ∨ f.typ = 5 → u.fabric.unroutable = countUp s.fabric.unroutable))
      ∧ (f.ttl ≠ 0 → ps ≠ [] → q ∉ ps ∨ (s.ports[q]).credits[vcIx f] = 0 → exec (.flitForward p q f) s = .next s))
    ∧ (forward → wrong = true → ∃ u, exec (.flitForward p q f) s = .next u ∧ .linkDie (linkDieOf p) ∈ u.isolated
      ∧ (∀ x : PortId, linkDieOf x = linkDieOf p → (u.ports[x]).state = 0) ∧ (s.outQueue = [] → u.mem = s.mem ∧ u.flags = s.flags))
    ∧ (knownType f.typ = false → intact f = true → ∃ u, exec (.flitOfOtherType p f) s = .next u
      ∧ u.fabric.dropped = countUp s.fabric.dropped ∧ (u.ports[p]).rxSeq = (s.ports[p]).rxSeq + 1 ∧ u.mem = s.mem ∧ u.flags = s.flags)
    ∧ (flitSized f = true → intact f = true → f.typ = 0 → s.outQueue = [] →
        let left := (s.ports[p]).replayBuf.drop (ackedCount s.ports[p] (BitVec.ofNat 12 (bitsOf f.arg 63 52)))
        ∃ u, exec (.linkFlit p f) s = .next u ∧ (u.ports[p]).replayBuf = left
          ∧ (∀ v : Fin 8, (u.ports[p]).credits[v] = (s.ports[p]).credits[v] + bitsOf f.arg (6 * v.val + 5) (6 * v.val))
          ∧ (u.ports[p]).replays = (if bitOf f.arg 51 = true then countUp (s.ports[p]).replays else (s.ports[p]).replays)
          ∧ u.sent = s.sent ++ (if bitOf f.arg 51 = true then left.map (Sent.replayed p) else []) ∧ u.mem = s.mem)
    ∧ (flitSized f = true → intact f = false → s.ownFlits.contains f = false → ∀ i ∈ .flitOfOtherType p f :: types,
        ∃ u, exec i s = .next u ∧ SettledFrom (linkNak s p) u)
    ∧ (flitSized f = false → ∀ i ∈ types, exec i s = .fault .malformedTransfer)

/-- A failed lane of an UP port begins to move onto a free spare, and SPARE_LANE_SWITCH takes the port to UP_SPARE with a repair
record in flash and in the failure record. With no spare to take, or where the spare in use fails, the port falls to HALF on the lanes that are
left, and one that has lost its other half goes DOWN. Each failure is counted. A port that trains joins traffic UP, UP_SPARE on a
repaired lane, or HALF where either end sees half its lanes; one that carries traffic falls to HALF when the peer has; one of an
isolated link die does not train (R260, R261, R294). -/
def Obligations.LanesAndTraining : Prop :=
  ∀ (s : State) (p : PortId), s.power = .running →
    let r := s.ports[p]
    let failed (u : State) (kind : BitVec 8) : Prop := ∃ f, u.nv.failures.getLast? = some f ∧ f.kind = kind
    let others (u : State) : Prop := (∀ x : PortId, x ≠ p → u.ports[x] = s.ports[x]) ∧ u.mem = s.mem
    let halved (u : State) (l : Fin 8) : Prop :=
      (r.state ≠ 4 → (u.ports[p]).state = 4 ∧ (u.ports[p]).lostHalf = some (laneHalf l.val) ∧ failed u 0x05 ∧ others u)
      ∧ (r.state = 4 → laneHalf l.val = r.lostHalf.getD true → (u.ports[p]).state = 4 ∧ others u)
      ∧ (r.state = 4 → laneHalf l.val ≠ r.lostHalf.getD true → (u.ports[p]).state = 0 ∧ (u.ports[p]).downed = true ∧ failed u 0x06
          ∧ (s.outQueue = [] → others u))
    (portUsable r = true →
      (∀ l : Fin 8, r.repaired = some l ∨ r.moving = some l → exec (.laneFailure p (Fin.castSucc l)) s = .next s)
      ∧ (∀ l : Fin 8, r.repaired ≠ some l → r.moving ≠ some l →
        ∃ u, exec (.laneFailure p (Fin.castSucc l)) s = .next u ∧ (u.ports[p]).failures = countUp r.failures
          ∧ (r.state = 2 → spareFree s p = true → (u.ports[p]).moving = some l ∧ (u.ports[p]).state = 2 ∧ others u)
          ∧ (¬ (r.state = 2 ∧ spareFree s p = true) → halved u l))
      ∧ (r.spareBad = true → exec (.laneFailure p 8) s = .next s)
      ∧ (r.spareBad = false → r.repaired = none → r.moving = none → ∃ u, exec (.laneFailure p 8) s = .next u
        ∧ SettledFrom (modPort s p fun x => { x with failures := countUp x.failures, spareBad := true }) u)
      ∧ (∀ l, r.spareBad = false → r.repaired = some l ∨ (r.repaired = none ∧ r.moving = some l) →
        ∃ u, exec (.laneFailure p 8) s = .next u ∧ (u.ports[p]).failures = countUp r.failures ∧ (u.ports[p]).spareBad = true ∧ halved u l))
    ∧ (∀ l, r.moving = some l → r.state = 2 ∨ r.state = 4 → ∃ u, exec (.spareLaneSwitch p) s = .next u
        ∧ (u.ports[p]).state = (if r.state = 4 then 4 else 3)
        ∧ (u.ports[p]).repaired = some l ∧ (u.ports[p]).moving = none ∧ u.nv.lanes[p] = some l ∧ failed u 0x04 ∧ others u)
    ∧ ∀ (peer : BitVec 13) (half : Option Bool),
        let trains : Prop := s.isolated.contains (.linkDie (linkDieOf p)) = false
          ∧ (r.state = 1 ∨ (r.state = 0 ∧ r.downed = false ∧ bitOf s.fabric.portEnable p.val = true))
        let narrows : Prop := (r.state = 2 ∨ r.state = 3) ∧ half ≠ none
        (¬ (trains ∨ narrows) → exec (.portTrainingComplete p peer half) s = .next s)
        ∧ (trains ∨ narrows → s.outQueue = [] → ∃ u, exec (.portTrainingComplete p peer half) s = .next u
          ∧ (u.ports[p]).peer = peer.setWidth 16 ∧ (u.ports[p]).lostHalf = r.lostHalf.or half
          ∧ (u.ports[p]).state = (if half ≠ none ∨ r.lostHalf ≠ none then 4 else if r.repaired ≠ none then 3 else 2)
          ∧ (half ≠ none → r.lostHalf = none → failed u 0x05) ∧ others u)

/-! ## Steps, replays and swaps -/

/-- A scale entry at the commit of data step t keeps its σ for the replays, pushes the parity's capture into its history, empties
that capture, and chooses σ anew: INIT where it is frozen or its history is empty, else the history's maximum less the format's
range, plus the margin, clamped to ±127 (R97, R98). A slot's commit, once its flag has reached its target and nothing holds it
back, raises both steps, moves the target on, commits every scale entry and no other byte beside its image, keeps a poisoned burst
of the table poisoned, notes its image, counts tiles from 0 again, and raises the committed flag on the dies that admit it; else it changes
nothing. Resilience logic that finds its control fields or a flag's entry wrong is isolated instead, and commits nothing. Under Strict a cause
of the step is handed on for its replays (R40, R294, R296, R306, R320 to R322, R436). The unit that such a fault names is the model's choice
(log entry 103). That LAST_STEP takes the step
that commits, and that what shares the table's last burst stays, are the model's readings (log entries 58 and 59). -/
def Obligations.StepCommits : Prop :=
  (∀ (t : Nat) (e : List Byte), e.length = 32 → t < 2 ^ 32 →
    let par := t % 2
    let head := fieldNat e 3 1 % 16
    let new := commitEntry t e
    new.length = 32 ∧ fieldNat new 24 4 = t ∧ fieldNat new 31 1 = fieldNat e (4 + par) 1 ∧ fieldNat new (6 + par) 1 = 0x80
    ∧ fieldNat new (8 + head) 1 = fieldNat e (6 + par) 1 ∧ fieldNat new 3 1 % 16 = (head + 1) % 16
    ∧ (fieldNat e 1 1 / 64 % 2 = 1 → fieldNat new (4 + par) 1 = fieldNat e 2 1)
    ∧ (fieldNat e 1 1 / 64 % 2 = 0 →
        let hist := (List.range 16).map fun i => if i = head then fieldNat e (6 + par) 1 else fieldNat e (8 + i) 1
        let live := hist.filter fun b => b != 0x80 && b != 0x7F
        (live = [] → fieldNat new (4 + par) 1 = fieldNat e 2 1)
        ∧ ∀ m ∈ live, (∀ b ∈ live, (BitVec.ofNat 8 b).toInt ≤ (BitVec.ofNat 8 m).toInt) →
            (BitVec.ofNat 8 (fieldNat new (4 + par) 1)).toInt
              = max (-127) (min 127 ((BitVec.ofNat 8 m).toInt - (if fieldNat e 0 1 = 0 then 8 else 15) + fieldNat e 1 1 % 8))))
  ∧ ∀ (s : State) (j : Slot), s.memWf = true →
    let r := s.slots[j]
    let t := r.dataStep.toNat + 1
    let goes : Prop := unitIsolated s .mirror = false ∧ commitReady s j = true
    (¬ goes → exec (.stepCommit j) s = .next s)
    ∧ (goes → controlWrong s .mirror (commitEntries s j) = true →
        ∃ u, exec (.stepCommit j) s = .next u ∧ SettledFrom (controlFault s .mirror (unitByte 6 0) j 0) u)
    ∧ (goes → controlWrong s .mirror (commitEntries s j) = false → ∃ u, exec (.stepCommit j) s = .next u ∧ u.commits = s.commits + 1
        ∧ u.slots[j].dataStep = r.dataStep + 1 ∧ u.slots[j].streamStep = r.streamStep + 1
        ∧ u.slots[j].commitBase = r.commitBase + r.commitInc.setWidth 16 ∧ u.slots[j].suspect = false ∧ u.slots[j].gated = false
        ∧ (r.inForce.integrity ≠ .strict → u.slots[j].finalStep = BitVec.ofNat 32 t ∧ u.slots[j].suspectPrev = false)
        ∧ (r.inForce.integrity = .strict → u.slots[j].finalStep = r.finalStep ∧ u.slots[j].suspectPrev = r.suspect
            ∧ u.slots[j].resolutionFailed = r.noReplay ∧ u.slots[j].callLogPrev = r.callLog
            ∧ u.slots[j].replayPrev = joinedCalls r.chains r.chains.length r.replayCalls)
        ∧ (∀ n, 8 * j.val ≤ n → n < 8 * (j.val + 1) → sparseGet 0 u.tileCounts n = 0)
        ∧ (Fin.ofNat 2 t, BitVec.ofNat 32 t) ∈ u.slots[j].images
        ∧ (∀ d : Die, let e := flagEntry s d r.committedFlag
            flagEntry u d r.committedFlag = if feEnable e = true ∧ feSlot e = j ∧ feRemote e = true then feSetValue e (feValue e + 1) else e)
        ∧ (∀ n, (∀ d : Die, n ≠ flagKey d r.committedFlag) → sparseGet 0 u.flags n = sparseGet 0 s.flags n)
        ∧ (r.scaleBase.toNat % 256 = 0 → imageAddr r t % 256 = 0 →
            (r.scaleBase.toNat + scalePart r ≤ imageAddr r t ∨ imageAddr r t + imageSize r ≤ r.scaleBase.toNat) →
            (∀ i < r.scaleCount.toNat, let a := r.scaleBase.toNat + 32 * i
              (burstBad s (a / 256) = false → memBytes u a 32 = commitEntry r.dataStep.toNat (memBytes s a 32))
              ∧ (isPoison s (a / 256) = true → isPoison u (a / 256) = true))
            ∧ ∀ x, x < r.scaleBase.toNat ∨ r.scaleBase.toNat + 32 * r.scaleCount.toNat ≤ x →
                x < imageAddr r t ∨ imageAddr r t + imageSize r ≤ x → memByte u x = memByte s x)
        ∧ u.queues = s.queues ∧ u.rings = s.rings ∧ u.engines = s.engines)

/-- A die swap that waits takes effect once no ticket of its pair is in flight (R305). A suspect CALL of the step before, with those
joined to it, begins its replay under Strict at a replay point of the dies that it takes: the CALLs are issued there again, at step t.
The descriptors that they expand to are taken up in order as their tickets come free. A replay whose work is done is compared with the
signatures that the original run left: where one differs, the resolution fails and a mismatch is counted. A flagged update descriptor is
reissued over the entries that it had popped; clean, it leaves the gate, and a second cause fails the module as a unit fault, and holds the
step's commit back (R305, R307 to R309, R321). What of a replay the spec leaves to
the resilience logic's order is the model's choice (log entry 84). -/
def Obligations.SwapsAndReplays : Prop :=
  (∀ (s : State) (p : Fin 2),
    (s.integrity.swapDue[p] = none ∨ pairIdle s p = false → exec (.dieSwap p) s = .next s)
    ∧ ∀ b, s.integrity.swapDue[p] = some b → pairIdle s p = true → ∃ u, exec (.dieSwap p) s = .next u ∧ u.integrity.swap[p] = b
        ∧ u.integrity.swapDue[p] = none ∧ (∀ q : Fin 2, q ≠ p → u.integrity.swap[q] = s.integrity.swap[q])
        ∧ u.tickets = s.tickets ∧ u.mem = s.mem)
  ∧ (∀ (s : State) (j : Slot) (a : Die) (n : Fin 256), s.power = .running →
    let t := dieTk a n
    let r := s.slots[j]
    let repeated := s.repeats.find? fun k => dSlot k.desc == j && k.ticket == t
    let keeps_ (u : State) : Prop := u.mem = s.mem ∧ u.flags = s.flags ∧ u.rings = s.rings
    (∀ k, repeated = some k →
      (getTk s t ≠ none → exec (.replay j a n) s = .next s)
      ∧ (getTk s t = none → ∃ u q, exec (.replay j a n) s = .next u ∧ getTk u t = some q ∧ q.phase = .fetched ∧ q.isRepeat = true
          ∧ q.desc = k.desc ∧ q.causes = [] ∧ u.repeats = s.repeats ∧ keeps_ u ∧ (k.popped = [] → u.queues = s.queues)
          ∧ ∀ y, k.popped = [y] → sparseWf [] s.queues = true → let shelf := ({ k with isRepeat := true } : Tk).shelf
              entriesOf u shelf y.1 = entriesOf s shelf y.1 ++ [{ y.2 with freed := false }]))
    ∧ (∀ run, repeated = none → r.replaying = some run →
      (∀ p, run.descs[run.taken]? = some p →
        (getTk s (dTicket p.2) ≠ none → ∃ u, exec (.replay j a n) s = .next u ∧ SettledFrom (noteWaits s) u)
        ∧ (getTk s (dTicket p.2) = none → ∃ u q next, exec (.replay j a n) s = .next u ∧ getTk u (dTicket p.2) = some q ∧ q.isReplay = true
            ∧ q.desc = p.2 ∧ q.parent = some p.1
            ∧ q.dataStep = s.slots[dSlot p.2].dataStep - 1 ∧ q.streamStep = s.slots[dSlot p.2].streamStep - 1
            ∧ u.slots[j].replaying = some next ∧ run.taken < next.taken ∧ next.descs = run.descs ∧ keeps_ u))
      ∧ (run.descs.length ≤ run.taken →
        ((slotTks s j).any (·.isReplay) = true → exec (.replay j a n) s = .next s)
        ∧ ((slotTks s j).any (·.isReplay) = false →
          ∃ u, exec (.replay j a n) s = .next u ∧ u.slots[j].replaying = none ∧ keeps_ u
            ∧ u.slots[j].replayPrev = r.replayPrev.filter (fun c => !run.calls.any fun p => p.1 == c)
            ∧ ((∀ p ∈ run.calls, signatureOf s j p.1 (r.dataStep - 1) = some p.2) → u.slots[j].resolutionFailed = r.resolutionFailed
                ∧ u.integrity.replayMismatches = s.integrity.replayMismatches
                ∧ (r.resolutionFailed = false → u.slots[j].replayPrev = [] → u.slots[j].suspectPrev = false))
            ∧ (∀ p ∈ run.calls, signatureOf s j p.1 (r.dataStep - 1) ≠ some p.2 → u.slots[j].resolutionFailed = true
                ∧ u.slots[j].suspectPrev = r.suspectPrev)
            ∧ ∀ p, run.calls = [p] → u.integrity.replays = countUp s.integrity.replays
                ∧ (signatureOf s j p.1 (r.dataStep - 1) ≠ some p.2 →
                    u.integrity.replayMismatches = countUp s.integrity.replayMismatches))))
    ∧ (repeated = none → r.replaying = none → r.replayPrev.find? (fun c => c.1 == t) = none → exec (.replay j a n) s = .next s)
    ∧ ∀ c, repeated = none → r.replaying = none → r.replayPrev.find? (fun c => c.1 == t) = some c →
        let ids := joinedCalls r.chainsPrev r.chainsPrev.length [c]
        let logs := r.callLogPrev.filter fun l => ids.contains l.call
        let ready : Prop := r.inForce.integrity = .strict ∧ ∀ l ∈ logs, let d := dieXor (tkDie l.call.1)
          replayPoint s d j = true ∧ getTk s l.call.1 = none
          ∧ (logs.filter fun o => dieXor (tkDie o.call.1) == d).length
              ≤ ((List.finRange 8).filter fun x => (ctxOf s (servedDie s d) x).isNone).length
        (¬ ready → ∃ u, exec (.replay j a n) s = .next u ∧ SettledFrom s u)
        ∧ (ready → ∃ u run, exec (.replay j a n) s = .next u ∧ u.slots[j].replaying = some run ∧ run.calls = ids.map (fun i => (i, 0))
            ∧ run.descs = [] ∧ keeps_ u ∧ ∀ l ∈ logs, ∃ q, getTk u (dTicket l.desc) = some q ∧ q.isReplay = true ∧ q.phase = .issued))
  ∧ ∀ (s : State) (t : TicketId) (k : Tk), getTk s t = some k → k.ticket = t → k.phase = .ended → k.isRepeat = true →
      dispatches s k = true → unitIsolated s (tkUnit s k) = false → settledTk s k = true →
      ∃ u, exec (.descriptorCompletion t) s = .next u ∧ u.flags = s.flags
        ∧ (k.causes.any suspectStatus = false → u.failedCause = s.failedCause ∧ u.nv.failures = s.nv.failures
            ∧ ∀ o ∈ u.repeats, ¬ (o.ticket = t ∧ dSlot o.desc = dSlot k.desc))
        ∧ (k.causes.any suspectStatus = true → u.failedCause = true ∧ (∃ f, u.nv.failures.getLast? = some f ∧ f.kind = 0x0B)
            ∧ u.slots[dSlot k.desc].repeatFailed = true)

/-! ## Forms that every step keeps -/

/-- Whatever the command, a step keeps the memory and the poison marks in their one form and every ticket in flight in its own place
of the table (the forms are the model's own; R139 gives the tickets their places). -/
def Obligations.FormsKept : Prop :=
  ∀ s t : State, s.memWf = true → TicketsPlaced s → step s = .next t → t.memWf = true ∧ TicketsPlaced t
end

