-- ==== Sys2Proof/Laws/State.lean ====
section
/-! SUPPORT. What each named update of the state leaves as it was, one lemma per field, and what the end of every command may
change. -/

namespace Sys2Proof.Machine

/-! ## emit -/

section
variable (s : State) (m : Sent)

@[simp] theorem emit_pending : (emit s m).pending = s.pending := rfl
@[simp] theorem emit_power : (emit s m).power = s.power := rfl
@[simp] theorem emit_vinOk : (emit s m).vinOk = s.vinOk := rfl
@[simp] theorem emit_pwrOk : (emit s m).pwrOk = s.pwrOk := rfl
@[simp] theorem emit_resetN : (emit s m).resetN = s.resetN := rfl
@[simp] theorem emit_tier2Kept : (emit s m).tier2Kept = s.tier2Kept := rfl
@[simp] theorem emit_straps : (emit s m).straps = s.straps := rfl
@[simp] theorem emit_nv : (emit s m).nv = s.nv := rfl
@[simp] theorem emit_security : (emit s m).security = s.security := rfl
@[simp] theorem emit_mailbox : (emit s m).mailbox = s.mailbox := rfl
@[simp] theorem emit_field : (emit s m).field = s.field := rfl
@[simp] theorem emit_owners : (emit s m).owners = s.owners := rfl
@[simp] theorem emit_integrity : (emit s m).integrity = s.integrity := rfl
@[simp] theorem emit_fabric : (emit s m).fabric = s.fabric := rfl
@[simp] theorem emit_pm : (emit s m).pm = s.pm := rfl
@[simp] theorem emit_failedCause : (emit s m).failedCause = s.failedCause := rfl
@[simp] theorem emit_tripped : (emit s m).tripped = s.tripped := rfl
@[simp] theorem emit_degraded : (emit s m).degraded = s.degraded := rfl
@[simp] theorem emit_isolated : (emit s m).isolated = s.isolated := rfl
@[simp] theorem emit_commits : (emit s m).commits = s.commits := rfl
@[simp] theorem emit_rateWindow : (emit s m).rateWindow = s.rateWindow := rfl
@[simp] theorem emit_generation : (emit s m).generation = s.generation := rfl
@[simp] theorem emit_mixerInput : (emit s m).mixerInput = s.mixerInput := rfl
@[simp] theorem emit_warnEntries : (emit s m).warnEntries = s.warnEntries := rfl
@[simp] theorem emit_critEntries : (emit s m).critEntries = s.critEntries := rfl
@[simp] theorem emit_throttleMicros : (emit s m).throttleMicros = s.throttleMicros := rfl
@[simp] theorem emit_prepareMs : (emit s m).prepareMs = s.prepareMs := rfl
@[simp] theorem emit_lastCommand : (emit s m).lastCommand = s.lastCommand := rfl
@[simp] theorem emit_openWrites : (emit s m).openWrites = s.openWrites := rfl
@[simp] theorem emit_snapRequest : (emit s m).snapRequest = s.snapRequest := rfl
@[simp] theorem emit_snapTool : (emit s m).snapTool = s.snapTool := rfl
@[simp] theorem emit_snapUcie : (emit s m).snapUcie = s.snapUcie := rfl
@[simp] theorem emit_agentHeld : (emit s m).agentHeld = s.agentHeld := rfl
@[simp] theorem emit_agentQueue : (emit s m).agentQueue = s.agentQueue := rfl
@[simp] theorem emit_slots : (emit s m).slots = s.slots := rfl
@[simp] theorem emit_rings : (emit s m).rings = s.rings := rfl
@[simp] theorem emit_dies : (emit s m).dies = s.dies := rfl
@[simp] theorem emit_engines : (emit s m).engines = s.engines := rfl
@[simp] theorem emit_accs : (emit s m).accs = s.accs := rfl
@[simp] theorem emit_homes : (emit s m).homes = s.homes := rfl
@[simp] theorem emit_ports : (emit s m).ports = s.ports := rfl
@[simp] theorem emit_chans : (emit s m).chans = s.chans := rfl
@[simp] theorem emit_cvus : (emit s m).cvus = s.cvus := rfl
@[simp] theorem emit_ctxs : (emit s m).ctxs = s.ctxs := rfl
@[simp] theorem emit_tickets : (emit s m).tickets = s.tickets := rfl
@[simp] theorem emit_lingering : (emit s m).lingering = s.lingering := rfl
@[simp] theorem emit_repeats : (emit s m).repeats = s.repeats := rfl
@[simp] theorem emit_queueEnds : (emit s m).queueEnds = s.queueEnds := rfl
@[simp] theorem emit_flags : (emit s m).flags = s.flags := rfl
@[simp] theorem emit_routes : (emit s m).routes = s.routes := rfl
@[simp] theorem emit_members : (emit s m).members = s.members := rfl
@[simp] theorem emit_variants : (emit s m).variants = s.variants := rfl
@[simp] theorem emit_buffers : (emit s m).buffers = s.buffers := rfl
@[simp] theorem emit_netHosts : (emit s m).netHosts = s.netHosts := rfl
@[simp] theorem emit_queues : (emit s m).queues = s.queues := rfl
@[simp] theorem emit_queuePos : (emit s m).queuePos = s.queuePos := rfl
@[simp] theorem emit_mem : (emit s m).mem = s.mem := rfl
@[simp] theorem emit_poison : (emit s m).poison = s.poison := rfl
@[simp] theorem emit_writebacks : (emit s m).writebacks = s.writebacks := rfl
@[simp] theorem emit_upsets : (emit s m).upsets = s.upsets := rfl
@[simp] theorem emit_cleared : (emit s m).cleared = s.cleared := rfl
@[simp] theorem emit_homeQueue : (emit s m).homeQueue = s.homeQueue := rfl
@[simp] theorem emit_headQueue : (emit s m).headQueue = s.headQueue := rfl
@[simp] theorem emit_fabReqs : (emit s m).fabReqs = s.fabReqs := rfl
@[simp] theorem emit_waitReqs : (emit s m).waitReqs = s.waitReqs := rfl
@[simp] theorem emit_readsPassed : (emit s m).readsPassed = s.readsPassed := rfl
@[simp] theorem emit_outQueue : (emit s m).outQueue = s.outQueue := rfl
@[simp] theorem emit_ownFlits : (emit s m).ownFlits = s.ownFlits := rfl
@[simp] theorem emit_tileCounts : (emit s m).tileCounts = s.tileCounts := rfl
@[simp] theorem emit_nextInst : (emit s m).nextInst = s.nextInst := rfl
@[simp] theorem emit_nextIssue : (emit s m).nextIssue = s.nextIssue := rfl
@[simp] theorem emit_nextEntry : (emit s m).nextEntry = s.nextEntry := rfl
@[simp] theorem emit_freeReads : (emit s m).freeReads = s.freeReads := rfl

end

/-! ## modSlot -/

section
variable (s : State) (j : Slot) (f : SlotR → SlotR)

@[simp] theorem modSlot_pending : (modSlot s j f).pending = s.pending := rfl
@[simp] theorem modSlot_sent : (modSlot s j f).sent = s.sent := rfl
@[simp] theorem modSlot_power : (modSlot s j f).power = s.power := rfl
@[simp] theorem modSlot_vinOk : (modSlot s j f).vinOk = s.vinOk := rfl
@[simp] theorem modSlot_pwrOk : (modSlot s j f).pwrOk = s.pwrOk := rfl
@[simp] theorem modSlot_resetN : (modSlot s j f).resetN = s.resetN := rfl
@[simp] theorem modSlot_tier2Kept : (modSlot s j f).tier2Kept = s.tier2Kept := rfl
@[simp] theorem modSlot_straps : (modSlot s j f).straps = s.straps := rfl
@[simp] theorem modSlot_nv : (modSlot s j f).nv = s.nv := rfl
@[simp] theorem modSlot_security : (modSlot s j f).security = s.security := rfl
@[simp] theorem modSlot_mailbox : (modSlot s j f).mailbox = s.mailbox := rfl
@[simp] theorem modSlot_field : (modSlot s j f).field = s.field := rfl
@[simp] theorem modSlot_owners : (modSlot s j f).owners = s.owners := rfl
@[simp] theorem modSlot_integrity : (modSlot s j f).integrity = s.integrity := rfl
@[simp] theorem modSlot_fabric : (modSlot s j f).fabric = s.fabric := rfl
@[simp] theorem modSlot_pm : (modSlot s j f).pm = s.pm := rfl
@[simp] theorem modSlot_failedCause : (modSlot s j f).failedCause = s.failedCause := rfl
@[simp] theorem modSlot_tripped : (modSlot s j f).tripped = s.tripped := rfl
@[simp] theorem modSlot_degraded : (modSlot s j f).degraded = s.degraded := rfl
@[simp] theorem modSlot_isolated : (modSlot s j f).isolated = s.isolated := rfl
@[simp] theorem modSlot_commits : (modSlot s j f).commits = s.commits := rfl
@[simp] theorem modSlot_rateWindow : (modSlot s j f).rateWindow = s.rateWindow := rfl
@[simp] theorem modSlot_generation : (modSlot s j f).generation = s.generation := rfl
@[simp] theorem modSlot_mixerInput : (modSlot s j f).mixerInput = s.mixerInput := rfl
@[simp] theorem modSlot_warnEntries : (modSlot s j f).warnEntries = s.warnEntries := rfl
@[simp] theorem modSlot_critEntries : (modSlot s j f).critEntries = s.critEntries := rfl
@[simp] theorem modSlot_throttleMicros : (modSlot s j f).throttleMicros = s.throttleMicros := rfl
@[simp] theorem modSlot_prepareMs : (modSlot s j f).prepareMs = s.prepareMs := rfl
@[simp] theorem modSlot_lastCommand : (modSlot s j f).lastCommand = s.lastCommand := rfl
@[simp] theorem modSlot_openWrites : (modSlot s j f).openWrites = s.openWrites := rfl
@[simp] theorem modSlot_snapRequest : (modSlot s j f).snapRequest = s.snapRequest := rfl
@[simp] theorem modSlot_snapTool : (modSlot s j f).snapTool = s.snapTool := rfl
@[simp] theorem modSlot_snapUcie : (modSlot s j f).snapUcie = s.snapUcie := rfl
@[simp] theorem modSlot_agentHeld : (modSlot s j f).agentHeld = s.agentHeld := rfl
@[simp] theorem modSlot_agentQueue : (modSlot s j f).agentQueue = s.agentQueue := rfl
@[simp] theorem modSlot_rings : (modSlot s j f).rings = s.rings := rfl
@[simp] theorem modSlot_dies : (modSlot s j f).dies = s.dies := rfl
@[simp] theorem modSlot_engines : (modSlot s j f).engines = s.engines := rfl
@[simp] theorem modSlot_accs : (modSlot s j f).accs = s.accs := rfl
@[simp] theorem modSlot_homes : (modSlot s j f).homes = s.homes := rfl
@[simp] theorem modSlot_ports : (modSlot s j f).ports = s.ports := rfl
@[simp] theorem modSlot_chans : (modSlot s j f).chans = s.chans := rfl
@[simp] theorem modSlot_cvus : (modSlot s j f).cvus = s.cvus := rfl
@[simp] theorem modSlot_ctxs : (modSlot s j f).ctxs = s.ctxs := rfl
@[simp] theorem modSlot_tickets : (modSlot s j f).tickets = s.tickets := rfl
@[simp] theorem modSlot_lingering : (modSlot s j f).lingering = s.lingering := rfl
@[simp] theorem modSlot_repeats : (modSlot s j f).repeats = s.repeats := rfl
@[simp] theorem modSlot_queueEnds : (modSlot s j f).queueEnds = s.queueEnds := rfl
@[simp] theorem modSlot_flags : (modSlot s j f).flags = s.flags := rfl
@[simp] theorem modSlot_routes : (modSlot s j f).routes = s.routes := rfl
@[simp] theorem modSlot_members : (modSlot s j f).members = s.members := rfl
@[simp] theorem modSlot_variants : (modSlot s j f).variants = s.variants := rfl
@[simp] theorem modSlot_buffers : (modSlot s j f).buffers = s.buffers := rfl
@[simp] theorem modSlot_netHosts : (modSlot s j f).netHosts = s.netHosts := rfl
@[simp] theorem modSlot_queues : (modSlot s j f).queues = s.queues := rfl
@[simp] theorem modSlot_queuePos : (modSlot s j f).queuePos = s.queuePos := rfl
@[simp] theorem modSlot_mem : (modSlot s j f).mem = s.mem := rfl
@[simp] theorem modSlot_poison : (modSlot s j f).poison = s.poison := rfl
@[simp] theorem modSlot_writebacks : (modSlot s j f).writebacks = s.writebacks := rfl
@[simp] theorem modSlot_upsets : (modSlot s j f).upsets = s.upsets := rfl
@[simp] theorem modSlot_cleared : (modSlot s j f).cleared = s.cleared := rfl
@[simp] theorem modSlot_homeQueue : (modSlot s j f).homeQueue = s.homeQueue := rfl
@[simp] theorem modSlot_headQueue : (modSlot s j f).headQueue = s.headQueue := rfl
@[simp] theorem modSlot_fabReqs : (modSlot s j f).fabReqs = s.fabReqs := rfl
@[simp] theorem modSlot_waitReqs : (modSlot s j f).waitReqs = s.waitReqs := rfl
@[simp] theorem modSlot_readsPassed : (modSlot s j f).readsPassed = s.readsPassed := rfl
@[simp] theorem modSlot_outQueue : (modSlot s j f).outQueue = s.outQueue := rfl
@[simp] theorem modSlot_ownFlits : (modSlot s j f).ownFlits = s.ownFlits := rfl
@[simp] theorem modSlot_tileCounts : (modSlot s j f).tileCounts = s.tileCounts := rfl
@[simp] theorem modSlot_nextInst : (modSlot s j f).nextInst = s.nextInst := rfl
@[simp] theorem modSlot_nextIssue : (modSlot s j f).nextIssue = s.nextIssue := rfl
@[simp] theorem modSlot_nextEntry : (modSlot s j f).nextEntry = s.nextEntry := rfl
@[simp] theorem modSlot_freeReads : (modSlot s j f).freeReads = s.freeReads := rfl

end

/-! ## modDie -/

section
variable (s : State) (d : Die) (f : DieR → DieR)

@[simp] theorem modDie_pending : (modDie s d f).pending = s.pending := rfl
@[simp] theorem modDie_sent : (modDie s d f).sent = s.sent := rfl
@[simp] theorem modDie_power : (modDie s d f).power = s.power := rfl
@[simp] theorem modDie_vinOk : (modDie s d f).vinOk = s.vinOk := rfl
@[simp] theorem modDie_pwrOk : (modDie s d f).pwrOk = s.pwrOk := rfl
@[simp] theorem modDie_resetN : (modDie s d f).resetN = s.resetN := rfl
@[simp] theorem modDie_tier2Kept : (modDie s d f).tier2Kept = s.tier2Kept := rfl
@[simp] theorem modDie_straps : (modDie s d f).straps = s.straps := rfl
@[simp] theorem modDie_nv : (modDie s d f).nv = s.nv := rfl
@[simp] theorem modDie_security : (modDie s d f).security = s.security := rfl
@[simp] theorem modDie_mailbox : (modDie s d f).mailbox = s.mailbox := rfl
@[simp] theorem modDie_field : (modDie s d f).field = s.field := rfl
@[simp] theorem modDie_owners : (modDie s d f).owners = s.owners := rfl
@[simp] theorem modDie_integrity : (modDie s d f).integrity = s.integrity := rfl
@[simp] theorem modDie_fabric : (modDie s d f).fabric = s.fabric := rfl
@[simp] theorem modDie_pm : (modDie s d f).pm = s.pm := rfl
@[simp] theorem modDie_failedCause : (modDie s d f).failedCause = s.failedCause := rfl
@[simp] theorem modDie_tripped : (modDie s d f).tripped = s.tripped := rfl
@[simp] theorem modDie_degraded : (modDie s d f).degraded = s.degraded := rfl
@[simp] theorem modDie_isolated : (modDie s d f).isolated = s.isolated := rfl
@[simp] theorem modDie_commits : (modDie s d f).commits = s.commits := rfl
@[simp] theorem modDie_rateWindow : (modDie s d f).rateWindow = s.rateWindow := rfl
@[simp] theorem modDie_generation : (modDie s d f).generation = s.generation := rfl
@[simp] theorem modDie_mixerInput : (modDie s d f).mixerInput = s.mixerInput := rfl
@[simp] theorem modDie_warnEntries : (modDie s d f).warnEntries = s.warnEntries := rfl
@[simp] theorem modDie_critEntries : (modDie s d f).critEntries = s.critEntries := rfl
@[simp] theorem modDie_throttleMicros : (modDie s d f).throttleMicros = s.throttleMicros := rfl
@[simp] theorem modDie_prepareMs : (modDie s d f).prepareMs = s.prepareMs := rfl
@[simp] theorem modDie_lastCommand : (modDie s d f).lastCommand = s.lastCommand := rfl
@[simp] theorem modDie_openWrites : (modDie s d f).openWrites = s.openWrites := rfl
@[simp] theorem modDie_snapRequest : (modDie s d f).snapRequest = s.snapRequest := rfl
@[simp] theorem modDie_snapTool : (modDie s d f).snapTool = s.snapTool := rfl
@[simp] theorem modDie_snapUcie : (modDie s d f).snapUcie = s.snapUcie := rfl
@[simp] theorem modDie_agentHeld : (modDie s d f).agentHeld = s.agentHeld := rfl
@[simp] theorem modDie_agentQueue : (modDie s d f).agentQueue = s.agentQueue := rfl
@[simp] theorem modDie_slots : (modDie s d f).slots = s.slots := rfl
@[simp] theorem modDie_rings : (modDie s d f).rings = s.rings := rfl
@[simp] theorem modDie_engines : (modDie s d f).engines = s.engines := rfl
@[simp] theorem modDie_accs : (modDie s d f).accs = s.accs := rfl
@[simp] theorem modDie_homes : (modDie s d f).homes = s.homes := rfl
@[simp] theorem modDie_ports : (modDie s d f).ports = s.ports := rfl
@[simp] theorem modDie_chans : (modDie s d f).chans = s.chans := rfl
@[simp] theorem modDie_cvus : (modDie s d f).cvus = s.cvus := rfl
@[simp] theorem modDie_ctxs : (modDie s d f).ctxs = s.ctxs := rfl
@[simp] theorem modDie_tickets : (modDie s d f).tickets = s.tickets := rfl
@[simp] theorem modDie_lingering : (modDie s d f).lingering = s.lingering := rfl
@[simp] theorem modDie_repeats : (modDie s d f).repeats = s.repeats := rfl
@[simp] theorem modDie_queueEnds : (modDie s d f).queueEnds = s.queueEnds := rfl
@[simp] theorem modDie_flags : (modDie s d f).flags = s.flags := rfl
@[simp] theorem modDie_routes : (modDie s d f).routes = s.routes := rfl
@[simp] theorem modDie_members : (modDie s d f).members = s.members := rfl
@[simp] theorem modDie_variants : (modDie s d f).variants = s.variants := rfl
@[simp] theorem modDie_buffers : (modDie s d f).buffers = s.buffers := rfl
@[simp] theorem modDie_netHosts : (modDie s d f).netHosts = s.netHosts := rfl
@[simp] theorem modDie_queues : (modDie s d f).queues = s.queues := rfl
@[simp] theorem modDie_queuePos : (modDie s d f).queuePos = s.queuePos := rfl
@[simp] theorem modDie_mem : (modDie s d f).mem = s.mem := rfl
@[simp] theorem modDie_poison : (modDie s d f).poison = s.poison := rfl
@[simp] theorem modDie_writebacks : (modDie s d f).writebacks = s.writebacks := rfl
@[simp] theorem modDie_upsets : (modDie s d f).upsets = s.upsets := rfl
@[simp] theorem modDie_cleared : (modDie s d f).cleared = s.cleared := rfl
@[simp] theorem modDie_homeQueue : (modDie s d f).homeQueue = s.homeQueue := rfl
@[simp] theorem modDie_headQueue : (modDie s d f).headQueue = s.headQueue := rfl
@[simp] theorem modDie_fabReqs : (modDie s d f).fabReqs = s.fabReqs := rfl
@[simp] theorem modDie_waitReqs : (modDie s d f).waitReqs = s.waitReqs := rfl
@[simp] theorem modDie_readsPassed : (modDie s d f).readsPassed = s.readsPassed := rfl
@[simp] theorem modDie_outQueue : (modDie s d f).outQueue = s.outQueue := rfl
@[simp] theorem modDie_ownFlits : (modDie s d f).ownFlits = s.ownFlits := rfl
@[simp] theorem modDie_tileCounts : (modDie s d f).tileCounts = s.tileCounts := rfl
@[simp] theorem modDie_nextInst : (modDie s d f).nextInst = s.nextInst := rfl
@[simp] theorem modDie_nextIssue : (modDie s d f).nextIssue = s.nextIssue := rfl
@[simp] theorem modDie_nextEntry : (modDie s d f).nextEntry = s.nextEntry := rfl
@[simp] theorem modDie_freeReads : (modDie s d f).freeReads = s.freeReads := rfl

end

/-! ## modEng -/

section
variable (s : State) (e : Eng) (f : EngineR → EngineR)

@[simp] theorem modEng_pending : (modEng s e f).pending = s.pending := rfl
@[simp] theorem modEng_sent : (modEng s e f).sent = s.sent := rfl
@[simp] theorem modEng_power : (modEng s e f).power = s.power := rfl
@[simp] theorem modEng_vinOk : (modEng s e f).vinOk = s.vinOk := rfl
@[simp] theorem modEng_pwrOk : (modEng s e f).pwrOk = s.pwrOk := rfl
@[simp] theorem modEng_resetN : (modEng s e f).resetN = s.resetN := rfl
@[simp] theorem modEng_tier2Kept : (modEng s e f).tier2Kept = s.tier2Kept := rfl
@[simp] theorem modEng_straps : (modEng s e f).straps = s.straps := rfl
@[simp] theorem modEng_nv : (modEng s e f).nv = s.nv := rfl
@[simp] theorem modEng_security : (modEng s e f).security = s.security := rfl
@[simp] theorem modEng_mailbox : (modEng s e f).mailbox = s.mailbox := rfl
@[simp] theorem modEng_field : (modEng s e f).field = s.field := rfl
@[simp] theorem modEng_owners : (modEng s e f).owners = s.owners := rfl
@[simp] theorem modEng_integrity : (modEng s e f).integrity = s.integrity := rfl
@[simp] theorem modEng_fabric : (modEng s e f).fabric = s.fabric := rfl
@[simp] theorem modEng_pm : (modEng s e f).pm = s.pm := rfl
@[simp] theorem modEng_failedCause : (modEng s e f).failedCause = s.failedCause := rfl
@[simp] theorem modEng_tripped : (modEng s e f).tripped = s.tripped := rfl
@[simp] theorem modEng_degraded : (modEng s e f).degraded = s.degraded := rfl
@[simp] theorem modEng_isolated : (modEng s e f).isolated = s.isolated := rfl
@[simp] theorem modEng_commits : (modEng s e f).commits = s.commits := rfl
@[simp] theorem modEng_rateWindow : (modEng s e f).rateWindow = s.rateWindow := rfl
@[simp] theorem modEng_generation : (modEng s e f).generation = s.generation := rfl
@[simp] theorem modEng_mixerInput : (modEng s e f).mixerInput = s.mixerInput := rfl
@[simp] theorem modEng_warnEntries : (modEng s e f).warnEntries = s.warnEntries := rfl
@[simp] theorem modEng_critEntries : (modEng s e f).critEntries = s.critEntries := rfl
@[simp] theorem modEng_throttleMicros : (modEng s e f).throttleMicros = s.throttleMicros := rfl
@[simp] theorem modEng_prepareMs : (modEng s e f).prepareMs = s.prepareMs := rfl
@[simp] theorem modEng_lastCommand : (modEng s e f).lastCommand = s.lastCommand := rfl
@[simp] theorem modEng_openWrites : (modEng s e f).openWrites = s.openWrites := rfl
@[simp] theorem modEng_snapRequest : (modEng s e f).snapRequest = s.snapRequest := rfl
@[simp] theorem modEng_snapTool : (modEng s e f).snapTool = s.snapTool := rfl
@[simp] theorem modEng_snapUcie : (modEng s e f).snapUcie = s.snapUcie := rfl
@[simp] theorem modEng_agentHeld : (modEng s e f).agentHeld = s.agentHeld := rfl
@[simp] theorem modEng_agentQueue : (modEng s e f).agentQueue = s.agentQueue := rfl
@[simp] theorem modEng_slots : (modEng s e f).slots = s.slots := rfl
@[simp] theorem modEng_rings : (modEng s e f).rings = s.rings := rfl
@[simp] theorem modEng_dies : (modEng s e f).dies = s.dies := rfl
@[simp] theorem modEng_accs : (modEng s e f).accs = s.accs := rfl
@[simp] theorem modEng_homes : (modEng s e f).homes = s.homes := rfl
@[simp] theorem modEng_ports : (modEng s e f).ports = s.ports := rfl
@[simp] theorem modEng_chans : (modEng s e f).chans = s.chans := rfl
@[simp] theorem modEng_cvus : (modEng s e f).cvus = s.cvus := rfl
@[simp] theorem modEng_ctxs : (modEng s e f).ctxs = s.ctxs := rfl
@[simp] theorem modEng_tickets : (modEng s e f).tickets = s.tickets := rfl
@[simp] theorem modEng_lingering : (modEng s e f).lingering = s.lingering := rfl
@[simp] theorem modEng_repeats : (modEng s e f).repeats = s.repeats := rfl
@[simp] theorem modEng_queueEnds : (modEng s e f).queueEnds = s.queueEnds := rfl
@[simp] theorem modEng_flags : (modEng s e f).flags = s.flags := rfl
@[simp] theorem modEng_routes : (modEng s e f).routes = s.routes := rfl
@[simp] theorem modEng_members : (modEng s e f).members = s.members := rfl
@[simp] theorem modEng_variants : (modEng s e f).variants = s.variants := rfl
@[simp] theorem modEng_buffers : (modEng s e f).buffers = s.buffers := rfl
@[simp] theorem modEng_netHosts : (modEng s e f).netHosts = s.netHosts := rfl
@[simp] theorem modEng_queues : (modEng s e f).queues = s.queues := rfl
@[simp] theorem modEng_queuePos : (modEng s e f).queuePos = s.queuePos := rfl
@[simp] theorem modEng_mem : (modEng s e f).mem = s.mem := rfl
@[simp] theorem modEng_poison : (modEng s e f).poison = s.poison := rfl
@[simp] theorem modEng_writebacks : (modEng s e f).writebacks = s.writebacks := rfl
@[simp] theorem modEng_upsets : (modEng s e f).upsets = s.upsets := rfl
@[simp] theorem modEng_cleared : (modEng s e f).cleared = s.cleared := rfl
@[simp] theorem modEng_homeQueue : (modEng s e f).homeQueue = s.homeQueue := rfl
@[simp] theorem modEng_headQueue : (modEng s e f).headQueue = s.headQueue := rfl
@[simp] theorem modEng_fabReqs : (modEng s e f).fabReqs = s.fabReqs := rfl
@[simp] theorem modEng_waitReqs : (modEng s e f).waitReqs = s.waitReqs := rfl
@[simp] theorem modEng_readsPassed : (modEng s e f).readsPassed = s.readsPassed := rfl
@[simp] theorem modEng_outQueue : (modEng s e f).outQueue = s.outQueue := rfl
@[simp] theorem modEng_ownFlits : (modEng s e f).ownFlits = s.ownFlits := rfl
@[simp] theorem modEng_tileCounts : (modEng s e f).tileCounts = s.tileCounts := rfl
@[simp] theorem modEng_nextInst : (modEng s e f).nextInst = s.nextInst := rfl
@[simp] theorem modEng_nextIssue : (modEng s e f).nextIssue = s.nextIssue := rfl
@[simp] theorem modEng_nextEntry : (modEng s e f).nextEntry = s.nextEntry := rfl
@[simp] theorem modEng_freeReads : (modEng s e f).freeReads = s.freeReads := rfl

end

/-! ## modAcc -/

section
variable (s : State) (e : Eng) (f : AccR → AccR)

@[simp] theorem modAcc_pending : (modAcc s e f).pending = s.pending := rfl
@[simp] theorem modAcc_sent : (modAcc s e f).sent = s.sent := rfl
@[simp] theorem modAcc_power : (modAcc s e f).power = s.power := rfl
@[simp] theorem modAcc_vinOk : (modAcc s e f).vinOk = s.vinOk := rfl
@[simp] theorem modAcc_pwrOk : (modAcc s e f).pwrOk = s.pwrOk := rfl
@[simp] theorem modAcc_resetN : (modAcc s e f).resetN = s.resetN := rfl
@[simp] theorem modAcc_tier2Kept : (modAcc s e f).tier2Kept = s.tier2Kept := rfl
@[simp] theorem modAcc_straps : (modAcc s e f).straps = s.straps := rfl
@[simp] theorem modAcc_nv : (modAcc s e f).nv = s.nv := rfl
@[simp] theorem modAcc_security : (modAcc s e f).security = s.security := rfl
@[simp] theorem modAcc_mailbox : (modAcc s e f).mailbox = s.mailbox := rfl
@[simp] theorem modAcc_field : (modAcc s e f).field = s.field := rfl
@[simp] theorem modAcc_owners : (modAcc s e f).owners = s.owners := rfl
@[simp] theorem modAcc_integrity : (modAcc s e f).integrity = s.integrity := rfl
@[simp] theorem modAcc_fabric : (modAcc s e f).fabric = s.fabric := rfl
@[simp] theorem modAcc_pm : (modAcc s e f).pm = s.pm := rfl
@[simp] theorem modAcc_failedCause : (modAcc s e f).failedCause = s.failedCause := rfl
@[simp] theorem modAcc_tripped : (modAcc s e f).tripped = s.tripped := rfl
@[simp] theorem modAcc_degraded : (modAcc s e f).degraded = s.degraded := rfl
@[simp] theorem modAcc_isolated : (modAcc s e f).isolated = s.isolated := rfl
@[simp] theorem modAcc_commits : (modAcc s e f).commits = s.commits := rfl
@[simp] theorem modAcc_rateWindow : (modAcc s e f).rateWindow = s.rateWindow := rfl
@[simp] theorem modAcc_generation : (modAcc s e f).generation = s.generation := rfl
@[simp] theorem modAcc_mixerInput : (modAcc s e f).mixerInput = s.mixerInput := rfl
@[simp] theorem modAcc_warnEntries : (modAcc s e f).warnEntries = s.warnEntries := rfl
@[simp] theorem modAcc_critEntries : (modAcc s e f).critEntries = s.critEntries := rfl
@[simp] theorem modAcc_throttleMicros : (modAcc s e f).throttleMicros = s.throttleMicros := rfl
@[simp] theorem modAcc_prepareMs : (modAcc s e f).prepareMs = s.prepareMs := rfl
@[simp] theorem modAcc_lastCommand : (modAcc s e f).lastCommand = s.lastCommand := rfl
@[simp] theorem modAcc_openWrites : (modAcc s e f).openWrites = s.openWrites := rfl
@[simp] theorem modAcc_snapRequest : (modAcc s e f).snapRequest = s.snapRequest := rfl
@[simp] theorem modAcc_snapTool : (modAcc s e f).snapTool = s.snapTool := rfl
@[simp] theorem modAcc_snapUcie : (modAcc s e f).snapUcie = s.snapUcie := rfl
@[simp] theorem modAcc_agentHeld : (modAcc s e f).agentHeld = s.agentHeld := rfl
@[simp] theorem modAcc_agentQueue : (modAcc s e f).agentQueue = s.agentQueue := rfl
@[simp] theorem modAcc_slots : (modAcc s e f).slots = s.slots := rfl
@[simp] theorem modAcc_rings : (modAcc s e f).rings = s.rings := rfl
@[simp] theorem modAcc_dies : (modAcc s e f).dies = s.dies := rfl
@[simp] theorem modAcc_engines : (modAcc s e f).engines = s.engines := rfl
@[simp] theorem modAcc_homes : (modAcc s e f).homes = s.homes := rfl
@[simp] theorem modAcc_ports : (modAcc s e f).ports = s.ports := rfl
@[simp] theorem modAcc_chans : (modAcc s e f).chans = s.chans := rfl
@[simp] theorem modAcc_cvus : (modAcc s e f).cvus = s.cvus := rfl
@[simp] theorem modAcc_ctxs : (modAcc s e f).ctxs = s.ctxs := rfl
@[simp] theorem modAcc_tickets : (modAcc s e f).tickets = s.tickets := rfl
@[simp] theorem modAcc_lingering : (modAcc s e f).lingering = s.lingering := rfl
@[simp] theorem modAcc_repeats : (modAcc s e f).repeats = s.repeats := rfl
@[simp] theorem modAcc_queueEnds : (modAcc s e f).queueEnds = s.queueEnds := rfl
@[simp] theorem modAcc_flags : (modAcc s e f).flags = s.flags := rfl
@[simp] theorem modAcc_routes : (modAcc s e f).routes = s.routes := rfl
@[simp] theorem modAcc_members : (modAcc s e f).members = s.members := rfl
@[simp] theorem modAcc_variants : (modAcc s e f).variants = s.variants := rfl
@[simp] theorem modAcc_buffers : (modAcc s e f).buffers = s.buffers := rfl
@[simp] theorem modAcc_netHosts : (modAcc s e f).netHosts = s.netHosts := rfl
@[simp] theorem modAcc_queues : (modAcc s e f).queues = s.queues := rfl
@[simp] theorem modAcc_queuePos : (modAcc s e f).queuePos = s.queuePos := rfl
@[simp] theorem modAcc_mem : (modAcc s e f).mem = s.mem := rfl
@[simp] theorem modAcc_poison : (modAcc s e f).poison = s.poison := rfl
@[simp] theorem modAcc_writebacks : (modAcc s e f).writebacks = s.writebacks := rfl
@[simp] theorem modAcc_upsets : (modAcc s e f).upsets = s.upsets := rfl
@[simp] theorem modAcc_cleared : (modAcc s e f).cleared = s.cleared := rfl
@[simp] theorem modAcc_homeQueue : (modAcc s e f).homeQueue = s.homeQueue := rfl
@[simp] theorem modAcc_headQueue : (modAcc s e f).headQueue = s.headQueue := rfl
@[simp] theorem modAcc_fabReqs : (modAcc s e f).fabReqs = s.fabReqs := rfl
@[simp] theorem modAcc_waitReqs : (modAcc s e f).waitReqs = s.waitReqs := rfl
@[simp] theorem modAcc_readsPassed : (modAcc s e f).readsPassed = s.readsPassed := rfl
@[simp] theorem modAcc_outQueue : (modAcc s e f).outQueue = s.outQueue := rfl
@[simp] theorem modAcc_ownFlits : (modAcc s e f).ownFlits = s.ownFlits := rfl
@[simp] theorem modAcc_tileCounts : (modAcc s e f).tileCounts = s.tileCounts := rfl
@[simp] theorem modAcc_nextInst : (modAcc s e f).nextInst = s.nextInst := rfl
@[simp] theorem modAcc_nextIssue : (modAcc s e f).nextIssue = s.nextIssue := rfl
@[simp] theorem modAcc_nextEntry : (modAcc s e f).nextEntry = s.nextEntry := rfl
@[simp] theorem modAcc_freeReads : (modAcc s e f).freeReads = s.freeReads := rfl

end

/-! ## modHome -/

section
variable (s : State) (h : Home) (f : HomeR → HomeR)

@[simp] theorem modHome_pending : (modHome s h f).pending = s.pending := rfl
@[simp] theorem modHome_sent : (modHome s h f).sent = s.sent := rfl
@[simp] theorem modHome_power : (modHome s h f).power = s.power := rfl
@[simp] theorem modHome_vinOk : (modHome s h f).vinOk = s.vinOk := rfl
@[simp] theorem modHome_pwrOk : (modHome s h f).pwrOk = s.pwrOk := rfl
@[simp] theorem modHome_resetN : (modHome s h f).resetN = s.resetN := rfl
@[simp] theorem modHome_tier2Kept : (modHome s h f).tier2Kept = s.tier2Kept := rfl
@[simp] theorem modHome_straps : (modHome s h f).straps = s.straps := rfl
@[simp] theorem modHome_nv : (modHome s h f).nv = s.nv := rfl
@[simp] theorem modHome_security : (modHome s h f).security = s.security := rfl
@[simp] theorem modHome_mailbox : (modHome s h f).mailbox = s.mailbox := rfl
@[simp] theorem modHome_field : (modHome s h f).field = s.field := rfl
@[simp] theorem modHome_owners : (modHome s h f).owners = s.owners := rfl
@[simp] theorem modHome_integrity : (modHome s h f).integrity = s.integrity := rfl
@[simp] theorem modHome_fabric : (modHome s h f).fabric = s.fabric := rfl
@[simp] theorem modHome_pm : (modHome s h f).pm = s.pm := rfl
@[simp] theorem modHome_failedCause : (modHome s h f).failedCause = s.failedCause := rfl
@[simp] theorem modHome_tripped : (modHome s h f).tripped = s.tripped := rfl
@[simp] theorem modHome_degraded : (modHome s h f).degraded = s.degraded := rfl
@[simp] theorem modHome_isolated : (modHome s h f).isolated = s.isolated := rfl
@[simp] theorem modHome_commits : (modHome s h f).commits = s.commits := rfl
@[simp] theorem modHome_rateWindow : (modHome s h f).rateWindow = s.rateWindow := rfl
@[simp] theorem modHome_generation : (modHome s h f).generation = s.generation := rfl
@[simp] theorem modHome_mixerInput : (modHome s h f).mixerInput = s.mixerInput := rfl
@[simp] theorem modHome_warnEntries : (modHome s h f).warnEntries = s.warnEntries := rfl
@[simp] theorem modHome_critEntries : (modHome s h f).critEntries = s.critEntries := rfl
@[simp] theorem modHome_throttleMicros : (modHome s h f).throttleMicros = s.throttleMicros := rfl
@[simp] theorem modHome_prepareMs : (modHome s h f).prepareMs = s.prepareMs := rfl
@[simp] theorem modHome_lastCommand : (modHome s h f).lastCommand = s.lastCommand := rfl
@[simp] theorem modHome_openWrites : (modHome s h f).openWrites = s.openWrites := rfl
@[simp] theorem modHome_snapRequest : (modHome s h f).snapRequest = s.snapRequest := rfl
@[simp] theorem modHome_snapTool : (modHome s h f).snapTool = s.snapTool := rfl
@[simp] theorem modHome_snapUcie : (modHome s h f).snapUcie = s.snapUcie := rfl
@[simp] theorem modHome_agentHeld : (modHome s h f).agentHeld = s.agentHeld := rfl
@[simp] theorem modHome_agentQueue : (modHome s h f).agentQueue = s.agentQueue := rfl
@[simp] theorem modHome_slots : (modHome s h f).slots = s.slots := rfl
@[simp] theorem modHome_rings : (modHome s h f).rings = s.rings := rfl
@[simp] theorem modHome_dies : (modHome s h f).dies = s.dies := rfl
@[simp] theorem modHome_engines : (modHome s h f).engines = s.engines := rfl
@[simp] theorem modHome_accs : (modHome s h f).accs = s.accs := rfl
@[simp] theorem modHome_ports : (modHome s h f).ports = s.ports := rfl
@[simp] theorem modHome_chans : (modHome s h f).chans = s.chans := rfl
@[simp] theorem modHome_cvus : (modHome s h f).cvus = s.cvus := rfl
@[simp] theorem modHome_ctxs : (modHome s h f).ctxs = s.ctxs := rfl
@[simp] theorem modHome_tickets : (modHome s h f).tickets = s.tickets := rfl
@[simp] theorem modHome_lingering : (modHome s h f).lingering = s.lingering := rfl
@[simp] theorem modHome_repeats : (modHome s h f).repeats = s.repeats := rfl
@[simp] theorem modHome_queueEnds : (modHome s h f).queueEnds = s.queueEnds := rfl
@[simp] theorem modHome_flags : (modHome s h f).flags = s.flags := rfl
@[simp] theorem modHome_routes : (modHome s h f).routes = s.routes := rfl
@[simp] theorem modHome_members : (modHome s h f).members = s.members := rfl
@[simp] theorem modHome_variants : (modHome s h f).variants = s.variants := rfl
@[simp] theorem modHome_buffers : (modHome s h f).buffers = s.buffers := rfl
@[simp] theorem modHome_netHosts : (modHome s h f).netHosts = s.netHosts := rfl
@[simp] theorem modHome_queues : (modHome s h f).queues = s.queues := rfl
@[simp] theorem modHome_queuePos : (modHome s h f).queuePos = s.queuePos := rfl
@[simp] theorem modHome_mem : (modHome s h f).mem = s.mem := rfl
@[simp] theorem modHome_poison : (modHome s h f).poison = s.poison := rfl
@[simp] theorem modHome_writebacks : (modHome s h f).writebacks = s.writebacks := rfl
@[simp] theorem modHome_upsets : (modHome s h f).upsets = s.upsets := rfl
@[simp] theorem modHome_cleared : (modHome s h f).cleared = s.cleared := rfl
@[simp] theorem modHome_homeQueue : (modHome s h f).homeQueue = s.homeQueue := rfl
@[simp] theorem modHome_headQueue : (modHome s h f).headQueue = s.headQueue := rfl
@[simp] theorem modHome_fabReqs : (modHome s h f).fabReqs = s.fabReqs := rfl
@[simp] theorem modHome_waitReqs : (modHome s h f).waitReqs = s.waitReqs := rfl
@[simp] theorem modHome_readsPassed : (modHome s h f).readsPassed = s.readsPassed := rfl
@[simp] theorem modHome_outQueue : (modHome s h f).outQueue = s.outQueue := rfl
@[simp] theorem modHome_ownFlits : (modHome s h f).ownFlits = s.ownFlits := rfl
@[simp] theorem modHome_tileCounts : (modHome s h f).tileCounts = s.tileCounts := rfl
@[simp] theorem modHome_nextInst : (modHome s h f).nextInst = s.nextInst := rfl
@[simp] theorem modHome_nextIssue : (modHome s h f).nextIssue = s.nextIssue := rfl
@[simp] theorem modHome_nextEntry : (modHome s h f).nextEntry = s.nextEntry := rfl
@[simp] theorem modHome_freeReads : (modHome s h f).freeReads = s.freeReads := rfl

end

/-! ## modPort -/

section
variable (s : State) (p : PortId) (f : PortR → PortR)

@[simp] theorem modPort_pending : (modPort s p f).pending = s.pending := rfl
@[simp] theorem modPort_sent : (modPort s p f).sent = s.sent := rfl
@[simp] theorem modPort_power : (modPort s p f).power = s.power := rfl
@[simp] theorem modPort_vinOk : (modPort s p f).vinOk = s.vinOk := rfl
@[simp] theorem modPort_pwrOk : (modPort s p f).pwrOk = s.pwrOk := rfl
@[simp] theorem modPort_resetN : (modPort s p f).resetN = s.resetN := rfl
@[simp] theorem modPort_tier2Kept : (modPort s p f).tier2Kept = s.tier2Kept := rfl
@[simp] theorem modPort_straps : (modPort s p f).straps = s.straps := rfl
@[simp] theorem modPort_nv : (modPort s p f).nv = s.nv := rfl
@[simp] theorem modPort_security : (modPort s p f).security = s.security := rfl
@[simp] theorem modPort_mailbox : (modPort s p f).mailbox = s.mailbox := rfl
@[simp] theorem modPort_field : (modPort s p f).field = s.field := rfl
@[simp] theorem modPort_owners : (modPort s p f).owners = s.owners := rfl
@[simp] theorem modPort_integrity : (modPort s p f).integrity = s.integrity := rfl
@[simp] theorem modPort_fabric : (modPort s p f).fabric = s.fabric := rfl
@[simp] theorem modPort_pm : (modPort s p f).pm = s.pm := rfl
@[simp] theorem modPort_failedCause : (modPort s p f).failedCause = s.failedCause := rfl
@[simp] theorem modPort_tripped : (modPort s p f).tripped = s.tripped := rfl
@[simp] theorem modPort_degraded : (modPort s p f).degraded = s.degraded := rfl
@[simp] theorem modPort_isolated : (modPort s p f).isolated = s.isolated := rfl
@[simp] theorem modPort_commits : (modPort s p f).commits = s.commits := rfl
@[simp] theorem modPort_rateWindow : (modPort s p f).rateWindow = s.rateWindow := rfl
@[simp] theorem modPort_generation : (modPort s p f).generation = s.generation := rfl
@[simp] theorem modPort_mixerInput : (modPort s p f).mixerInput = s.mixerInput := rfl
@[simp] theorem modPort_warnEntries : (modPort s p f).warnEntries = s.warnEntries := rfl
@[simp] theorem modPort_critEntries : (modPort s p f).critEntries = s.critEntries := rfl
@[simp] theorem modPort_throttleMicros : (modPort s p f).throttleMicros = s.throttleMicros := rfl
@[simp] theorem modPort_prepareMs : (modPort s p f).prepareMs = s.prepareMs := rfl
@[simp] theorem modPort_lastCommand : (modPort s p f).lastCommand = s.lastCommand := rfl
@[simp] theorem modPort_openWrites : (modPort s p f).openWrites = s.openWrites := rfl
@[simp] theorem modPort_snapRequest : (modPort s p f).snapRequest = s.snapRequest := rfl
@[simp] theorem modPort_snapTool : (modPort s p f).snapTool = s.snapTool := rfl
@[simp] theorem modPort_snapUcie : (modPort s p f).snapUcie = s.snapUcie := rfl
@[simp] theorem modPort_agentHeld : (modPort s p f).agentHeld = s.agentHeld := rfl
@[simp] theorem modPort_agentQueue : (modPort s p f).agentQueue = s.agentQueue := rfl
@[simp] theorem modPort_slots : (modPort s p f).slots = s.slots := rfl
@[simp] theorem modPort_rings : (modPort s p f).rings = s.rings := rfl
@[simp] theorem modPort_dies : (modPort s p f).dies = s.dies := rfl
@[simp] theorem modPort_engines : (modPort s p f).engines = s.engines := rfl
@[simp] theorem modPort_accs : (modPort s p f).accs = s.accs := rfl
@[simp] theorem modPort_homes : (modPort s p f).homes = s.homes := rfl
@[simp] theorem modPort_chans : (modPort s p f).chans = s.chans := rfl
@[simp] theorem modPort_cvus : (modPort s p f).cvus = s.cvus := rfl
@[simp] theorem modPort_ctxs : (modPort s p f).ctxs = s.ctxs := rfl
@[simp] theorem modPort_tickets : (modPort s p f).tickets = s.tickets := rfl
@[simp] theorem modPort_lingering : (modPort s p f).lingering = s.lingering := rfl
@[simp] theorem modPort_repeats : (modPort s p f).repeats = s.repeats := rfl
@[simp] theorem modPort_queueEnds : (modPort s p f).queueEnds = s.queueEnds := rfl
@[simp] theorem modPort_flags : (modPort s p f).flags = s.flags := rfl
@[simp] theorem modPort_routes : (modPort s p f).routes = s.routes := rfl
@[simp] theorem modPort_members : (modPort s p f).members = s.members := rfl
@[simp] theorem modPort_variants : (modPort s p f).variants = s.variants := rfl
@[simp] theorem modPort_buffers : (modPort s p f).buffers = s.buffers := rfl
@[simp] theorem modPort_netHosts : (modPort s p f).netHosts = s.netHosts := rfl
@[simp] theorem modPort_queues : (modPort s p f).queues = s.queues := rfl
@[simp] theorem modPort_queuePos : (modPort s p f).queuePos = s.queuePos := rfl
@[simp] theorem modPort_mem : (modPort s p f).mem = s.mem := rfl
@[simp] theorem modPort_poison : (modPort s p f).poison = s.poison := rfl
@[simp] theorem modPort_writebacks : (modPort s p f).writebacks = s.writebacks := rfl
@[simp] theorem modPort_upsets : (modPort s p f).upsets = s.upsets := rfl
@[simp] theorem modPort_cleared : (modPort s p f).cleared = s.cleared := rfl
@[simp] theorem modPort_homeQueue : (modPort s p f).homeQueue = s.homeQueue := rfl
@[simp] theorem modPort_headQueue : (modPort s p f).headQueue = s.headQueue := rfl
@[simp] theorem modPort_fabReqs : (modPort s p f).fabReqs = s.fabReqs := rfl
@[simp] theorem modPort_waitReqs : (modPort s p f).waitReqs = s.waitReqs := rfl
@[simp] theorem modPort_readsPassed : (modPort s p f).readsPassed = s.readsPassed := rfl
@[simp] theorem modPort_outQueue : (modPort s p f).outQueue = s.outQueue := rfl
@[simp] theorem modPort_ownFlits : (modPort s p f).ownFlits = s.ownFlits := rfl
@[simp] theorem modPort_tileCounts : (modPort s p f).tileCounts = s.tileCounts := rfl
@[simp] theorem modPort_nextInst : (modPort s p f).nextInst = s.nextInst := rfl
@[simp] theorem modPort_nextIssue : (modPort s p f).nextIssue = s.nextIssue := rfl
@[simp] theorem modPort_nextEntry : (modPort s p f).nextEntry = s.nextEntry := rfl
@[simp] theorem modPort_freeReads : (modPort s p f).freeReads = s.freeReads := rfl

end

/-! ## modChan -/

section
variable (s : State) (c : ChanId) (f : ChanR → ChanR)

@[simp] theorem modChan_pending : (modChan s c f).pending = s.pending := rfl
@[simp] theorem modChan_sent : (modChan s c f).sent = s.sent := rfl
@[simp] theorem modChan_power : (modChan s c f).power = s.power := rfl
@[simp] theorem modChan_vinOk : (modChan s c f).vinOk = s.vinOk := rfl
@[simp] theorem modChan_pwrOk : (modChan s c f).pwrOk = s.pwrOk := rfl
@[simp] theorem modChan_resetN : (modChan s c f).resetN = s.resetN := rfl
@[simp] theorem modChan_tier2Kept : (modChan s c f).tier2Kept = s.tier2Kept := rfl
@[simp] theorem modChan_straps : (modChan s c f).straps = s.straps := rfl
@[simp] theorem modChan_nv : (modChan s c f).nv = s.nv := rfl
@[simp] theorem modChan_security : (modChan s c f).security = s.security := rfl
@[simp] theorem modChan_mailbox : (modChan s c f).mailbox = s.mailbox := rfl
@[simp] theorem modChan_field : (modChan s c f).field = s.field := rfl
@[simp] theorem modChan_owners : (modChan s c f).owners = s.owners := rfl
@[simp] theorem modChan_integrity : (modChan s c f).integrity = s.integrity := rfl
@[simp] theorem modChan_fabric : (modChan s c f).fabric = s.fabric := rfl
@[simp] theorem modChan_pm : (modChan s c f).pm = s.pm := rfl
@[simp] theorem modChan_failedCause : (modChan s c f).failedCause = s.failedCause := rfl
@[simp] theorem modChan_tripped : (modChan s c f).tripped = s.tripped := rfl
@[simp] theorem modChan_degraded : (modChan s c f).degraded = s.degraded := rfl
@[simp] theorem modChan_isolated : (modChan s c f).isolated = s.isolated := rfl
@[simp] theorem modChan_commits : (modChan s c f).commits = s.commits := rfl
@[simp] theorem modChan_rateWindow : (modChan s c f).rateWindow = s.rateWindow := rfl
@[simp] theorem modChan_generation : (modChan s c f).generation = s.generation := rfl
@[simp] theorem modChan_mixerInput : (modChan s c f).mixerInput = s.mixerInput := rfl
@[simp] theorem modChan_warnEntries : (modChan s c f).warnEntries = s.warnEntries := rfl
@[simp] theorem modChan_critEntries : (modChan s c f).critEntries = s.critEntries := rfl
@[simp] theorem modChan_throttleMicros : (modChan s c f).throttleMicros = s.throttleMicros := rfl
@[simp] theorem modChan_prepareMs : (modChan s c f).prepareMs = s.prepareMs := rfl
@[simp] theorem modChan_lastCommand : (modChan s c f).lastCommand = s.lastCommand := rfl
@[simp] theorem modChan_openWrites : (modChan s c f).openWrites = s.openWrites := rfl
@[simp] theorem modChan_snapRequest : (modChan s c f).snapRequest = s.snapRequest := rfl
@[simp] theorem modChan_snapTool : (modChan s c f).snapTool = s.snapTool := rfl
@[simp] theorem modChan_snapUcie : (modChan s c f).snapUcie = s.snapUcie := rfl
@[simp] theorem modChan_agentHeld : (modChan s c f).agentHeld = s.agentHeld := rfl
@[simp] theorem modChan_agentQueue : (modChan s c f).agentQueue = s.agentQueue := rfl
@[simp] theorem modChan_slots : (modChan s c f).slots = s.slots := rfl
@[simp] theorem modChan_rings : (modChan s c f).rings = s.rings := rfl
@[simp] theorem modChan_dies : (modChan s c f).dies = s.dies := rfl
@[simp] theorem modChan_engines : (modChan s c f).engines = s.engines := rfl
@[simp] theorem modChan_accs : (modChan s c f).accs = s.accs := rfl
@[simp] theorem modChan_homes : (modChan s c f).homes = s.homes := rfl
@[simp] theorem modChan_ports : (modChan s c f).ports = s.ports := rfl
@[simp] theorem modChan_cvus : (modChan s c f).cvus = s.cvus := rfl
@[simp] theorem modChan_ctxs : (modChan s c f).ctxs = s.ctxs := rfl
@[simp] theorem modChan_tickets : (modChan s c f).tickets = s.tickets := rfl
@[simp] theorem modChan_lingering : (modChan s c f).lingering = s.lingering := rfl
@[simp] theorem modChan_repeats : (modChan s c f).repeats = s.repeats := rfl
@[simp] theorem modChan_queueEnds : (modChan s c f).queueEnds = s.queueEnds := rfl
@[simp] theorem modChan_flags : (modChan s c f).flags = s.flags := rfl
@[simp] theorem modChan_routes : (modChan s c f).routes = s.routes := rfl
@[simp] theorem modChan_members : (modChan s c f).members = s.members := rfl
@[simp] theorem modChan_variants : (modChan s c f).variants = s.variants := rfl
@[simp] theorem modChan_buffers : (modChan s c f).buffers = s.buffers := rfl
@[simp] theorem modChan_netHosts : (modChan s c f).netHosts = s.netHosts := rfl
@[simp] theorem modChan_queues : (modChan s c f).queues = s.queues := rfl
@[simp] theorem modChan_queuePos : (modChan s c f).queuePos = s.queuePos := rfl
@[simp] theorem modChan_mem : (modChan s c f).mem = s.mem := rfl
@[simp] theorem modChan_poison : (modChan s c f).poison = s.poison := rfl
@[simp] theorem modChan_writebacks : (modChan s c f).writebacks = s.writebacks := rfl
@[simp] theorem modChan_upsets : (modChan s c f).upsets = s.upsets := rfl
@[simp] theorem modChan_cleared : (modChan s c f).cleared = s.cleared := rfl
@[simp] theorem modChan_homeQueue : (modChan s c f).homeQueue = s.homeQueue := rfl
@[simp] theorem modChan_headQueue : (modChan s c f).headQueue = s.headQueue := rfl
@[simp] theorem modChan_fabReqs : (modChan s c f).fabReqs = s.fabReqs := rfl
@[simp] theorem modChan_waitReqs : (modChan s c f).waitReqs = s.waitReqs := rfl
@[simp] theorem modChan_readsPassed : (modChan s c f).readsPassed = s.readsPassed := rfl
@[simp] theorem modChan_outQueue : (modChan s c f).outQueue = s.outQueue := rfl
@[simp] theorem modChan_ownFlits : (modChan s c f).ownFlits = s.ownFlits := rfl
@[simp] theorem modChan_tileCounts : (modChan s c f).tileCounts = s.tileCounts := rfl
@[simp] theorem modChan_nextInst : (modChan s c f).nextInst = s.nextInst := rfl
@[simp] theorem modChan_nextIssue : (modChan s c f).nextIssue = s.nextIssue := rfl
@[simp] theorem modChan_nextEntry : (modChan s c f).nextEntry = s.nextEntry := rfl
@[simp] theorem modChan_freeReads : (modChan s c f).freeReads = s.freeReads := rfl

end

/-! ## modCvu -/

section
variable (s : State) (u : Fin 16) (f : CvuR → CvuR)

@[simp] theorem modCvu_pending : (modCvu s u f).pending = s.pending := rfl
@[simp] theorem modCvu_sent : (modCvu s u f).sent = s.sent := rfl
@[simp] theorem modCvu_power : (modCvu s u f).power = s.power := rfl
@[simp] theorem modCvu_vinOk : (modCvu s u f).vinOk = s.vinOk := rfl
@[simp] theorem modCvu_pwrOk : (modCvu s u f).pwrOk = s.pwrOk := rfl
@[simp] theorem modCvu_resetN : (modCvu s u f).resetN = s.resetN := rfl
@[simp] theorem modCvu_tier2Kept : (modCvu s u f).tier2Kept = s.tier2Kept := rfl
@[simp] theorem modCvu_straps : (modCvu s u f).straps = s.straps := rfl
@[simp] theorem modCvu_nv : (modCvu s u f).nv = s.nv := rfl
@[simp] theorem modCvu_security : (modCvu s u f).security = s.security := rfl
@[simp] theorem modCvu_mailbox : (modCvu s u f).mailbox = s.mailbox := rfl
@[simp] theorem modCvu_field : (modCvu s u f).field = s.field := rfl
@[simp] theorem modCvu_owners : (modCvu s u f).owners = s.owners := rfl
@[simp] theorem modCvu_integrity : (modCvu s u f).integrity = s.integrity := rfl
@[simp] theorem modCvu_fabric : (modCvu s u f).fabric = s.fabric := rfl
@[simp] theorem modCvu_pm : (modCvu s u f).pm = s.pm := rfl
@[simp] theorem modCvu_failedCause : (modCvu s u f).failedCause = s.failedCause := rfl
@[simp] theorem modCvu_tripped : (modCvu s u f).tripped = s.tripped := rfl
@[simp] theorem modCvu_degraded : (modCvu s u f).degraded = s.degraded := rfl
@[simp] theorem modCvu_isolated : (modCvu s u f).isolated = s.isolated := rfl
@[simp] theorem modCvu_commits : (modCvu s u f).commits = s.commits := rfl
@[simp] theorem modCvu_rateWindow : (modCvu s u f).rateWindow = s.rateWindow := rfl
@[simp] theorem modCvu_generation : (modCvu s u f).generation = s.generation := rfl
@[simp] theorem modCvu_mixerInput : (modCvu s u f).mixerInput = s.mixerInput := rfl
@[simp] theorem modCvu_warnEntries : (modCvu s u f).warnEntries = s.warnEntries := rfl
@[simp] theorem modCvu_critEntries : (modCvu s u f).critEntries = s.critEntries := rfl
@[simp] theorem modCvu_throttleMicros : (modCvu s u f).throttleMicros = s.throttleMicros := rfl
@[simp] theorem modCvu_prepareMs : (modCvu s u f).prepareMs = s.prepareMs := rfl
@[simp] theorem modCvu_lastCommand : (modCvu s u f).lastCommand = s.lastCommand := rfl
@[simp] theorem modCvu_openWrites : (modCvu s u f).openWrites = s.openWrites := rfl
@[simp] theorem modCvu_snapRequest : (modCvu s u f).snapRequest = s.snapRequest := rfl
@[simp] theorem modCvu_snapTool : (modCvu s u f).snapTool = s.snapTool := rfl
@[simp] theorem modCvu_snapUcie : (modCvu s u f).snapUcie = s.snapUcie := rfl
@[simp] theorem modCvu_agentHeld : (modCvu s u f).agentHeld = s.agentHeld := rfl
@[simp] theorem modCvu_agentQueue : (modCvu s u f).agentQueue = s.agentQueue := rfl
@[simp] theorem modCvu_slots : (modCvu s u f).slots = s.slots := rfl
@[simp] theorem modCvu_rings : (modCvu s u f).rings = s.rings := rfl
@[simp] theorem modCvu_dies : (modCvu s u f).dies = s.dies := rfl
@[simp] theorem modCvu_engines : (modCvu s u f).engines = s.engines := rfl
@[simp] theorem modCvu_accs : (modCvu s u f).accs = s.accs := rfl
@[simp] theorem modCvu_homes : (modCvu s u f).homes = s.homes := rfl
@[simp] theorem modCvu_ports : (modCvu s u f).ports = s.ports := rfl
@[simp] theorem modCvu_chans : (modCvu s u f).chans = s.chans := rfl
@[simp] theorem modCvu_ctxs : (modCvu s u f).ctxs = s.ctxs := rfl
@[simp] theorem modCvu_tickets : (modCvu s u f).tickets = s.tickets := rfl
@[simp] theorem modCvu_lingering : (modCvu s u f).lingering = s.lingering := rfl
@[simp] theorem modCvu_repeats : (modCvu s u f).repeats = s.repeats := rfl
@[simp] theorem modCvu_queueEnds : (modCvu s u f).queueEnds = s.queueEnds := rfl
@[simp] theorem modCvu_flags : (modCvu s u f).flags = s.flags := rfl
@[simp] theorem modCvu_routes : (modCvu s u f).routes = s.routes := rfl
@[simp] theorem modCvu_members : (modCvu s u f).members = s.members := rfl
@[simp] theorem modCvu_variants : (modCvu s u f).variants = s.variants := rfl
@[simp] theorem modCvu_buffers : (modCvu s u f).buffers = s.buffers := rfl
@[simp] theorem modCvu_netHosts : (modCvu s u f).netHosts = s.netHosts := rfl
@[simp] theorem modCvu_queues : (modCvu s u f).queues = s.queues := rfl
@[simp] theorem modCvu_queuePos : (modCvu s u f).queuePos = s.queuePos := rfl
@[simp] theorem modCvu_mem : (modCvu s u f).mem = s.mem := rfl
@[simp] theorem modCvu_poison : (modCvu s u f).poison = s.poison := rfl
@[simp] theorem modCvu_writebacks : (modCvu s u f).writebacks = s.writebacks := rfl
@[simp] theorem modCvu_upsets : (modCvu s u f).upsets = s.upsets := rfl
@[simp] theorem modCvu_cleared : (modCvu s u f).cleared = s.cleared := rfl
@[simp] theorem modCvu_homeQueue : (modCvu s u f).homeQueue = s.homeQueue := rfl
@[simp] theorem modCvu_headQueue : (modCvu s u f).headQueue = s.headQueue := rfl
@[simp] theorem modCvu_fabReqs : (modCvu s u f).fabReqs = s.fabReqs := rfl
@[simp] theorem modCvu_waitReqs : (modCvu s u f).waitReqs = s.waitReqs := rfl
@[simp] theorem modCvu_readsPassed : (modCvu s u f).readsPassed = s.readsPassed := rfl
@[simp] theorem modCvu_outQueue : (modCvu s u f).outQueue = s.outQueue := rfl
@[simp] theorem modCvu_ownFlits : (modCvu s u f).ownFlits = s.ownFlits := rfl
@[simp] theorem modCvu_tileCounts : (modCvu s u f).tileCounts = s.tileCounts := rfl
@[simp] theorem modCvu_nextInst : (modCvu s u f).nextInst = s.nextInst := rfl
@[simp] theorem modCvu_nextIssue : (modCvu s u f).nextIssue = s.nextIssue := rfl
@[simp] theorem modCvu_nextEntry : (modCvu s u f).nextEntry = s.nextEntry := rfl
@[simp] theorem modCvu_freeReads : (modCvu s u f).freeReads = s.freeReads := rfl

end

/-! ## modRings -/

section
variable (s : State) (d : Die) (j : Slot) (f : RingsR → RingsR)

@[simp] theorem modRings_pending : (modRings s d j f).pending = s.pending := rfl
@[simp] theorem modRings_sent : (modRings s d j f).sent = s.sent := rfl
@[simp] theorem modRings_power : (modRings s d j f).power = s.power := rfl
@[simp] theorem modRings_vinOk : (modRings s d j f).vinOk = s.vinOk := rfl
@[simp] theorem modRings_pwrOk : (modRings s d j f).pwrOk = s.pwrOk := rfl
@[simp] theorem modRings_resetN : (modRings s d j f).resetN = s.resetN := rfl
@[simp] theorem modRings_tier2Kept : (modRings s d j f).tier2Kept = s.tier2Kept := rfl
@[simp] theorem modRings_straps : (modRings s d j f).straps = s.straps := rfl
@[simp] theorem modRings_nv : (modRings s d j f).nv = s.nv := rfl
@[simp] theorem modRings_security : (modRings s d j f).security = s.security := rfl
@[simp] theorem modRings_mailbox : (modRings s d j f).mailbox = s.mailbox := rfl
@[simp] theorem modRings_field : (modRings s d j f).field = s.field := rfl
@[simp] theorem modRings_owners : (modRings s d j f).owners = s.owners := rfl
@[simp] theorem modRings_integrity : (modRings s d j f).integrity = s.integrity := rfl
@[simp] theorem modRings_fabric : (modRings s d j f).fabric = s.fabric := rfl
@[simp] theorem modRings_pm : (modRings s d j f).pm = s.pm := rfl
@[simp] theorem modRings_failedCause : (modRings s d j f).failedCause = s.failedCause := rfl
@[simp] theorem modRings_tripped : (modRings s d j f).tripped = s.tripped := rfl
@[simp] theorem modRings_degraded : (modRings s d j f).degraded = s.degraded := rfl
@[simp] theorem modRings_isolated : (modRings s d j f).isolated = s.isolated := rfl
@[simp] theorem modRings_commits : (modRings s d j f).commits = s.commits := rfl
@[simp] theorem modRings_rateWindow : (modRings s d j f).rateWindow = s.rateWindow := rfl
@[simp] theorem modRings_generation : (modRings s d j f).generation = s.generation := rfl
@[simp] theorem modRings_mixerInput : (modRings s d j f).mixerInput = s.mixerInput := rfl
@[simp] theorem modRings_warnEntries : (modRings s d j f).warnEntries = s.warnEntries := rfl
@[simp] theorem modRings_critEntries : (modRings s d j f).critEntries = s.critEntries := rfl
@[simp] theorem modRings_throttleMicros : (modRings s d j f).throttleMicros = s.throttleMicros := rfl
@[simp] theorem modRings_prepareMs : (modRings s d j f).prepareMs = s.prepareMs := rfl
@[simp] theorem modRings_lastCommand : (modRings s d j f).lastCommand = s.lastCommand := rfl
@[simp] theorem modRings_openWrites : (modRings s d j f).openWrites = s.openWrites := rfl
@[simp] theorem modRings_snapRequest : (modRings s d j f).snapRequest = s.snapRequest := rfl
@[simp] theorem modRings_snapTool : (modRings s d j f).snapTool = s.snapTool := rfl
@[simp] theorem modRings_snapUcie : (modRings s d j f).snapUcie = s.snapUcie := rfl
@[simp] theorem modRings_agentHeld : (modRings s d j f).agentHeld = s.agentHeld := rfl
@[simp] theorem modRings_agentQueue : (modRings s d j f).agentQueue = s.agentQueue := rfl
@[simp] theorem modRings_slots : (modRings s d j f).slots = s.slots := rfl
@[simp] theorem modRings_dies : (modRings s d j f).dies = s.dies := rfl
@[simp] theorem modRings_engines : (modRings s d j f).engines = s.engines := rfl
@[simp] theorem modRings_accs : (modRings s d j f).accs = s.accs := rfl
@[simp] theorem modRings_homes : (modRings s d j f).homes = s.homes := rfl
@[simp] theorem modRings_ports : (modRings s d j f).ports = s.ports := rfl
@[simp] theorem modRings_chans : (modRings s d j f).chans = s.chans := rfl
@[simp] theorem modRings_cvus : (modRings s d j f).cvus = s.cvus := rfl
@[simp] theorem modRings_ctxs : (modRings s d j f).ctxs = s.ctxs := rfl
@[simp] theorem modRings_tickets : (modRings s d j f).tickets = s.tickets := rfl
@[simp] theorem modRings_lingering : (modRings s d j f).lingering = s.lingering := rfl
@[simp] theorem modRings_repeats : (modRings s d j f).repeats = s.repeats := rfl
@[simp] theorem modRings_queueEnds : (modRings s d j f).queueEnds = s.queueEnds := rfl
@[simp] theorem modRings_flags : (modRings s d j f).flags = s.flags := rfl
@[simp] theorem modRings_routes : (modRings s d j f).routes = s.routes := rfl
@[simp] theorem modRings_members : (modRings s d j f).members = s.members := rfl
@[simp] theorem modRings_variants : (modRings s d j f).variants = s.variants := rfl
@[simp] theorem modRings_buffers : (modRings s d j f).buffers = s.buffers := rfl
@[simp] theorem modRings_netHosts : (modRings s d j f).netHosts = s.netHosts := rfl
@[simp] theorem modRings_queues : (modRings s d j f).queues = s.queues := rfl
@[simp] theorem modRings_queuePos : (modRings s d j f).queuePos = s.queuePos := rfl
@[simp] theorem modRings_mem : (modRings s d j f).mem = s.mem := rfl
@[simp] theorem modRings_poison : (modRings s d j f).poison = s.poison := rfl
@[simp] theorem modRings_writebacks : (modRings s d j f).writebacks = s.writebacks := rfl
@[simp] theorem modRings_upsets : (modRings s d j f).upsets = s.upsets := rfl
@[simp] theorem modRings_cleared : (modRings s d j f).cleared = s.cleared := rfl
@[simp] theorem modRings_homeQueue : (modRings s d j f).homeQueue = s.homeQueue := rfl
@[simp] theorem modRings_headQueue : (modRings s d j f).headQueue = s.headQueue := rfl
@[simp] theorem modRings_fabReqs : (modRings s d j f).fabReqs = s.fabReqs := rfl
@[simp] theorem modRings_waitReqs : (modRings s d j f).waitReqs = s.waitReqs := rfl
@[simp] theorem modRings_readsPassed : (modRings s d j f).readsPassed = s.readsPassed := rfl
@[simp] theorem modRings_outQueue : (modRings s d j f).outQueue = s.outQueue := rfl
@[simp] theorem modRings_ownFlits : (modRings s d j f).ownFlits = s.ownFlits := rfl
@[simp] theorem modRings_tileCounts : (modRings s d j f).tileCounts = s.tileCounts := rfl
@[simp] theorem modRings_nextInst : (modRings s d j f).nextInst = s.nextInst := rfl
@[simp] theorem modRings_nextIssue : (modRings s d j f).nextIssue = s.nextIssue := rfl
@[simp] theorem modRings_nextEntry : (modRings s d j f).nextEntry = s.nextEntry := rfl
@[simp] theorem modRings_freeReads : (modRings s d j f).freeReads = s.freeReads := rfl

end

/-! ## putCtx -/

section
variable (s : State) (d : Die) (c : CtxId) (x : Option Ctx)

@[simp] theorem putCtx_pending : (putCtx s d c x).pending = s.pending := rfl
@[simp] theorem putCtx_sent : (putCtx s d c x).sent = s.sent := rfl
@[simp] theorem putCtx_power : (putCtx s d c x).power = s.power := rfl
@[simp] theorem putCtx_vinOk : (putCtx s d c x).vinOk = s.vinOk := rfl
@[simp] theorem putCtx_pwrOk : (putCtx s d c x).pwrOk = s.pwrOk := rfl
@[simp] theorem putCtx_resetN : (putCtx s d c x).resetN = s.resetN := rfl
@[simp] theorem putCtx_tier2Kept : (putCtx s d c x).tier2Kept = s.tier2Kept := rfl
@[simp] theorem putCtx_straps : (putCtx s d c x).straps = s.straps := rfl
@[simp] theorem putCtx_nv : (putCtx s d c x).nv = s.nv := rfl
@[simp] theorem putCtx_security : (putCtx s d c x).security = s.security := rfl
@[simp] theorem putCtx_mailbox : (putCtx s d c x).mailbox = s.mailbox := rfl
@[simp] theorem putCtx_field : (putCtx s d c x).field = s.field := rfl
@[simp] theorem putCtx_owners : (putCtx s d c x).owners = s.owners := rfl
@[simp] theorem putCtx_integrity : (putCtx s d c x).integrity = s.integrity := rfl
@[simp] theorem putCtx_fabric : (putCtx s d c x).fabric = s.fabric := rfl
@[simp] theorem putCtx_pm : (putCtx s d c x).pm = s.pm := rfl
@[simp] theorem putCtx_failedCause : (putCtx s d c x).failedCause = s.failedCause := rfl
@[simp] theorem putCtx_tripped : (putCtx s d c x).tripped = s.tripped := rfl
@[simp] theorem putCtx_degraded : (putCtx s d c x).degraded = s.degraded := rfl
@[simp] theorem putCtx_isolated : (putCtx s d c x).isolated = s.isolated := rfl
@[simp] theorem putCtx_commits : (putCtx s d c x).commits = s.commits := rfl
@[simp] theorem putCtx_rateWindow : (putCtx s d c x).rateWindow = s.rateWindow := rfl
@[simp] theorem putCtx_generation : (putCtx s d c x).generation = s.generation := rfl
@[simp] theorem putCtx_mixerInput : (putCtx s d c x).mixerInput = s.mixerInput := rfl
@[simp] theorem putCtx_warnEntries : (putCtx s d c x).warnEntries = s.warnEntries := rfl
@[simp] theorem putCtx_critEntries : (putCtx s d c x).critEntries = s.critEntries := rfl
@[simp] theorem putCtx_throttleMicros : (putCtx s d c x).throttleMicros = s.throttleMicros := rfl
@[simp] theorem putCtx_prepareMs : (putCtx s d c x).prepareMs = s.prepareMs := rfl
@[simp] theorem putCtx_lastCommand : (putCtx s d c x).lastCommand = s.lastCommand := rfl
@[simp] theorem putCtx_openWrites : (putCtx s d c x).openWrites = s.openWrites := rfl
@[simp] theorem putCtx_snapRequest : (putCtx s d c x).snapRequest = s.snapRequest := rfl
@[simp] theorem putCtx_snapTool : (putCtx s d c x).snapTool = s.snapTool := rfl
@[simp] theorem putCtx_snapUcie : (putCtx s d c x).snapUcie = s.snapUcie := rfl
@[simp] theorem putCtx_agentHeld : (putCtx s d c x).agentHeld = s.agentHeld := rfl
@[simp] theorem putCtx_agentQueue : (putCtx s d c x).agentQueue = s.agentQueue := rfl
@[simp] theorem putCtx_slots : (putCtx s d c x).slots = s.slots := rfl
@[simp] theorem putCtx_rings : (putCtx s d c x).rings = s.rings := rfl
@[simp] theorem putCtx_dies : (putCtx s d c x).dies = s.dies := rfl
@[simp] theorem putCtx_engines : (putCtx s d c x).engines = s.engines := rfl
@[simp] theorem putCtx_accs : (putCtx s d c x).accs = s.accs := rfl
@[simp] theorem putCtx_homes : (putCtx s d c x).homes = s.homes := rfl
@[simp] theorem putCtx_ports : (putCtx s d c x).ports = s.ports := rfl
@[simp] theorem putCtx_chans : (putCtx s d c x).chans = s.chans := rfl
@[simp] theorem putCtx_cvus : (putCtx s d c x).cvus = s.cvus := rfl
@[simp] theorem putCtx_tickets : (putCtx s d c x).tickets = s.tickets := rfl
@[simp] theorem putCtx_lingering : (putCtx s d c x).lingering = s.lingering := rfl
@[simp] theorem putCtx_repeats : (putCtx s d c x).repeats = s.repeats := rfl
@[simp] theorem putCtx_queueEnds : (putCtx s d c x).queueEnds = s.queueEnds := rfl
@[simp] theorem putCtx_flags : (putCtx s d c x).flags = s.flags := rfl
@[simp] theorem putCtx_routes : (putCtx s d c x).routes = s.routes := rfl
@[simp] theorem putCtx_members : (putCtx s d c x).members = s.members := rfl
@[simp] theorem putCtx_variants : (putCtx s d c x).variants = s.variants := rfl
@[simp] theorem putCtx_buffers : (putCtx s d c x).buffers = s.buffers := rfl
@[simp] theorem putCtx_netHosts : (putCtx s d c x).netHosts = s.netHosts := rfl
@[simp] theorem putCtx_queues : (putCtx s d c x).queues = s.queues := rfl
@[simp] theorem putCtx_queuePos : (putCtx s d c x).queuePos = s.queuePos := rfl
@[simp] theorem putCtx_mem : (putCtx s d c x).mem = s.mem := rfl
@[simp] theorem putCtx_poison : (putCtx s d c x).poison = s.poison := rfl
@[simp] theorem putCtx_writebacks : (putCtx s d c x).writebacks = s.writebacks := rfl
@[simp] theorem putCtx_upsets : (putCtx s d c x).upsets = s.upsets := rfl
@[simp] theorem putCtx_cleared : (putCtx s d c x).cleared = s.cleared := rfl
@[simp] theorem putCtx_homeQueue : (putCtx s d c x).homeQueue = s.homeQueue := rfl
@[simp] theorem putCtx_headQueue : (putCtx s d c x).headQueue = s.headQueue := rfl
@[simp] theorem putCtx_fabReqs : (putCtx s d c x).fabReqs = s.fabReqs := rfl
@[simp] theorem putCtx_waitReqs : (putCtx s d c x).waitReqs = s.waitReqs := rfl
@[simp] theorem putCtx_readsPassed : (putCtx s d c x).readsPassed = s.readsPassed := rfl
@[simp] theorem putCtx_outQueue : (putCtx s d c x).outQueue = s.outQueue := rfl
@[simp] theorem putCtx_ownFlits : (putCtx s d c x).ownFlits = s.ownFlits := rfl
@[simp] theorem putCtx_tileCounts : (putCtx s d c x).tileCounts = s.tileCounts := rfl
@[simp] theorem putCtx_nextInst : (putCtx s d c x).nextInst = s.nextInst := rfl
@[simp] theorem putCtx_nextIssue : (putCtx s d c x).nextIssue = s.nextIssue := rfl
@[simp] theorem putCtx_nextEntry : (putCtx s d c x).nextEntry = s.nextEntry := rfl
@[simp] theorem putCtx_freeReads : (putCtx s d c x).freeReads = s.freeReads := rfl

end

/-! ## memPut -/

section
variable (s : State) (a : Nat) (l : List Byte)

@[simp] theorem memPut_pending : (memPut s a l).pending = s.pending := rfl
@[simp] theorem memPut_sent : (memPut s a l).sent = s.sent := rfl
@[simp] theorem memPut_power : (memPut s a l).power = s.power := rfl
@[simp] theorem memPut_vinOk : (memPut s a l).vinOk = s.vinOk := rfl
@[simp] theorem memPut_pwrOk : (memPut s a l).pwrOk = s.pwrOk := rfl
@[simp] theorem memPut_resetN : (memPut s a l).resetN = s.resetN := rfl
@[simp] theorem memPut_tier2Kept : (memPut s a l).tier2Kept = s.tier2Kept := rfl
@[simp] theorem memPut_straps : (memPut s a l).straps = s.straps := rfl
@[simp] theorem memPut_nv : (memPut s a l).nv = s.nv := rfl
@[simp] theorem memPut_security : (memPut s a l).security = s.security := rfl
@[simp] theorem memPut_mailbox : (memPut s a l).mailbox = s.mailbox := rfl
@[simp] theorem memPut_field : (memPut s a l).field = s.field := rfl
@[simp] theorem memPut_owners : (memPut s a l).owners = s.owners := rfl
@[simp] theorem memPut_integrity : (memPut s a l).integrity = s.integrity := rfl
@[simp] theorem memPut_fabric : (memPut s a l).fabric = s.fabric := rfl
@[simp] theorem memPut_pm : (memPut s a l).pm = s.pm := rfl
@[simp] theorem memPut_failedCause : (memPut s a l).failedCause = s.failedCause := rfl
@[simp] theorem memPut_tripped : (memPut s a l).tripped = s.tripped := rfl
@[simp] theorem memPut_degraded : (memPut s a l).degraded = s.degraded := rfl
@[simp] theorem memPut_isolated : (memPut s a l).isolated = s.isolated := rfl
@[simp] theorem memPut_commits : (memPut s a l).commits = s.commits := rfl
@[simp] theorem memPut_rateWindow : (memPut s a l).rateWindow = s.rateWindow := rfl
@[simp] theorem memPut_generation : (memPut s a l).generation = s.generation := rfl
@[simp] theorem memPut_mixerInput : (memPut s a l).mixerInput = s.mixerInput := rfl
@[simp] theorem memPut_warnEntries : (memPut s a l).warnEntries = s.warnEntries := rfl
@[simp] theorem memPut_critEntries : (memPut s a l).critEntries = s.critEntries := rfl
@[simp] theorem memPut_throttleMicros : (memPut s a l).throttleMicros = s.throttleMicros := rfl
@[simp] theorem memPut_prepareMs : (memPut s a l).prepareMs = s.prepareMs := rfl
@[simp] theorem memPut_lastCommand : (memPut s a l).lastCommand = s.lastCommand := rfl
@[simp] theorem memPut_openWrites : (memPut s a l).openWrites = s.openWrites := rfl
@[simp] theorem memPut_snapRequest : (memPut s a l).snapRequest = s.snapRequest := rfl
@[simp] theorem memPut_snapTool : (memPut s a l).snapTool = s.snapTool := rfl
@[simp] theorem memPut_snapUcie : (memPut s a l).snapUcie = s.snapUcie := rfl
@[simp] theorem memPut_agentHeld : (memPut s a l).agentHeld = s.agentHeld := rfl
@[simp] theorem memPut_agentQueue : (memPut s a l).agentQueue = s.agentQueue := rfl
@[simp] theorem memPut_slots : (memPut s a l).slots = s.slots := rfl
@[simp] theorem memPut_rings : (memPut s a l).rings = s.rings := rfl
@[simp] theorem memPut_dies : (memPut s a l).dies = s.dies := rfl
@[simp] theorem memPut_engines : (memPut s a l).engines = s.engines := rfl
@[simp] theorem memPut_accs : (memPut s a l).accs = s.accs := rfl
@[simp] theorem memPut_homes : (memPut s a l).homes = s.homes := rfl
@[simp] theorem memPut_ports : (memPut s a l).ports = s.ports := rfl
@[simp] theorem memPut_chans : (memPut s a l).chans = s.chans := rfl
@[simp] theorem memPut_cvus : (memPut s a l).cvus = s.cvus := rfl
@[simp] theorem memPut_ctxs : (memPut s a l).ctxs = s.ctxs := rfl
@[simp] theorem memPut_tickets : (memPut s a l).tickets = s.tickets := rfl
@[simp] theorem memPut_lingering : (memPut s a l).lingering = s.lingering := rfl
@[simp] theorem memPut_repeats : (memPut s a l).repeats = s.repeats := rfl
@[simp] theorem memPut_queueEnds : (memPut s a l).queueEnds = s.queueEnds := rfl
@[simp] theorem memPut_flags : (memPut s a l).flags = s.flags := rfl
@[simp] theorem memPut_routes : (memPut s a l).routes = s.routes := rfl
@[simp] theorem memPut_members : (memPut s a l).members = s.members := rfl
@[simp] theorem memPut_variants : (memPut s a l).variants = s.variants := rfl
@[simp] theorem memPut_buffers : (memPut s a l).buffers = s.buffers := rfl
@[simp] theorem memPut_netHosts : (memPut s a l).netHosts = s.netHosts := rfl
@[simp] theorem memPut_queues : (memPut s a l).queues = s.queues := rfl
@[simp] theorem memPut_queuePos : (memPut s a l).queuePos = s.queuePos := rfl
@[simp] theorem memPut_poison : (memPut s a l).poison = s.poison := rfl
@[simp] theorem memPut_writebacks : (memPut s a l).writebacks = s.writebacks := rfl
@[simp] theorem memPut_upsets : (memPut s a l).upsets = s.upsets := rfl
@[simp] theorem memPut_cleared : (memPut s a l).cleared = s.cleared := rfl
@[simp] theorem memPut_homeQueue : (memPut s a l).homeQueue = s.homeQueue := rfl
@[simp] theorem memPut_headQueue : (memPut s a l).headQueue = s.headQueue := rfl
@[simp] theorem memPut_fabReqs : (memPut s a l).fabReqs = s.fabReqs := rfl
@[simp] theorem memPut_waitReqs : (memPut s a l).waitReqs = s.waitReqs := rfl
@[simp] theorem memPut_readsPassed : (memPut s a l).readsPassed = s.readsPassed := rfl
@[simp] theorem memPut_outQueue : (memPut s a l).outQueue = s.outQueue := rfl
@[simp] theorem memPut_ownFlits : (memPut s a l).ownFlits = s.ownFlits := rfl
@[simp] theorem memPut_tileCounts : (memPut s a l).tileCounts = s.tileCounts := rfl
@[simp] theorem memPut_nextInst : (memPut s a l).nextInst = s.nextInst := rfl
@[simp] theorem memPut_nextIssue : (memPut s a l).nextIssue = s.nextIssue := rfl
@[simp] theorem memPut_nextEntry : (memPut s a l).nextEntry = s.nextEntry := rfl
@[simp] theorem memPut_freeReads : (memPut s a l).freeReads = s.freeReads := rfl

end

/-! ## setTk -/

section
variable (s : State) (k : Tk)

@[simp] theorem setTk_pending : (setTk s k).pending = s.pending := rfl
@[simp] theorem setTk_sent : (setTk s k).sent = s.sent := rfl
@[simp] theorem setTk_power : (setTk s k).power = s.power := rfl
@[simp] theorem setTk_vinOk : (setTk s k).vinOk = s.vinOk := rfl
@[simp] theorem setTk_pwrOk : (setTk s k).pwrOk = s.pwrOk := rfl
@[simp] theorem setTk_resetN : (setTk s k).resetN = s.resetN := rfl
@[simp] theorem setTk_tier2Kept : (setTk s k).tier2Kept = s.tier2Kept := rfl
@[simp] theorem setTk_straps : (setTk s k).straps = s.straps := rfl
@[simp] theorem setTk_nv : (setTk s k).nv = s.nv := rfl
@[simp] theorem setTk_security : (setTk s k).security = s.security := rfl
@[simp] theorem setTk_mailbox : (setTk s k).mailbox = s.mailbox := rfl
@[simp] theorem setTk_field : (setTk s k).field = s.field := rfl
@[simp] theorem setTk_owners : (setTk s k).owners = s.owners := rfl
@[simp] theorem setTk_integrity : (setTk s k).integrity = s.integrity := rfl
@[simp] theorem setTk_fabric : (setTk s k).fabric = s.fabric := rfl
@[simp] theorem setTk_pm : (setTk s k).pm = s.pm := rfl
@[simp] theorem setTk_failedCause : (setTk s k).failedCause = s.failedCause := rfl
@[simp] theorem setTk_tripped : (setTk s k).tripped = s.tripped := rfl
@[simp] theorem setTk_degraded : (setTk s k).degraded = s.degraded := rfl
@[simp] theorem setTk_isolated : (setTk s k).isolated = s.isolated := rfl
@[simp] theorem setTk_commits : (setTk s k).commits = s.commits := rfl
@[simp] theorem setTk_rateWindow : (setTk s k).rateWindow = s.rateWindow := rfl
@[simp] theorem setTk_generation : (setTk s k).generation = s.generation := rfl
@[simp] theorem setTk_mixerInput : (setTk s k).mixerInput = s.mixerInput := rfl
@[simp] theorem setTk_warnEntries : (setTk s k).warnEntries = s.warnEntries := rfl
@[simp] theorem setTk_critEntries : (setTk s k).critEntries = s.critEntries := rfl
@[simp] theorem setTk_throttleMicros : (setTk s k).throttleMicros = s.throttleMicros := rfl
@[simp] theorem setTk_prepareMs : (setTk s k).prepareMs = s.prepareMs := rfl
@[simp] theorem setTk_lastCommand : (setTk s k).lastCommand = s.lastCommand := rfl
@[simp] theorem setTk_openWrites : (setTk s k).openWrites = s.openWrites := rfl
@[simp] theorem setTk_snapRequest : (setTk s k).snapRequest = s.snapRequest := rfl
@[simp] theorem setTk_snapTool : (setTk s k).snapTool = s.snapTool := rfl
@[simp] theorem setTk_snapUcie : (setTk s k).snapUcie = s.snapUcie := rfl
@[simp] theorem setTk_agentHeld : (setTk s k).agentHeld = s.agentHeld := rfl
@[simp] theorem setTk_agentQueue : (setTk s k).agentQueue = s.agentQueue := rfl
@[simp] theorem setTk_slots : (setTk s k).slots = s.slots := rfl
@[simp] theorem setTk_rings : (setTk s k).rings = s.rings := rfl
@[simp] theorem setTk_dies : (setTk s k).dies = s.dies := rfl
@[simp] theorem setTk_engines : (setTk s k).engines = s.engines := rfl
@[simp] theorem setTk_accs : (setTk s k).accs = s.accs := rfl
@[simp] theorem setTk_homes : (setTk s k).homes = s.homes := rfl
@[simp] theorem setTk_ports : (setTk s k).ports = s.ports := rfl
@[simp] theorem setTk_chans : (setTk s k).chans = s.chans := rfl
@[simp] theorem setTk_cvus : (setTk s k).cvus = s.cvus := rfl
@[simp] theorem setTk_ctxs : (setTk s k).ctxs = s.ctxs := rfl
@[simp] theorem setTk_lingering : (setTk s k).lingering = s.lingering := rfl
@[simp] theorem setTk_repeats : (setTk s k).repeats = s.repeats := rfl
@[simp] theorem setTk_queueEnds : (setTk s k).queueEnds = s.queueEnds := rfl
@[simp] theorem setTk_flags : (setTk s k).flags = s.flags := rfl
@[simp] theorem setTk_routes : (setTk s k).routes = s.routes := rfl
@[simp] theorem setTk_members : (setTk s k).members = s.members := rfl
@[simp] theorem setTk_variants : (setTk s k).variants = s.variants := rfl
@[simp] theorem setTk_buffers : (setTk s k).buffers = s.buffers := rfl
@[simp] theorem setTk_netHosts : (setTk s k).netHosts = s.netHosts := rfl
@[simp] theorem setTk_queues : (setTk s k).queues = s.queues := rfl
@[simp] theorem setTk_queuePos : (setTk s k).queuePos = s.queuePos := rfl
@[simp] theorem setTk_mem : (setTk s k).mem = s.mem := rfl
@[simp] theorem setTk_poison : (setTk s k).poison = s.poison := rfl
@[simp] theorem setTk_writebacks : (setTk s k).writebacks = s.writebacks := rfl
@[simp] theorem setTk_upsets : (setTk s k).upsets = s.upsets := rfl
@[simp] theorem setTk_cleared : (setTk s k).cleared = s.cleared := rfl
@[simp] theorem setTk_homeQueue : (setTk s k).homeQueue = s.homeQueue := rfl
@[simp] theorem setTk_headQueue : (setTk s k).headQueue = s.headQueue := rfl
@[simp] theorem setTk_fabReqs : (setTk s k).fabReqs = s.fabReqs := rfl
@[simp] theorem setTk_waitReqs : (setTk s k).waitReqs = s.waitReqs := rfl
@[simp] theorem setTk_readsPassed : (setTk s k).readsPassed = s.readsPassed := rfl
@[simp] theorem setTk_outQueue : (setTk s k).outQueue = s.outQueue := rfl
@[simp] theorem setTk_ownFlits : (setTk s k).ownFlits = s.ownFlits := rfl
@[simp] theorem setTk_tileCounts : (setTk s k).tileCounts = s.tileCounts := rfl
@[simp] theorem setTk_nextInst : (setTk s k).nextInst = s.nextInst := rfl
@[simp] theorem setTk_nextIssue : (setTk s k).nextIssue = s.nextIssue := rfl
@[simp] theorem setTk_nextEntry : (setTk s k).nextEntry = s.nextEntry := rfl
@[simp] theorem setTk_freeReads : (setTk s k).freeReads = s.freeReads := rfl

end

/-! ## freeTk -/

section
variable (s : State) (t : TicketId)

@[simp] theorem freeTk_pending : (freeTk s t).pending = s.pending := rfl
@[simp] theorem freeTk_sent : (freeTk s t).sent = s.sent := rfl
@[simp] theorem freeTk_power : (freeTk s t).power = s.power := rfl
@[simp] theorem freeTk_vinOk : (freeTk s t).vinOk = s.vinOk := rfl
@[simp] theorem freeTk_pwrOk : (freeTk s t).pwrOk = s.pwrOk := rfl
@[simp] theorem freeTk_resetN : (freeTk s t).resetN = s.resetN := rfl
@[simp] theorem freeTk_tier2Kept : (freeTk s t).tier2Kept = s.tier2Kept := rfl
@[simp] theorem freeTk_straps : (freeTk s t).straps = s.straps := rfl
@[simp] theorem freeTk_nv : (freeTk s t).nv = s.nv := rfl
@[simp] theorem freeTk_security : (freeTk s t).security = s.security := rfl
@[simp] theorem freeTk_mailbox : (freeTk s t).mailbox = s.mailbox := rfl
@[simp] theorem freeTk_field : (freeTk s t).field = s.field := rfl
@[simp] theorem freeTk_owners : (freeTk s t).owners = s.owners := rfl
@[simp] theorem freeTk_integrity : (freeTk s t).integrity = s.integrity := rfl
@[simp] theorem freeTk_fabric : (freeTk s t).fabric = s.fabric := rfl
@[simp] theorem freeTk_pm : (freeTk s t).pm = s.pm := rfl
@[simp] theorem freeTk_failedCause : (freeTk s t).failedCause = s.failedCause := rfl
@[simp] theorem freeTk_tripped : (freeTk s t).tripped = s.tripped := rfl
@[simp] theorem freeTk_degraded : (freeTk s t).degraded = s.degraded := rfl
@[simp] theorem freeTk_isolated : (freeTk s t).isolated = s.isolated := rfl
@[simp] theorem freeTk_commits : (freeTk s t).commits = s.commits := rfl
@[simp] theorem freeTk_rateWindow : (freeTk s t).rateWindow = s.rateWindow := rfl
@[simp] theorem freeTk_generation : (freeTk s t).generation = s.generation := rfl
@[simp] theorem freeTk_mixerInput : (freeTk s t).mixerInput = s.mixerInput := rfl
@[simp] theorem freeTk_warnEntries : (freeTk s t).warnEntries = s.warnEntries := rfl
@[simp] theorem freeTk_critEntries : (freeTk s t).critEntries = s.critEntries := rfl
@[simp] theorem freeTk_throttleMicros : (freeTk s t).throttleMicros = s.throttleMicros := rfl
@[simp] theorem freeTk_prepareMs : (freeTk s t).prepareMs = s.prepareMs := rfl
@[simp] theorem freeTk_lastCommand : (freeTk s t).lastCommand = s.lastCommand := rfl
@[simp] theorem freeTk_openWrites : (freeTk s t).openWrites = s.openWrites := rfl
@[simp] theorem freeTk_snapRequest : (freeTk s t).snapRequest = s.snapRequest := rfl
@[simp] theorem freeTk_snapTool : (freeTk s t).snapTool = s.snapTool := rfl
@[simp] theorem freeTk_snapUcie : (freeTk s t).snapUcie = s.snapUcie := rfl
@[simp] theorem freeTk_agentHeld : (freeTk s t).agentHeld = s.agentHeld := rfl
@[simp] theorem freeTk_agentQueue : (freeTk s t).agentQueue = s.agentQueue := rfl
@[simp] theorem freeTk_slots : (freeTk s t).slots = s.slots := rfl
@[simp] theorem freeTk_rings : (freeTk s t).rings = s.rings := rfl
@[simp] theorem freeTk_dies : (freeTk s t).dies = s.dies := rfl
@[simp] theorem freeTk_engines : (freeTk s t).engines = s.engines := rfl
@[simp] theorem freeTk_accs : (freeTk s t).accs = s.accs := rfl
@[simp] theorem freeTk_homes : (freeTk s t).homes = s.homes := rfl
@[simp] theorem freeTk_ports : (freeTk s t).ports = s.ports := rfl
@[simp] theorem freeTk_chans : (freeTk s t).chans = s.chans := rfl
@[simp] theorem freeTk_cvus : (freeTk s t).cvus = s.cvus := rfl
@[simp] theorem freeTk_ctxs : (freeTk s t).ctxs = s.ctxs := rfl
@[simp] theorem freeTk_lingering : (freeTk s t).lingering = s.lingering := rfl
@[simp] theorem freeTk_repeats : (freeTk s t).repeats = s.repeats := rfl
@[simp] theorem freeTk_queueEnds : (freeTk s t).queueEnds = s.queueEnds := rfl
@[simp] theorem freeTk_flags : (freeTk s t).flags = s.flags := rfl
@[simp] theorem freeTk_routes : (freeTk s t).routes = s.routes := rfl
@[simp] theorem freeTk_members : (freeTk s t).members = s.members := rfl
@[simp] theorem freeTk_variants : (freeTk s t).variants = s.variants := rfl
@[simp] theorem freeTk_buffers : (freeTk s t).buffers = s.buffers := rfl
@[simp] theorem freeTk_netHosts : (freeTk s t).netHosts = s.netHosts := rfl
@[simp] theorem freeTk_queues : (freeTk s t).queues = s.queues := rfl
@[simp] theorem freeTk_queuePos : (freeTk s t).queuePos = s.queuePos := rfl
@[simp] theorem freeTk_mem : (freeTk s t).mem = s.mem := rfl
@[simp] theorem freeTk_poison : (freeTk s t).poison = s.poison := rfl
@[simp] theorem freeTk_writebacks : (freeTk s t).writebacks = s.writebacks := rfl
@[simp] theorem freeTk_upsets : (freeTk s t).upsets = s.upsets := rfl
@[simp] theorem freeTk_cleared : (freeTk s t).cleared = s.cleared := rfl
@[simp] theorem freeTk_homeQueue : (freeTk s t).homeQueue = s.homeQueue := rfl
@[simp] theorem freeTk_headQueue : (freeTk s t).headQueue = s.headQueue := rfl
@[simp] theorem freeTk_fabReqs : (freeTk s t).fabReqs = s.fabReqs := rfl
@[simp] theorem freeTk_waitReqs : (freeTk s t).waitReqs = s.waitReqs := rfl
@[simp] theorem freeTk_readsPassed : (freeTk s t).readsPassed = s.readsPassed := rfl
@[simp] theorem freeTk_outQueue : (freeTk s t).outQueue = s.outQueue := rfl
@[simp] theorem freeTk_ownFlits : (freeTk s t).ownFlits = s.ownFlits := rfl
@[simp] theorem freeTk_tileCounts : (freeTk s t).tileCounts = s.tileCounts := rfl
@[simp] theorem freeTk_nextInst : (freeTk s t).nextInst = s.nextInst := rfl
@[simp] theorem freeTk_nextIssue : (freeTk s t).nextIssue = s.nextIssue := rfl
@[simp] theorem freeTk_nextEntry : (freeTk s t).nextEntry = s.nextEntry := rfl
@[simp] theorem freeTk_freeReads : (freeTk s t).freeReads = s.freeReads := rfl

end

/-! ## putFlag -/

section
variable (s : State) (d : Die) (f : BitVec 12) (e : BitVec 32)

@[simp] theorem putFlag_pending : (putFlag s d f e).pending = s.pending := rfl
@[simp] theorem putFlag_sent : (putFlag s d f e).sent = s.sent := rfl
@[simp] theorem putFlag_power : (putFlag s d f e).power = s.power := rfl
@[simp] theorem putFlag_vinOk : (putFlag s d f e).vinOk = s.vinOk := rfl
@[simp] theorem putFlag_pwrOk : (putFlag s d f e).pwrOk = s.pwrOk := rfl
@[simp] theorem putFlag_resetN : (putFlag s d f e).resetN = s.resetN := rfl
@[simp] theorem putFlag_tier2Kept : (putFlag s d f e).tier2Kept = s.tier2Kept := rfl
@[simp] theorem putFlag_straps : (putFlag s d f e).straps = s.straps := rfl
@[simp] theorem putFlag_nv : (putFlag s d f e).nv = s.nv := rfl
@[simp] theorem putFlag_security : (putFlag s d f e).security = s.security := rfl
@[simp] theorem putFlag_mailbox : (putFlag s d f e).mailbox = s.mailbox := rfl
@[simp] theorem putFlag_field : (putFlag s d f e).field = s.field := rfl
@[simp] theorem putFlag_owners : (putFlag s d f e).owners = s.owners := rfl
@[simp] theorem putFlag_integrity : (putFlag s d f e).integrity = s.integrity := rfl
@[simp] theorem putFlag_fabric : (putFlag s d f e).fabric = s.fabric := rfl
@[simp] theorem putFlag_pm : (putFlag s d f e).pm = s.pm := rfl
@[simp] theorem putFlag_failedCause : (putFlag s d f e).failedCause = s.failedCause := rfl
@[simp] theorem putFlag_tripped : (putFlag s d f e).tripped = s.tripped := rfl
@[simp] theorem putFlag_degraded : (putFlag s d f e).degraded = s.degraded := rfl
@[simp] theorem putFlag_isolated : (putFlag s d f e).isolated = s.isolated := rfl
@[simp] theorem putFlag_commits : (putFlag s d f e).commits = s.commits := rfl
@[simp] theorem putFlag_rateWindow : (putFlag s d f e).rateWindow = s.rateWindow := rfl
@[simp] theorem putFlag_generation : (putFlag s d f e).generation = s.generation := rfl
@[simp] theorem putFlag_mixerInput : (putFlag s d f e).mixerInput = s.mixerInput := rfl
@[simp] theorem putFlag_warnEntries : (putFlag s d f e).warnEntries = s.warnEntries := rfl
@[simp] theorem putFlag_critEntries : (putFlag s d f e).critEntries = s.critEntries := rfl
@[simp] theorem putFlag_throttleMicros : (putFlag s d f e).throttleMicros = s.throttleMicros := rfl
@[simp] theorem putFlag_prepareMs : (putFlag s d f e).prepareMs = s.prepareMs := rfl
@[simp] theorem putFlag_lastCommand : (putFlag s d f e).lastCommand = s.lastCommand := rfl
@[simp] theorem putFlag_openWrites : (putFlag s d f e).openWrites = s.openWrites := rfl
@[simp] theorem putFlag_snapRequest : (putFlag s d f e).snapRequest = s.snapRequest := rfl
@[simp] theorem putFlag_snapTool : (putFlag s d f e).snapTool = s.snapTool := rfl
@[simp] theorem putFlag_snapUcie : (putFlag s d f e).snapUcie = s.snapUcie := rfl
@[simp] theorem putFlag_agentHeld : (putFlag s d f e).agentHeld = s.agentHeld := rfl
@[simp] theorem putFlag_agentQueue : (putFlag s d f e).agentQueue = s.agentQueue := rfl
@[simp] theorem putFlag_slots : (putFlag s d f e).slots = s.slots := rfl
@[simp] theorem putFlag_rings : (putFlag s d f e).rings = s.rings := rfl
@[simp] theorem putFlag_dies : (putFlag s d f e).dies = s.dies := rfl
@[simp] theorem putFlag_engines : (putFlag s d f e).engines = s.engines := rfl
@[simp] theorem putFlag_accs : (putFlag s d f e).accs = s.accs := rfl
@[simp] theorem putFlag_homes : (putFlag s d f e).homes = s.homes := rfl
@[simp] theorem putFlag_ports : (putFlag s d f e).ports = s.ports := rfl
@[simp] theorem putFlag_chans : (putFlag s d f e).chans = s.chans := rfl
@[simp] theorem putFlag_cvus : (putFlag s d f e).cvus = s.cvus := rfl
@[simp] theorem putFlag_ctxs : (putFlag s d f e).ctxs = s.ctxs := rfl
@[simp] theorem putFlag_tickets : (putFlag s d f e).tickets = s.tickets := rfl
@[simp] theorem putFlag_lingering : (putFlag s d f e).lingering = s.lingering := rfl
@[simp] theorem putFlag_repeats : (putFlag s d f e).repeats = s.repeats := rfl
@[simp] theorem putFlag_queueEnds : (putFlag s d f e).queueEnds = s.queueEnds := rfl
@[simp] theorem putFlag_routes : (putFlag s d f e).routes = s.routes := rfl
@[simp] theorem putFlag_members : (putFlag s d f e).members = s.members := rfl
@[simp] theorem putFlag_variants : (putFlag s d f e).variants = s.variants := rfl
@[simp] theorem putFlag_buffers : (putFlag s d f e).buffers = s.buffers := rfl
@[simp] theorem putFlag_netHosts : (putFlag s d f e).netHosts = s.netHosts := rfl
@[simp] theorem putFlag_queues : (putFlag s d f e).queues = s.queues := rfl
@[simp] theorem putFlag_queuePos : (putFlag s d f e).queuePos = s.queuePos := rfl
@[simp] theorem putFlag_mem : (putFlag s d f e).mem = s.mem := rfl
@[simp] theorem putFlag_poison : (putFlag s d f e).poison = s.poison := rfl
@[simp] theorem putFlag_writebacks : (putFlag s d f e).writebacks = s.writebacks := rfl
@[simp] theorem putFlag_upsets : (putFlag s d f e).upsets = s.upsets := rfl
@[simp] theorem putFlag_cleared : (putFlag s d f e).cleared = s.cleared := rfl
@[simp] theorem putFlag_homeQueue : (putFlag s d f e).homeQueue = s.homeQueue := rfl
@[simp] theorem putFlag_headQueue : (putFlag s d f e).headQueue = s.headQueue := rfl
@[simp] theorem putFlag_fabReqs : (putFlag s d f e).fabReqs = s.fabReqs := rfl
@[simp] theorem putFlag_waitReqs : (putFlag s d f e).waitReqs = s.waitReqs := rfl
@[simp] theorem putFlag_readsPassed : (putFlag s d f e).readsPassed = s.readsPassed := rfl
@[simp] theorem putFlag_outQueue : (putFlag s d f e).outQueue = s.outQueue := rfl
@[simp] theorem putFlag_ownFlits : (putFlag s d f e).ownFlits = s.ownFlits := rfl
@[simp] theorem putFlag_tileCounts : (putFlag s d f e).tileCounts = s.tileCounts := rfl
@[simp] theorem putFlag_nextInst : (putFlag s d f e).nextInst = s.nextInst := rfl
@[simp] theorem putFlag_nextIssue : (putFlag s d f e).nextIssue = s.nextIssue := rfl
@[simp] theorem putFlag_nextEntry : (putFlag s d f e).nextEntry = s.nextEntry := rfl
@[simp] theorem putFlag_freeReads : (putFlag s d f e).freeReads = s.freeReads := rfl

end

/-! ## extendMr -/

section
variable (s : State) (i : Fin 8) (d : List Byte)

@[simp] theorem extendMr_pending : (extendMr s i d).pending = s.pending := by simp only [extendMr]
@[simp] theorem extendMr_sent : (extendMr s i d).sent = s.sent := by simp only [extendMr]
@[simp] theorem extendMr_power : (extendMr s i d).power = s.power := by simp only [extendMr]
@[simp] theorem extendMr_vinOk : (extendMr s i d).vinOk = s.vinOk := by simp only [extendMr]
@[simp] theorem extendMr_pwrOk : (extendMr s i d).pwrOk = s.pwrOk := by simp only [extendMr]
@[simp] theorem extendMr_resetN : (extendMr s i d).resetN = s.resetN := by simp only [extendMr]
@[simp] theorem extendMr_tier2Kept : (extendMr s i d).tier2Kept = s.tier2Kept := by simp only [extendMr]
@[simp] theorem extendMr_straps : (extendMr s i d).straps = s.straps := by simp only [extendMr]
@[simp] theorem extendMr_nv : (extendMr s i d).nv = s.nv := by simp only [extendMr]
@[simp] theorem extendMr_mailbox : (extendMr s i d).mailbox = s.mailbox := by simp only [extendMr]
@[simp] theorem extendMr_field : (extendMr s i d).field = s.field := by simp only [extendMr]
@[simp] theorem extendMr_owners : (extendMr s i d).owners = s.owners := by simp only [extendMr]
@[simp] theorem extendMr_integrity : (extendMr s i d).integrity = s.integrity := by simp only [extendMr]
@[simp] theorem extendMr_fabric : (extendMr s i d).fabric = s.fabric := by simp only [extendMr]
@[simp] theorem extendMr_pm : (extendMr s i d).pm = s.pm := by simp only [extendMr]
@[simp] theorem extendMr_failedCause : (extendMr s i d).failedCause = s.failedCause := by simp only [extendMr]
@[simp] theorem extendMr_tripped : (extendMr s i d).tripped = s.tripped := by simp only [extendMr]
@[simp] theorem extendMr_degraded : (extendMr s i d).degraded = s.degraded := by simp only [extendMr]
@[simp] theorem extendMr_isolated : (extendMr s i d).isolated = s.isolated := by simp only [extendMr]
@[simp] theorem extendMr_commits : (extendMr s i d).commits = s.commits := by simp only [extendMr]
@[simp] theorem extendMr_rateWindow : (extendMr s i d).rateWindow = s.rateWindow := by simp only [extendMr]
@[simp] theorem extendMr_generation : (extendMr s i d).generation = s.generation := by simp only [extendMr]
@[simp] theorem extendMr_mixerInput : (extendMr s i d).mixerInput = s.mixerInput := by simp only [extendMr]
@[simp] theorem extendMr_warnEntries : (extendMr s i d).warnEntries = s.warnEntries := by simp only [extendMr]
@[simp] theorem extendMr_critEntries : (extendMr s i d).critEntries = s.critEntries := by simp only [extendMr]
@[simp] theorem extendMr_throttleMicros : (extendMr s i d).throttleMicros = s.throttleMicros := by simp only [extendMr]
@[simp] theorem extendMr_prepareMs : (extendMr s i d).prepareMs = s.prepareMs := by simp only [extendMr]
@[simp] theorem extendMr_lastCommand : (extendMr s i d).lastCommand = s.lastCommand := by simp only [extendMr]
@[simp] theorem extendMr_openWrites : (extendMr s i d).openWrites = s.openWrites := by simp only [extendMr]
@[simp] theorem extendMr_snapRequest : (extendMr s i d).snapRequest = s.snapRequest := by simp only [extendMr]
@[simp] theorem extendMr_snapTool : (extendMr s i d).snapTool = s.snapTool := by simp only [extendMr]
@[simp] theorem extendMr_snapUcie : (extendMr s i d).snapUcie = s.snapUcie := by simp only [extendMr]
@[simp] theorem extendMr_agentHeld : (extendMr s i d).agentHeld = s.agentHeld := by simp only [extendMr]
@[simp] theorem extendMr_agentQueue : (extendMr s i d).agentQueue = s.agentQueue := by simp only [extendMr]
@[simp] theorem extendMr_slots : (extendMr s i d).slots = s.slots := by simp only [extendMr]
@[simp] theorem extendMr_rings : (extendMr s i d).rings = s.rings := by simp only [extendMr]
@[simp] theorem extendMr_dies : (extendMr s i d).dies = s.dies := by simp only [extendMr]
@[simp] theorem extendMr_engines : (extendMr s i d).engines = s.engines := by simp only [extendMr]
@[simp] theorem extendMr_accs : (extendMr s i d).accs = s.accs := by simp only [extendMr]
@[simp] theorem extendMr_homes : (extendMr s i d).homes = s.homes := by simp only [extendMr]
@[simp] theorem extendMr_ports : (extendMr s i d).ports = s.ports := by simp only [extendMr]
@[simp] theorem extendMr_chans : (extendMr s i d).chans = s.chans := by simp only [extendMr]
@[simp] theorem extendMr_cvus : (extendMr s i d).cvus = s.cvus := by simp only [extendMr]
@[simp] theorem extendMr_ctxs : (extendMr s i d).ctxs = s.ctxs := by simp only [extendMr]
@[simp] theorem extendMr_tickets : (extendMr s i d).tickets = s.tickets := by simp only [extendMr]
@[simp] theorem extendMr_lingering : (extendMr s i d).lingering = s.lingering := by simp only [extendMr]
@[simp] theorem extendMr_repeats : (extendMr s i d).repeats = s.repeats := by simp only [extendMr]
@[simp] theorem extendMr_queueEnds : (extendMr s i d).queueEnds = s.queueEnds := by simp only [extendMr]
@[simp] theorem extendMr_flags : (extendMr s i d).flags = s.flags := by simp only [extendMr]
@[simp] theorem extendMr_routes : (extendMr s i d).routes = s.routes := by simp only [extendMr]
@[simp] theorem extendMr_members : (extendMr s i d).members = s.members := by simp only [extendMr]
@[simp] theorem extendMr_variants : (extendMr s i d).variants = s.variants := by simp only [extendMr]
@[simp] theorem extendMr_buffers : (extendMr s i d).buffers = s.buffers := by simp only [extendMr]
@[simp] theorem extendMr_netHosts : (extendMr s i d).netHosts = s.netHosts := by simp only [extendMr]
@[simp] theorem extendMr_queues : (extendMr s i d).queues = s.queues := by simp only [extendMr]
@[simp] theorem extendMr_queuePos : (extendMr s i d).queuePos = s.queuePos := by simp only [extendMr]
@[simp] theorem extendMr_mem : (extendMr s i d).mem = s.mem := by simp only [extendMr]
@[simp] theorem extendMr_poison : (extendMr s i d).poison = s.poison := by simp only [extendMr]
@[simp] theorem extendMr_writebacks : (extendMr s i d).writebacks = s.writebacks := by simp only [extendMr]
@[simp] theorem extendMr_upsets : (extendMr s i d).upsets = s.upsets := by simp only [extendMr]
@[simp] theorem extendMr_cleared : (extendMr s i d).cleared = s.cleared := by simp only [extendMr]
@[simp] theorem extendMr_homeQueue : (extendMr s i d).homeQueue = s.homeQueue := by simp only [extendMr]
@[simp] theorem extendMr_headQueue : (extendMr s i d).headQueue = s.headQueue := by simp only [extendMr]
@[simp] theorem extendMr_fabReqs : (extendMr s i d).fabReqs = s.fabReqs := by simp only [extendMr]
@[simp] theorem extendMr_waitReqs : (extendMr s i d).waitReqs = s.waitReqs := by simp only [extendMr]
@[simp] theorem extendMr_readsPassed : (extendMr s i d).readsPassed = s.readsPassed := by simp only [extendMr]
@[simp] theorem extendMr_outQueue : (extendMr s i d).outQueue = s.outQueue := by simp only [extendMr]
@[simp] theorem extendMr_ownFlits : (extendMr s i d).ownFlits = s.ownFlits := by simp only [extendMr]
@[simp] theorem extendMr_tileCounts : (extendMr s i d).tileCounts = s.tileCounts := by simp only [extendMr]
@[simp] theorem extendMr_nextInst : (extendMr s i d).nextInst = s.nextInst := by simp only [extendMr]
@[simp] theorem extendMr_nextIssue : (extendMr s i d).nextIssue = s.nextIssue := by simp only [extendMr]
@[simp] theorem extendMr_nextEntry : (extendMr s i d).nextEntry = s.nextEntry := by simp only [extendMr]
@[simp] theorem extendMr_freeReads : (extendMr s i d).freeReads = s.freeReads := by simp only [extendMr]

end

/-! ## logStep -/

section
variable (s : State) (cause : Nat) (unit : BitVec 8) (j : Slot) (t : Nat) (step : BitVec 32) (whr detail : Nat)

@[simp] theorem logStep_pending : (logStep s cause unit j t step whr detail).pending = s.pending := by simp only [logStep]
@[simp] theorem logStep_sent : (logStep s cause unit j t step whr detail).sent = s.sent := by simp only [logStep]
@[simp] theorem logStep_power : (logStep s cause unit j t step whr detail).power = s.power := by simp only [logStep]
@[simp] theorem logStep_vinOk : (logStep s cause unit j t step whr detail).vinOk = s.vinOk := by simp only [logStep]
@[simp] theorem logStep_pwrOk : (logStep s cause unit j t step whr detail).pwrOk = s.pwrOk := by simp only [logStep]
@[simp] theorem logStep_resetN : (logStep s cause unit j t step whr detail).resetN = s.resetN := by simp only [logStep]
@[simp] theorem logStep_tier2Kept : (logStep s cause unit j t step whr detail).tier2Kept = s.tier2Kept := by simp only [logStep]
@[simp] theorem logStep_straps : (logStep s cause unit j t step whr detail).straps = s.straps := by simp only [logStep]
@[simp] theorem logStep_nv : (logStep s cause unit j t step whr detail).nv = s.nv := by simp only [logStep]
@[simp] theorem logStep_security : (logStep s cause unit j t step whr detail).security = s.security := by simp only [logStep]
@[simp] theorem logStep_mailbox : (logStep s cause unit j t step whr detail).mailbox = s.mailbox := by simp only [logStep]
@[simp] theorem logStep_field : (logStep s cause unit j t step whr detail).field = s.field := by simp only [logStep]
@[simp] theorem logStep_owners : (logStep s cause unit j t step whr detail).owners = s.owners := by simp only [logStep]
@[simp] theorem logStep_fabric : (logStep s cause unit j t step whr detail).fabric = s.fabric := by simp only [logStep]
@[simp] theorem logStep_pm : (logStep s cause unit j t step whr detail).pm = s.pm := by simp only [logStep]
@[simp] theorem logStep_failedCause : (logStep s cause unit j t step whr detail).failedCause = s.failedCause := by simp only [logStep]
@[simp] theorem logStep_tripped : (logStep s cause unit j t step whr detail).tripped = s.tripped := by simp only [logStep]
@[simp] theorem logStep_degraded : (logStep s cause unit j t step whr detail).degraded = s.degraded := by simp only [logStep]
@[simp] theorem logStep_isolated : (logStep s cause unit j t step whr detail).isolated = s.isolated := by simp only [logStep]
@[simp] theorem logStep_commits : (logStep s cause unit j t step whr detail).commits = s.commits := by simp only [logStep]
@[simp] theorem logStep_rateWindow : (logStep s cause unit j t step whr detail).rateWindow = s.rateWindow := by simp only [logStep]
@[simp] theorem logStep_generation : (logStep s cause unit j t step whr detail).generation = s.generation := by simp only [logStep]
@[simp] theorem logStep_mixerInput : (logStep s cause unit j t step whr detail).mixerInput = s.mixerInput := by simp only [logStep]
@[simp] theorem logStep_warnEntries : (logStep s cause unit j t step whr detail).warnEntries = s.warnEntries := by simp only [logStep]
@[simp] theorem logStep_critEntries : (logStep s cause unit j t step whr detail).critEntries = s.critEntries := by simp only [logStep]
@[simp] theorem logStep_throttleMicros : (logStep s cause unit j t step whr detail).throttleMicros = s.throttleMicros := by simp only [logStep]
@[simp] theorem logStep_prepareMs : (logStep s cause unit j t step whr detail).prepareMs = s.prepareMs := by simp only [logStep]
@[simp] theorem logStep_lastCommand : (logStep s cause unit j t step whr detail).lastCommand = s.lastCommand := by simp only [logStep]
@[simp] theorem logStep_openWrites : (logStep s cause unit j t step whr detail).openWrites = s.openWrites := by simp only [logStep]
@[simp] theorem logStep_snapRequest : (logStep s cause unit j t step whr detail).snapRequest = s.snapRequest := by simp only [logStep]
@[simp] theorem logStep_snapTool : (logStep s cause unit j t step whr detail).snapTool = s.snapTool := by simp only [logStep]
@[simp] theorem logStep_snapUcie : (logStep s cause unit j t step whr detail).snapUcie = s.snapUcie := by simp only [logStep]
@[simp] theorem logStep_agentHeld : (logStep s cause unit j t step whr detail).agentHeld = s.agentHeld := by simp only [logStep]
@[simp] theorem logStep_agentQueue : (logStep s cause unit j t step whr detail).agentQueue = s.agentQueue := by simp only [logStep]
@[simp] theorem logStep_slots : (logStep s cause unit j t step whr detail).slots = s.slots := by simp only [logStep]
@[simp] theorem logStep_rings : (logStep s cause unit j t step whr detail).rings = s.rings := by simp only [logStep]
@[simp] theorem logStep_dies : (logStep s cause unit j t step whr detail).dies = s.dies := by simp only [logStep]
@[simp] theorem logStep_engines : (logStep s cause unit j t step whr detail).engines = s.engines := by simp only [logStep]
@[simp] theorem logStep_accs : (logStep s cause unit j t step whr detail).accs = s.accs := by simp only [logStep]
@[simp] theorem logStep_homes : (logStep s cause unit j t step whr detail).homes = s.homes := by simp only [logStep]
@[simp] theorem logStep_ports : (logStep s cause unit j t step whr detail).ports = s.ports := by simp only [logStep]
@[simp] theorem logStep_chans : (logStep s cause unit j t step whr detail).chans = s.chans := by simp only [logStep]
@[simp] theorem logStep_cvus : (logStep s cause unit j t step whr detail).cvus = s.cvus := by simp only [logStep]
@[simp] theorem logStep_ctxs : (logStep s cause unit j t step whr detail).ctxs = s.ctxs := by simp only [logStep]
@[simp] theorem logStep_tickets : (logStep s cause unit j t step whr detail).tickets = s.tickets := by simp only [logStep]
@[simp] theorem logStep_lingering : (logStep s cause unit j t step whr detail).lingering = s.lingering := by simp only [logStep]
@[simp] theorem logStep_repeats : (logStep s cause unit j t step whr detail).repeats = s.repeats := by simp only [logStep]
@[simp] theorem logStep_queueEnds : (logStep s cause unit j t step whr detail).queueEnds = s.queueEnds := by simp only [logStep]
@[simp] theorem logStep_flags : (logStep s cause unit j t step whr detail).flags = s.flags := by simp only [logStep]
@[simp] theorem logStep_routes : (logStep s cause unit j t step whr detail).routes = s.routes := by simp only [logStep]
@[simp] theorem logStep_members : (logStep s cause unit j t step whr detail).members = s.members := by simp only [logStep]
@[simp] theorem logStep_variants : (logStep s cause unit j t step whr detail).variants = s.variants := by simp only [logStep]
@[simp] theorem logStep_buffers : (logStep s cause unit j t step whr detail).buffers = s.buffers := by simp only [logStep]
@[simp] theorem logStep_netHosts : (logStep s cause unit j t step whr detail).netHosts = s.netHosts := by simp only [logStep]
@[simp] theorem logStep_queues : (logStep s cause unit j t step whr detail).queues = s.queues := by simp only [logStep]
@[simp] theorem logStep_queuePos : (logStep s cause unit j t step whr detail).queuePos = s.queuePos := by simp only [logStep]
@[simp] theorem logStep_mem : (logStep s cause unit j t step whr detail).mem = s.mem := by simp only [logStep]
@[simp] theorem logStep_poison : (logStep s cause unit j t step whr detail).poison = s.poison := by simp only [logStep]
@[simp] theorem logStep_writebacks : (logStep s cause unit j t step whr detail).writebacks = s.writebacks := by simp only [logStep]
@[simp] theorem logStep_upsets : (logStep s cause unit j t step whr detail).upsets = s.upsets := by simp only [logStep]
@[simp] theorem logStep_cleared : (logStep s cause unit j t step whr detail).cleared = s.cleared := by simp only [logStep]
@[simp] theorem logStep_homeQueue : (logStep s cause unit j t step whr detail).homeQueue = s.homeQueue := by simp only [logStep]
@[simp] theorem logStep_headQueue : (logStep s cause unit j t step whr detail).headQueue = s.headQueue := by simp only [logStep]
@[simp] theorem logStep_fabReqs : (logStep s cause unit j t step whr detail).fabReqs = s.fabReqs := by simp only [logStep]
@[simp] theorem logStep_waitReqs : (logStep s cause unit j t step whr detail).waitReqs = s.waitReqs := by simp only [logStep]
@[simp] theorem logStep_readsPassed : (logStep s cause unit j t step whr detail).readsPassed = s.readsPassed := by simp only [logStep]
@[simp] theorem logStep_outQueue : (logStep s cause unit j t step whr detail).outQueue = s.outQueue := by simp only [logStep]
@[simp] theorem logStep_ownFlits : (logStep s cause unit j t step whr detail).ownFlits = s.ownFlits := by simp only [logStep]
@[simp] theorem logStep_tileCounts : (logStep s cause unit j t step whr detail).tileCounts = s.tileCounts := by simp only [logStep]
@[simp] theorem logStep_nextInst : (logStep s cause unit j t step whr detail).nextInst = s.nextInst := by simp only [logStep]
@[simp] theorem logStep_nextIssue : (logStep s cause unit j t step whr detail).nextIssue = s.nextIssue := by simp only [logStep]
@[simp] theorem logStep_nextEntry : (logStep s cause unit j t step whr detail).nextEntry = s.nextEntry := by simp only [logStep]
@[simp] theorem logStep_freeReads : (logStep s cause unit j t step whr detail).freeReads = s.freeReads := by simp only [logStep]

end

/-! ## logEntry -/

section
variable (s : State) (cause : Nat) (unit : BitVec 8) (j : Slot) (t whr detail : Nat)

@[simp] theorem logEntry_pending : (logEntry s cause unit j t whr detail).pending = s.pending := by simp only [logEntry, logStep_pending]
@[simp] theorem logEntry_sent : (logEntry s cause unit j t whr detail).sent = s.sent := by simp only [logEntry, logStep_sent]
@[simp] theorem logEntry_power : (logEntry s cause unit j t whr detail).power = s.power := by simp only [logEntry, logStep_power]
@[simp] theorem logEntry_vinOk : (logEntry s cause unit j t whr detail).vinOk = s.vinOk := by simp only [logEntry, logStep_vinOk]
@[simp] theorem logEntry_pwrOk : (logEntry s cause unit j t whr detail).pwrOk = s.pwrOk := by simp only [logEntry, logStep_pwrOk]
@[simp] theorem logEntry_resetN : (logEntry s cause unit j t whr detail).resetN = s.resetN := by simp only [logEntry, logStep_resetN]
@[simp] theorem logEntry_tier2Kept : (logEntry s cause unit j t whr detail).tier2Kept = s.tier2Kept := by simp only [logEntry, logStep_tier2Kept]
@[simp] theorem logEntry_straps : (logEntry s cause unit j t whr detail).straps = s.straps := by simp only [logEntry, logStep_straps]
@[simp] theorem logEntry_nv : (logEntry s cause unit j t whr detail).nv = s.nv := by simp only [logEntry, logStep_nv]
@[simp] theorem logEntry_security : (logEntry s cause unit j t whr detail).security = s.security := by simp only [logEntry, logStep_security]
@[simp] theorem logEntry_mailbox : (logEntry s cause unit j t whr detail).mailbox = s.mailbox := by simp only [logEntry, logStep_mailbox]
@[simp] theorem logEntry_field : (logEntry s cause unit j t whr detail).field = s.field := by simp only [logEntry, logStep_field]
@[simp] theorem logEntry_owners : (logEntry s cause unit j t whr detail).owners = s.owners := by simp only [logEntry, logStep_owners]
@[simp] theorem logEntry_fabric : (logEntry s cause unit j t whr detail).fabric = s.fabric := by simp only [logEntry, logStep_fabric]
@[simp] theorem logEntry_pm : (logEntry s cause unit j t whr detail).pm = s.pm := by simp only [logEntry, logStep_pm]
@[simp] theorem logEntry_failedCause : (logEntry s cause unit j t whr detail).failedCause = s.failedCause := by simp only [logEntry, logStep_failedCause]
@[simp] theorem logEntry_tripped : (logEntry s cause unit j t whr detail).tripped = s.tripped := by simp only [logEntry, logStep_tripped]
@[simp] theorem logEntry_degraded : (logEntry s cause unit j t whr detail).degraded = s.degraded := by simp only [logEntry, logStep_degraded]
@[simp] theorem logEntry_isolated : (logEntry s cause unit j t whr detail).isolated = s.isolated := by simp only [logEntry, logStep_isolated]
@[simp] theorem logEntry_commits : (logEntry s cause unit j t whr detail).commits = s.commits := by simp only [logEntry, logStep_commits]
@[simp] theorem logEntry_rateWindow : (logEntry s cause unit j t whr detail).rateWindow = s.rateWindow := by simp only [logEntry, logStep_rateWindow]
@[simp] theorem logEntry_generation : (logEntry s cause unit j t whr detail).generation = s.generation := by simp only [logEntry, logStep_generation]
@[simp] theorem logEntry_mixerInput : (logEntry s cause unit j t whr detail).mixerInput = s.mixerInput := by simp only [logEntry, logStep_mixerInput]
@[simp] theorem logEntry_warnEntries : (logEntry s cause unit j t whr detail).warnEntries = s.warnEntries := by simp only [logEntry, logStep_warnEntries]
@[simp] theorem logEntry_critEntries : (logEntry s cause unit j t whr detail).critEntries = s.critEntries := by simp only [logEntry, logStep_critEntries]
@[simp] theorem logEntry_throttleMicros : (logEntry s cause unit j t whr detail).throttleMicros = s.throttleMicros := by simp only [logEntry, logStep_throttleMicros]
@[simp] theorem logEntry_prepareMs : (logEntry s cause unit j t whr detail).prepareMs = s.prepareMs := by simp only [logEntry, logStep_prepareMs]
@[simp] theorem logEntry_lastCommand : (logEntry s cause unit j t whr detail).lastCommand = s.lastCommand := by simp only [logEntry, logStep_lastCommand]
@[simp] theorem logEntry_openWrites : (logEntry s cause unit j t whr detail).openWrites = s.openWrites := by simp only [logEntry, logStep_openWrites]
@[simp] theorem logEntry_snapRequest : (logEntry s cause unit j t whr detail).snapRequest = s.snapRequest := by simp only [logEntry, logStep_snapRequest]
@[simp] theorem logEntry_snapTool : (logEntry s cause unit j t whr detail).snapTool = s.snapTool := by simp only [logEntry, logStep_snapTool]
@[simp] theorem logEntry_snapUcie : (logEntry s cause unit j t whr detail).snapUcie = s.snapUcie := by simp only [logEntry, logStep_snapUcie]
@[simp] theorem logEntry_agentHeld : (logEntry s cause unit j t whr detail).agentHeld = s.agentHeld := by simp only [logEntry, logStep_agentHeld]
@[simp] theorem logEntry_agentQueue : (logEntry s cause unit j t whr detail).agentQueue = s.agentQueue := by simp only [logEntry, logStep_agentQueue]
@[simp] theorem logEntry_slots : (logEntry s cause unit j t whr detail).slots = s.slots := by simp only [logEntry, logStep_slots]
@[simp] theorem logEntry_rings : (logEntry s cause unit j t whr detail).rings = s.rings := by simp only [logEntry, logStep_rings]
@[simp] theorem logEntry_dies : (logEntry s cause unit j t whr detail).dies = s.dies := by simp only [logEntry, logStep_dies]
@[simp] theorem logEntry_engines : (logEntry s cause unit j t whr detail).engines = s.engines := by simp only [logEntry, logStep_engines]
@[simp] theorem logEntry_accs : (logEntry s cause unit j t whr detail).accs = s.accs := by simp only [logEntry, logStep_accs]
@[simp] theorem logEntry_homes : (logEntry s cause unit j t whr detail).homes = s.homes := by simp only [logEntry, logStep_homes]
@[simp] theorem logEntry_ports : (logEntry s cause unit j t whr detail).ports = s.ports := by simp only [logEntry, logStep_ports]
@[simp] theorem logEntry_chans : (logEntry s cause unit j t whr detail).chans = s.chans := by simp only [logEntry, logStep_chans]
@[simp] theorem logEntry_cvus : (logEntry s cause unit j t whr detail).cvus = s.cvus := by simp only [logEntry, logStep_cvus]
@[simp] theorem logEntry_ctxs : (logEntry s cause unit j t whr detail).ctxs = s.ctxs := by simp only [logEntry, logStep_ctxs]
@[simp] theorem logEntry_tickets : (logEntry s cause unit j t whr detail).tickets = s.tickets := by simp only [logEntry, logStep_tickets]
@[simp] theorem logEntry_lingering : (logEntry s cause unit j t whr detail).lingering = s.lingering := by simp only [logEntry, logStep_lingering]
@[simp] theorem logEntry_repeats : (logEntry s cause unit j t whr detail).repeats = s.repeats := by simp only [logEntry, logStep_repeats]
@[simp] theorem logEntry_queueEnds : (logEntry s cause unit j t whr detail).queueEnds = s.queueEnds := by simp only [logEntry, logStep_queueEnds]
@[simp] theorem logEntry_flags : (logEntry s cause unit j t whr detail).flags = s.flags := by simp only [logEntry, logStep_flags]
@[simp] theorem logEntry_routes : (logEntry s cause unit j t whr detail).routes = s.routes := by simp only [logEntry, logStep_routes]
@[simp] theorem logEntry_members : (logEntry s cause unit j t whr detail).members = s.members := by simp only [logEntry, logStep_members]
@[simp] theorem logEntry_variants : (logEntry s cause unit j t whr detail).variants = s.variants := by simp only [logEntry, logStep_variants]
@[simp] theorem logEntry_buffers : (logEntry s cause unit j t whr detail).buffers = s.buffers := by simp only [logEntry, logStep_buffers]
@[simp] theorem logEntry_netHosts : (logEntry s cause unit j t whr detail).netHosts = s.netHosts := by simp only [logEntry, logStep_netHosts]
@[simp] theorem logEntry_queues : (logEntry s cause unit j t whr detail).queues = s.queues := by simp only [logEntry, logStep_queues]
@[simp] theorem logEntry_queuePos : (logEntry s cause unit j t whr detail).queuePos = s.queuePos := by simp only [logEntry, logStep_queuePos]
@[simp] theorem logEntry_mem : (logEntry s cause unit j t whr detail).mem = s.mem := by simp only [logEntry, logStep_mem]
@[simp] theorem logEntry_poison : (logEntry s cause unit j t whr detail).poison = s.poison := by simp only [logEntry, logStep_poison]
@[simp] theorem logEntry_writebacks : (logEntry s cause unit j t whr detail).writebacks = s.writebacks := by simp only [logEntry, logStep_writebacks]
@[simp] theorem logEntry_upsets : (logEntry s cause unit j t whr detail).upsets = s.upsets := by simp only [logEntry, logStep_upsets]
@[simp] theorem logEntry_cleared : (logEntry s cause unit j t whr detail).cleared = s.cleared := by simp only [logEntry, logStep_cleared]
@[simp] theorem logEntry_homeQueue : (logEntry s cause unit j t whr detail).homeQueue = s.homeQueue := by simp only [logEntry, logStep_homeQueue]
@[simp] theorem logEntry_headQueue : (logEntry s cause unit j t whr detail).headQueue = s.headQueue := by simp only [logEntry, logStep_headQueue]
@[simp] theorem logEntry_fabReqs : (logEntry s cause unit j t whr detail).fabReqs = s.fabReqs := by simp only [logEntry, logStep_fabReqs]
@[simp] theorem logEntry_waitReqs : (logEntry s cause unit j t whr detail).waitReqs = s.waitReqs := by simp only [logEntry, logStep_waitReqs]
@[simp] theorem logEntry_readsPassed : (logEntry s cause unit j t whr detail).readsPassed = s.readsPassed := by simp only [logEntry, logStep_readsPassed]
@[simp] theorem logEntry_outQueue : (logEntry s cause unit j t whr detail).outQueue = s.outQueue := by simp only [logEntry, logStep_outQueue]
@[simp] theorem logEntry_ownFlits : (logEntry s cause unit j t whr detail).ownFlits = s.ownFlits := by simp only [logEntry, logStep_ownFlits]
@[simp] theorem logEntry_tileCounts : (logEntry s cause unit j t whr detail).tileCounts = s.tileCounts := by simp only [logEntry, logStep_tileCounts]
@[simp] theorem logEntry_nextInst : (logEntry s cause unit j t whr detail).nextInst = s.nextInst := by simp only [logEntry, logStep_nextInst]
@[simp] theorem logEntry_nextIssue : (logEntry s cause unit j t whr detail).nextIssue = s.nextIssue := by simp only [logEntry, logStep_nextIssue]
@[simp] theorem logEntry_nextEntry : (logEntry s cause unit j t whr detail).nextEntry = s.nextEntry := by simp only [logEntry, logStep_nextEntry]
@[simp] theorem logEntry_freeReads : (logEntry s cause unit j t whr detail).freeReads = s.freeReads := by simp only [logEntry, logStep_freeReads]

end

/-! ## failEntry -/

section
variable (s : State) (kind : Nat) (unit : BitVec 8) (whr detail : Nat) (j : Slot)

@[simp] theorem failEntry_pending : (failEntry s kind unit whr detail j).pending = s.pending := by simp only [failEntry]
@[simp] theorem failEntry_sent : (failEntry s kind unit whr detail j).sent = s.sent := by simp only [failEntry]
@[simp] theorem failEntry_power : (failEntry s kind unit whr detail j).power = s.power := by simp only [failEntry]
@[simp] theorem failEntry_vinOk : (failEntry s kind unit whr detail j).vinOk = s.vinOk := by simp only [failEntry]
@[simp] theorem failEntry_pwrOk : (failEntry s kind unit whr detail j).pwrOk = s.pwrOk := by simp only [failEntry]
@[simp] theorem failEntry_resetN : (failEntry s kind unit whr detail j).resetN = s.resetN := by simp only [failEntry]
@[simp] theorem failEntry_tier2Kept : (failEntry s kind unit whr detail j).tier2Kept = s.tier2Kept := by simp only [failEntry]
@[simp] theorem failEntry_straps : (failEntry s kind unit whr detail j).straps = s.straps := by simp only [failEntry]
@[simp] theorem failEntry_security : (failEntry s kind unit whr detail j).security = s.security := by simp only [failEntry]
@[simp] theorem failEntry_mailbox : (failEntry s kind unit whr detail j).mailbox = s.mailbox := by simp only [failEntry]
@[simp] theorem failEntry_owners : (failEntry s kind unit whr detail j).owners = s.owners := by simp only [failEntry]
@[simp] theorem failEntry_integrity : (failEntry s kind unit whr detail j).integrity = s.integrity := by simp only [failEntry]
@[simp] theorem failEntry_fabric : (failEntry s kind unit whr detail j).fabric = s.fabric := by simp only [failEntry]
@[simp] theorem failEntry_pm : (failEntry s kind unit whr detail j).pm = s.pm := by simp only [failEntry]
@[simp] theorem failEntry_failedCause : (failEntry s kind unit whr detail j).failedCause = s.failedCause := by simp only [failEntry]
@[simp] theorem failEntry_tripped : (failEntry s kind unit whr detail j).tripped = s.tripped := by simp only [failEntry]
@[simp] theorem failEntry_degraded : (failEntry s kind unit whr detail j).degraded = s.degraded := by simp only [failEntry]
@[simp] theorem failEntry_isolated : (failEntry s kind unit whr detail j).isolated = s.isolated := by simp only [failEntry]
@[simp] theorem failEntry_commits : (failEntry s kind unit whr detail j).commits = s.commits := by simp only [failEntry]
@[simp] theorem failEntry_rateWindow : (failEntry s kind unit whr detail j).rateWindow = s.rateWindow := by simp only [failEntry]
@[simp] theorem failEntry_generation : (failEntry s kind unit whr detail j).generation = s.generation := by simp only [failEntry]
@[simp] theorem failEntry_mixerInput : (failEntry s kind unit whr detail j).mixerInput = s.mixerInput := by simp only [failEntry]
@[simp] theorem failEntry_warnEntries : (failEntry s kind unit whr detail j).warnEntries = s.warnEntries := by simp only [failEntry]
@[simp] theorem failEntry_critEntries : (failEntry s kind unit whr detail j).critEntries = s.critEntries := by simp only [failEntry]
@[simp] theorem failEntry_throttleMicros : (failEntry s kind unit whr detail j).throttleMicros = s.throttleMicros := by simp only [failEntry]
@[simp] theorem failEntry_prepareMs : (failEntry s kind unit whr detail j).prepareMs = s.prepareMs := by simp only [failEntry]
@[simp] theorem failEntry_lastCommand : (failEntry s kind unit whr detail j).lastCommand = s.lastCommand := by simp only [failEntry]
@[simp] theorem failEntry_openWrites : (failEntry s kind unit whr detail j).openWrites = s.openWrites := by simp only [failEntry]
@[simp] theorem failEntry_snapRequest : (failEntry s kind unit whr detail j).snapRequest = s.snapRequest := by simp only [failEntry]
@[simp] theorem failEntry_snapTool : (failEntry s kind unit whr detail j).snapTool = s.snapTool := by simp only [failEntry]
@[simp] theorem failEntry_snapUcie : (failEntry s kind unit whr detail j).snapUcie = s.snapUcie := by simp only [failEntry]
@[simp] theorem failEntry_agentHeld : (failEntry s kind unit whr detail j).agentHeld = s.agentHeld := by simp only [failEntry]
@[simp] theorem failEntry_agentQueue : (failEntry s kind unit whr detail j).agentQueue = s.agentQueue := by simp only [failEntry]
@[simp] theorem failEntry_slots : (failEntry s kind unit whr detail j).slots = s.slots := by simp only [failEntry]
@[simp] theorem failEntry_rings : (failEntry s kind unit whr detail j).rings = s.rings := by simp only [failEntry]
@[simp] theorem failEntry_dies : (failEntry s kind unit whr detail j).dies = s.dies := by simp only [failEntry]
@[simp] theorem failEntry_engines : (failEntry s kind unit whr detail j).engines = s.engines := by simp only [failEntry]
@[simp] theorem failEntry_accs : (failEntry s kind unit whr detail j).accs = s.accs := by simp only [failEntry]
@[simp] theorem failEntry_homes : (failEntry s kind unit whr detail j).homes = s.homes := by simp only [failEntry]
@[simp] theorem failEntry_ports : (failEntry s kind unit whr detail j).ports = s.ports := by simp only [failEntry]
@[simp] theorem failEntry_chans : (failEntry s kind unit whr detail j).chans = s.chans := by simp only [failEntry]
@[simp] theorem failEntry_cvus : (failEntry s kind unit whr detail j).cvus = s.cvus := by simp only [failEntry]
@[simp] theorem failEntry_ctxs : (failEntry s kind unit whr detail j).ctxs = s.ctxs := by simp only [failEntry]
@[simp] theorem failEntry_tickets : (failEntry s kind unit whr detail j).tickets = s.tickets := by simp only [failEntry]
@[simp] theorem failEntry_lingering : (failEntry s kind unit whr detail j).lingering = s.lingering := by simp only [failEntry]
@[simp] theorem failEntry_repeats : (failEntry s kind unit whr detail j).repeats = s.repeats := by simp only [failEntry]
@[simp] theorem failEntry_queueEnds : (failEntry s kind unit whr detail j).queueEnds = s.queueEnds := by simp only [failEntry]
@[simp] theorem failEntry_flags : (failEntry s kind unit whr detail j).flags = s.flags := by simp only [failEntry]
@[simp] theorem failEntry_routes : (failEntry s kind unit whr detail j).routes = s.routes := by simp only [failEntry]
@[simp] theorem failEntry_members : (failEntry s kind unit whr detail j).members = s.members := by simp only [failEntry]
@[simp] theorem failEntry_variants : (failEntry s kind unit whr detail j).variants = s.variants := by simp only [failEntry]
@[simp] theorem failEntry_buffers : (failEntry s kind unit whr detail j).buffers = s.buffers := by simp only [failEntry]
@[simp] theorem failEntry_netHosts : (failEntry s kind unit whr detail j).netHosts = s.netHosts := by simp only [failEntry]
@[simp] theorem failEntry_queues : (failEntry s kind unit whr detail j).queues = s.queues := by simp only [failEntry]
@[simp] theorem failEntry_queuePos : (failEntry s kind unit whr detail j).queuePos = s.queuePos := by simp only [failEntry]
@[simp] theorem failEntry_mem : (failEntry s kind unit whr detail j).mem = s.mem := by simp only [failEntry]
@[simp] theorem failEntry_poison : (failEntry s kind unit whr detail j).poison = s.poison := by simp only [failEntry]
@[simp] theorem failEntry_writebacks : (failEntry s kind unit whr detail j).writebacks = s.writebacks := by simp only [failEntry]
@[simp] theorem failEntry_upsets : (failEntry s kind unit whr detail j).upsets = s.upsets := by simp only [failEntry]
@[simp] theorem failEntry_cleared : (failEntry s kind unit whr detail j).cleared = s.cleared := by simp only [failEntry]
@[simp] theorem failEntry_homeQueue : (failEntry s kind unit whr detail j).homeQueue = s.homeQueue := by simp only [failEntry]
@[simp] theorem failEntry_headQueue : (failEntry s kind unit whr detail j).headQueue = s.headQueue := by simp only [failEntry]
@[simp] theorem failEntry_fabReqs : (failEntry s kind unit whr detail j).fabReqs = s.fabReqs := by simp only [failEntry]
@[simp] theorem failEntry_waitReqs : (failEntry s kind unit whr detail j).waitReqs = s.waitReqs := by simp only [failEntry]
@[simp] theorem failEntry_readsPassed : (failEntry s kind unit whr detail j).readsPassed = s.readsPassed := by simp only [failEntry]
@[simp] theorem failEntry_outQueue : (failEntry s kind unit whr detail j).outQueue = s.outQueue := by simp only [failEntry]
@[simp] theorem failEntry_ownFlits : (failEntry s kind unit whr detail j).ownFlits = s.ownFlits := by simp only [failEntry]
@[simp] theorem failEntry_tileCounts : (failEntry s kind unit whr detail j).tileCounts = s.tileCounts := by simp only [failEntry]
@[simp] theorem failEntry_nextInst : (failEntry s kind unit whr detail j).nextInst = s.nextInst := by simp only [failEntry]
@[simp] theorem failEntry_nextIssue : (failEntry s kind unit whr detail j).nextIssue = s.nextIssue := by simp only [failEntry]
@[simp] theorem failEntry_nextEntry : (failEntry s kind unit whr detail j).nextEntry = s.nextEntry := by simp only [failEntry]
@[simp] theorem failEntry_freeReads : (failEntry s kind unit whr detail j).freeReads = s.freeReads := by simp only [failEntry]

end

/-! ## putEntries -/

section
variable (s : State) (d : Shelf) (q : Nat) (l : List Entry)

@[simp] theorem putEntries_pending : (putEntries s d q l).pending = s.pending := rfl
@[simp] theorem putEntries_sent : (putEntries s d q l).sent = s.sent := rfl
@[simp] theorem putEntries_power : (putEntries s d q l).power = s.power := rfl
@[simp] theorem putEntries_vinOk : (putEntries s d q l).vinOk = s.vinOk := rfl
@[simp] theorem putEntries_pwrOk : (putEntries s d q l).pwrOk = s.pwrOk := rfl
@[simp] theorem putEntries_resetN : (putEntries s d q l).resetN = s.resetN := rfl
@[simp] theorem putEntries_tier2Kept : (putEntries s d q l).tier2Kept = s.tier2Kept := rfl
@[simp] theorem putEntries_straps : (putEntries s d q l).straps = s.straps := rfl
@[simp] theorem putEntries_nv : (putEntries s d q l).nv = s.nv := rfl
@[simp] theorem putEntries_security : (putEntries s d q l).security = s.security := rfl
@[simp] theorem putEntries_mailbox : (putEntries s d q l).mailbox = s.mailbox := rfl
@[simp] theorem putEntries_field : (putEntries s d q l).field = s.field := rfl
@[simp] theorem putEntries_owners : (putEntries s d q l).owners = s.owners := rfl
@[simp] theorem putEntries_integrity : (putEntries s d q l).integrity = s.integrity := rfl
@[simp] theorem putEntries_fabric : (putEntries s d q l).fabric = s.fabric := rfl
@[simp] theorem putEntries_pm : (putEntries s d q l).pm = s.pm := rfl
@[simp] theorem putEntries_failedCause : (putEntries s d q l).failedCause = s.failedCause := rfl
@[simp] theorem putEntries_tripped : (putEntries s d q l).tripped = s.tripped := rfl
@[simp] theorem putEntries_degraded : (putEntries s d q l).degraded = s.degraded := rfl
@[simp] theorem putEntries_isolated : (putEntries s d q l).isolated = s.isolated := rfl
@[simp] theorem putEntries_commits : (putEntries s d q l).commits = s.commits := rfl
@[simp] theorem putEntries_rateWindow : (putEntries s d q l).rateWindow = s.rateWindow := rfl
@[simp] theorem putEntries_generation : (putEntries s d q l).generation = s.generation := rfl
@[simp] theorem putEntries_mixerInput : (putEntries s d q l).mixerInput = s.mixerInput := rfl
@[simp] theorem putEntries_warnEntries : (putEntries s d q l).warnEntries = s.warnEntries := rfl
@[simp] theorem putEntries_critEntries : (putEntries s d q l).critEntries = s.critEntries := rfl
@[simp] theorem putEntries_throttleMicros : (putEntries s d q l).throttleMicros = s.throttleMicros := rfl
@[simp] theorem putEntries_prepareMs : (putEntries s d q l).prepareMs = s.prepareMs := rfl
@[simp] theorem putEntries_lastCommand : (putEntries s d q l).lastCommand = s.lastCommand := rfl
@[simp] theorem putEntries_openWrites : (putEntries s d q l).openWrites = s.openWrites := rfl
@[simp] theorem putEntries_snapRequest : (putEntries s d q l).snapRequest = s.snapRequest := rfl
@[simp] theorem putEntries_snapTool : (putEntries s d q l).snapTool = s.snapTool := rfl
@[simp] theorem putEntries_snapUcie : (putEntries s d q l).snapUcie = s.snapUcie := rfl
@[simp] theorem putEntries_agentHeld : (putEntries s d q l).agentHeld = s.agentHeld := rfl
@[simp] theorem putEntries_agentQueue : (putEntries s d q l).agentQueue = s.agentQueue := rfl
@[simp] theorem putEntries_slots : (putEntries s d q l).slots = s.slots := rfl
@[simp] theorem putEntries_rings : (putEntries s d q l).rings = s.rings := rfl
@[simp] theorem putEntries_dies : (putEntries s d q l).dies = s.dies := rfl
@[simp] theorem putEntries_engines : (putEntries s d q l).engines = s.engines := rfl
@[simp] theorem putEntries_accs : (putEntries s d q l).accs = s.accs := rfl
@[simp] theorem putEntries_homes : (putEntries s d q l).homes = s.homes := rfl
@[simp] theorem putEntries_ports : (putEntries s d q l).ports = s.ports := rfl
@[simp] theorem putEntries_chans : (putEntries s d q l).chans = s.chans := rfl
@[simp] theorem putEntries_cvus : (putEntries s d q l).cvus = s.cvus := rfl
@[simp] theorem putEntries_ctxs : (putEntries s d q l).ctxs = s.ctxs := rfl
@[simp] theorem putEntries_tickets : (putEntries s d q l).tickets = s.tickets := rfl
@[simp] theorem putEntries_lingering : (putEntries s d q l).lingering = s.lingering := rfl
@[simp] theorem putEntries_repeats : (putEntries s d q l).repeats = s.repeats := rfl
@[simp] theorem putEntries_queueEnds : (putEntries s d q l).queueEnds = s.queueEnds := rfl
@[simp] theorem putEntries_flags : (putEntries s d q l).flags = s.flags := rfl
@[simp] theorem putEntries_routes : (putEntries s d q l).routes = s.routes := rfl
@[simp] theorem putEntries_members : (putEntries s d q l).members = s.members := rfl
@[simp] theorem putEntries_variants : (putEntries s d q l).variants = s.variants := rfl
@[simp] theorem putEntries_buffers : (putEntries s d q l).buffers = s.buffers := rfl
@[simp] theorem putEntries_netHosts : (putEntries s d q l).netHosts = s.netHosts := rfl
@[simp] theorem putEntries_queuePos : (putEntries s d q l).queuePos = s.queuePos := rfl
@[simp] theorem putEntries_mem : (putEntries s d q l).mem = s.mem := rfl
@[simp] theorem putEntries_poison : (putEntries s d q l).poison = s.poison := rfl
@[simp] theorem putEntries_writebacks : (putEntries s d q l).writebacks = s.writebacks := rfl
@[simp] theorem putEntries_upsets : (putEntries s d q l).upsets = s.upsets := rfl
@[simp] theorem putEntries_cleared : (putEntries s d q l).cleared = s.cleared := rfl
@[simp] theorem putEntries_homeQueue : (putEntries s d q l).homeQueue = s.homeQueue := rfl
@[simp] theorem putEntries_headQueue : (putEntries s d q l).headQueue = s.headQueue := rfl
@[simp] theorem putEntries_fabReqs : (putEntries s d q l).fabReqs = s.fabReqs := rfl
@[simp] theorem putEntries_waitReqs : (putEntries s d q l).waitReqs = s.waitReqs := rfl
@[simp] theorem putEntries_readsPassed : (putEntries s d q l).readsPassed = s.readsPassed := rfl
@[simp] theorem putEntries_outQueue : (putEntries s d q l).outQueue = s.outQueue := rfl
@[simp] theorem putEntries_ownFlits : (putEntries s d q l).ownFlits = s.ownFlits := rfl
@[simp] theorem putEntries_tileCounts : (putEntries s d q l).tileCounts = s.tileCounts := rfl
@[simp] theorem putEntries_nextInst : (putEntries s d q l).nextInst = s.nextInst := rfl
@[simp] theorem putEntries_nextIssue : (putEntries s d q l).nextIssue = s.nextIssue := rfl
@[simp] theorem putEntries_nextEntry : (putEntries s d q l).nextEntry = s.nextEntry := rfl
@[simp] theorem putEntries_freeReads : (putEntries s d q l).freeReads = s.freeReads := rfl

end

/-! ## modTk -/

section
variable (s : State) (t : TicketId) (f : Tk → Tk)

@[simp] theorem modTk_pending : (modTk s t f).pending = s.pending := by unfold modTk; split <;> rfl
@[simp] theorem modTk_sent : (modTk s t f).sent = s.sent := by unfold modTk; split <;> rfl
@[simp] theorem modTk_power : (modTk s t f).power = s.power := by unfold modTk; split <;> rfl
@[simp] theorem modTk_vinOk : (modTk s t f).vinOk = s.vinOk := by unfold modTk; split <;> rfl
@[simp] theorem modTk_pwrOk : (modTk s t f).pwrOk = s.pwrOk := by unfold modTk; split <;> rfl
@[simp] theorem modTk_resetN : (modTk s t f).resetN = s.resetN := by unfold modTk; split <;> rfl
@[simp] theorem modTk_tier2Kept : (modTk s t f).tier2Kept = s.tier2Kept := by unfold modTk; split <;> rfl
@[simp] theorem modTk_straps : (modTk s t f).straps = s.straps := by unfold modTk; split <;> rfl
@[simp] theorem modTk_nv : (modTk s t f).nv = s.nv := by unfold modTk; split <;> rfl
@[simp] theorem modTk_security : (modTk s t f).security = s.security := by unfold modTk; split <;> rfl
@[simp] theorem modTk_mailbox : (modTk s t f).mailbox = s.mailbox := by unfold modTk; split <;> rfl
@[simp] theorem modTk_field : (modTk s t f).field = s.field := by unfold modTk; split <;> rfl
@[simp] theorem modTk_owners : (modTk s t f).owners = s.owners := by unfold modTk; split <;> rfl
@[simp] theorem modTk_integrity : (modTk s t f).integrity = s.integrity := by unfold modTk; split <;> rfl
@[simp] theorem modTk_fabric : (modTk s t f).fabric = s.fabric := by unfold modTk; split <;> rfl
@[simp] theorem modTk_pm : (modTk s t f).pm = s.pm := by unfold modTk; split <;> rfl
@[simp] theorem modTk_failedCause : (modTk s t f).failedCause = s.failedCause := by unfold modTk; split <;> rfl
@[simp] theorem modTk_tripped : (modTk s t f).tripped = s.tripped := by unfold modTk; split <;> rfl
@[simp] theorem modTk_degraded : (modTk s t f).degraded = s.degraded := by unfold modTk; split <;> rfl
@[simp] theorem modTk_isolated : (modTk s t f).isolated = s.isolated := by unfold modTk; split <;> rfl
@[simp] theorem modTk_commits : (modTk s t f).commits = s.commits := by unfold modTk; split <;> rfl
@[simp] theorem modTk_rateWindow : (modTk s t f).rateWindow = s.rateWindow := by unfold modTk; split <;> rfl
@[simp] theorem modTk_generation : (modTk s t f).generation = s.generation := by unfold modTk; split <;> rfl
@[simp] theorem modTk_mixerInput : (modTk s t f).mixerInput = s.mixerInput := by unfold modTk; split <;> rfl
@[simp] theorem modTk_warnEntries : (modTk s t f).warnEntries = s.warnEntries := by unfold modTk; split <;> rfl
@[simp] theorem modTk_critEntries : (modTk s t f).critEntries = s.critEntries := by unfold modTk; split <;> rfl
@[simp] theorem modTk_throttleMicros : (modTk s t f).throttleMicros = s.throttleMicros := by unfold modTk; split <;> rfl
@[simp] theorem modTk_prepareMs : (modTk s t f).prepareMs = s.prepareMs := by unfold modTk; split <;> rfl
@[simp] theorem modTk_lastCommand : (modTk s t f).lastCommand = s.lastCommand := by unfold modTk; split <;> rfl
@[simp] theorem modTk_openWrites : (modTk s t f).openWrites = s.openWrites := by unfold modTk; split <;> rfl
@[simp] theorem modTk_snapRequest : (modTk s t f).snapRequest = s.snapRequest := by unfold modTk; split <;> rfl
@[simp] theorem modTk_snapTool : (modTk s t f).snapTool = s.snapTool := by unfold modTk; split <;> rfl
@[simp] theorem modTk_snapUcie : (modTk s t f).snapUcie = s.snapUcie := by unfold modTk; split <;> rfl
@[simp] theorem modTk_agentHeld : (modTk s t f).agentHeld = s.agentHeld := by unfold modTk; split <;> rfl
@[simp] theorem modTk_agentQueue : (modTk s t f).agentQueue = s.agentQueue := by unfold modTk; split <;> rfl
@[simp] theorem modTk_slots : (modTk s t f).slots = s.slots := by unfold modTk; split <;> rfl
@[simp] theorem modTk_rings : (modTk s t f).rings = s.rings := by unfold modTk; split <;> rfl
@[simp] theorem modTk_dies : (modTk s t f).dies = s.dies := by unfold modTk; split <;> rfl
@[simp] theorem modTk_engines : (modTk s t f).engines = s.engines := by unfold modTk; split <;> rfl
@[simp] theorem modTk_accs : (modTk s t f).accs = s.accs := by unfold modTk; split <;> rfl
@[simp] theorem modTk_homes : (modTk s t f).homes = s.homes := by unfold modTk; split <;> rfl
@[simp] theorem modTk_ports : (modTk s t f).ports = s.ports := by unfold modTk; split <;> rfl
@[simp] theorem modTk_chans : (modTk s t f).chans = s.chans := by unfold modTk; split <;> rfl
@[simp] theorem modTk_cvus : (modTk s t f).cvus = s.cvus := by unfold modTk; split <;> rfl
@[simp] theorem modTk_ctxs : (modTk s t f).ctxs = s.ctxs := by unfold modTk; split <;> rfl
@[simp] theorem modTk_lingering : (modTk s t f).lingering = s.lingering := by unfold modTk; split <;> rfl
@[simp] theorem modTk_repeats : (modTk s t f).repeats = s.repeats := by unfold modTk; split <;> rfl
@[simp] theorem modTk_queueEnds : (modTk s t f).queueEnds = s.queueEnds := by unfold modTk; split <;> rfl
@[simp] theorem modTk_flags : (modTk s t f).flags = s.flags := by unfold modTk; split <;> rfl
@[simp] theorem modTk_routes : (modTk s t f).routes = s.routes := by unfold modTk; split <;> rfl
@[simp] theorem modTk_members : (modTk s t f).members = s.members := by unfold modTk; split <;> rfl
@[simp] theorem modTk_variants : (modTk s t f).variants = s.variants := by unfold modTk; split <;> rfl
@[simp] theorem modTk_buffers : (modTk s t f).buffers = s.buffers := by unfold modTk; split <;> rfl
@[simp] theorem modTk_netHosts : (modTk s t f).netHosts = s.netHosts := by unfold modTk; split <;> rfl
@[simp] theorem modTk_queues : (modTk s t f).queues = s.queues := by unfold modTk; split <;> rfl
@[simp] theorem modTk_queuePos : (modTk s t f).queuePos = s.queuePos := by unfold modTk; split <;> rfl
@[simp] theorem modTk_mem : (modTk s t f).mem = s.mem := by unfold modTk; split <;> rfl
@[simp] theorem modTk_poison : (modTk s t f).poison = s.poison := by unfold modTk; split <;> rfl
@[simp] theorem modTk_writebacks : (modTk s t f).writebacks = s.writebacks := by unfold modTk; split <;> rfl
@[simp] theorem modTk_upsets : (modTk s t f).upsets = s.upsets := by unfold modTk; split <;> rfl
@[simp] theorem modTk_cleared : (modTk s t f).cleared = s.cleared := by unfold modTk; split <;> rfl
@[simp] theorem modTk_homeQueue : (modTk s t f).homeQueue = s.homeQueue := by unfold modTk; split <;> rfl
@[simp] theorem modTk_headQueue : (modTk s t f).headQueue = s.headQueue := by unfold modTk; split <;> rfl
@[simp] theorem modTk_fabReqs : (modTk s t f).fabReqs = s.fabReqs := by unfold modTk; split <;> rfl
@[simp] theorem modTk_waitReqs : (modTk s t f).waitReqs = s.waitReqs := by unfold modTk; split <;> rfl
@[simp] theorem modTk_readsPassed : (modTk s t f).readsPassed = s.readsPassed := by unfold modTk; split <;> rfl
@[simp] theorem modTk_outQueue : (modTk s t f).outQueue = s.outQueue := by unfold modTk; split <;> rfl
@[simp] theorem modTk_ownFlits : (modTk s t f).ownFlits = s.ownFlits := by unfold modTk; split <;> rfl
@[simp] theorem modTk_tileCounts : (modTk s t f).tileCounts = s.tileCounts := by unfold modTk; split <;> rfl
@[simp] theorem modTk_nextInst : (modTk s t f).nextInst = s.nextInst := by unfold modTk; split <;> rfl
@[simp] theorem modTk_nextIssue : (modTk s t f).nextIssue = s.nextIssue := by unfold modTk; split <;> rfl
@[simp] theorem modTk_nextEntry : (modTk s t f).nextEntry = s.nextEntry := by unfold modTk; split <;> rfl
@[simp] theorem modTk_freeReads : (modTk s t f).freeReads = s.freeReads := by unfold modTk; split <;> rfl

end

/-! ## settle -/

section
variable (s t : State)

@[simp] theorem settle_pending : (settle s t).pending = t.pending := by unfold settle; split <;> rfl
@[simp] theorem settle_sent : (settle s t).sent = t.sent := by unfold settle; split <;> rfl
@[simp] theorem settle_power : (settle s t).power = t.power := by unfold settle; split <;> rfl
@[simp] theorem settle_vinOk : (settle s t).vinOk = t.vinOk := by unfold settle; split <;> rfl
@[simp] theorem settle_pwrOk : (settle s t).pwrOk = t.pwrOk := by unfold settle; split <;> rfl
@[simp] theorem settle_resetN : (settle s t).resetN = t.resetN := by unfold settle; split <;> rfl
@[simp] theorem settle_tier2Kept : (settle s t).tier2Kept = t.tier2Kept := by unfold settle; split <;> rfl
@[simp] theorem settle_straps : (settle s t).straps = t.straps := by unfold settle; split <;> rfl
@[simp] theorem settle_nv : (settle s t).nv = t.nv := by unfold settle; split <;> rfl
@[simp] theorem settle_security : (settle s t).security = t.security := by unfold settle; split <;> rfl
@[simp] theorem settle_mailbox : (settle s t).mailbox = t.mailbox := by unfold settle; split <;> rfl
@[simp] theorem settle_owners : (settle s t).owners = t.owners := by unfold settle; split <;> rfl
@[simp] theorem settle_integrity : (settle s t).integrity = t.integrity := by unfold settle; split <;> rfl
@[simp] theorem settle_fabric : (settle s t).fabric = t.fabric := by unfold settle; split <;> rfl
@[simp] theorem settle_failedCause : (settle s t).failedCause = t.failedCause := by unfold settle; split <;> rfl
@[simp] theorem settle_isolated : (settle s t).isolated = t.isolated := by unfold settle; split <;> rfl
@[simp] theorem settle_commits : (settle s t).commits = t.commits := by unfold settle; split <;> rfl
@[simp] theorem settle_rateWindow : (settle s t).rateWindow = t.rateWindow := by unfold settle; split <;> rfl
@[simp] theorem settle_mixerInput : (settle s t).mixerInput = t.mixerInput := by unfold settle; split <;> rfl
@[simp] theorem settle_warnEntries : (settle s t).warnEntries = t.warnEntries := by unfold settle; split <;> rfl
@[simp] theorem settle_critEntries : (settle s t).critEntries = t.critEntries := by unfold settle; split <;> rfl
@[simp] theorem settle_throttleMicros : (settle s t).throttleMicros = t.throttleMicros := by unfold settle; split <;> rfl
@[simp] theorem settle_prepareMs : (settle s t).prepareMs = t.prepareMs := by unfold settle; split <;> rfl
@[simp] theorem settle_lastCommand : (settle s t).lastCommand = t.lastCommand := by unfold settle; split <;> rfl
@[simp] theorem settle_openWrites : (settle s t).openWrites = t.openWrites := by unfold settle; split <;> rfl
@[simp] theorem settle_snapRequest : (settle s t).snapRequest = t.snapRequest := by unfold settle; split <;> rfl
@[simp] theorem settle_snapTool : (settle s t).snapTool = t.snapTool := by unfold settle; split <;> rfl
@[simp] theorem settle_snapUcie : (settle s t).snapUcie = t.snapUcie := by unfold settle; split <;> rfl
@[simp] theorem settle_agentHeld : (settle s t).agentHeld = t.agentHeld := by unfold settle; split <;> rfl
@[simp] theorem settle_agentQueue : (settle s t).agentQueue = t.agentQueue := by unfold settle; split <;> rfl
@[simp] theorem settle_rings : (settle s t).rings = t.rings := by unfold settle; split <;> rfl
@[simp] theorem settle_dies : (settle s t).dies = t.dies := by unfold settle; split <;> rfl
@[simp] theorem settle_engines : (settle s t).engines = t.engines := by unfold settle; split <;> rfl
@[simp] theorem settle_accs : (settle s t).accs = t.accs := by unfold settle; split <;> rfl
@[simp] theorem settle_homes : (settle s t).homes = t.homes := by unfold settle; split <;> rfl
@[simp] theorem settle_ports : (settle s t).ports = t.ports := by unfold settle; split <;> rfl
@[simp] theorem settle_chans : (settle s t).chans = t.chans := by unfold settle; split <;> rfl
@[simp] theorem settle_cvus : (settle s t).cvus = t.cvus := by unfold settle; split <;> rfl
@[simp] theorem settle_ctxs : (settle s t).ctxs = t.ctxs := by unfold settle; split <;> rfl
@[simp] theorem settle_tickets : (settle s t).tickets = t.tickets := by unfold settle; split <;> rfl
@[simp] theorem settle_lingering : (settle s t).lingering = t.lingering := by unfold settle; split <;> rfl
@[simp] theorem settle_repeats : (settle s t).repeats = t.repeats := by unfold settle; split <;> rfl
@[simp] theorem settle_queueEnds : (settle s t).queueEnds = t.queueEnds := by unfold settle; split <;> rfl
@[simp] theorem settle_flags : (settle s t).flags = t.flags := by unfold settle; split <;> rfl
@[simp] theorem settle_routes : (settle s t).routes = t.routes := by unfold settle; split <;> rfl
@[simp] theorem settle_members : (settle s t).members = t.members := by unfold settle; split <;> rfl
@[simp] theorem settle_variants : (settle s t).variants = t.variants := by unfold settle; split <;> rfl
@[simp] theorem settle_buffers : (settle s t).buffers = t.buffers := by unfold settle; split <;> rfl
@[simp] theorem settle_netHosts : (settle s t).netHosts = t.netHosts := by unfold settle; split <;> rfl
@[simp] theorem settle_queues : (settle s t).queues = t.queues := by unfold settle; split <;> rfl
@[simp] theorem settle_queuePos : (settle s t).queuePos = t.queuePos := by unfold settle; split <;> rfl
@[simp] theorem settle_mem : (settle s t).mem = t.mem := by unfold settle; split <;> rfl
@[simp] theorem settle_poison : (settle s t).poison = t.poison := by unfold settle; split <;> rfl
@[simp] theorem settle_writebacks : (settle s t).writebacks = t.writebacks := by unfold settle; split <;> rfl
@[simp] theorem settle_upsets : (settle s t).upsets = t.upsets := by unfold settle; split <;> rfl
@[simp] theorem settle_cleared : (settle s t).cleared = t.cleared := by unfold settle; split <;> rfl
@[simp] theorem settle_homeQueue : (settle s t).homeQueue = t.homeQueue := by unfold settle; split <;> rfl
@[simp] theorem settle_headQueue : (settle s t).headQueue = t.headQueue := by unfold settle; split <;> rfl
@[simp] theorem settle_fabReqs : (settle s t).fabReqs = t.fabReqs := by unfold settle; split <;> rfl
@[simp] theorem settle_waitReqs : (settle s t).waitReqs = t.waitReqs := by unfold settle; split <;> rfl
@[simp] theorem settle_readsPassed : (settle s t).readsPassed = t.readsPassed := by unfold settle; split <;> rfl
@[simp] theorem settle_outQueue : (settle s t).outQueue = t.outQueue := by unfold settle; split <;> rfl
@[simp] theorem settle_ownFlits : (settle s t).ownFlits = t.ownFlits := by unfold settle; split <;> rfl
@[simp] theorem settle_tileCounts : (settle s t).tileCounts = t.tileCounts := by unfold settle; split <;> rfl
@[simp] theorem settle_nextInst : (settle s t).nextInst = t.nextInst := by unfold settle; split <;> rfl
@[simp] theorem settle_nextIssue : (settle s t).nextIssue = t.nextIssue := by unfold settle; split <;> rfl
@[simp] theorem settle_nextEntry : (settle s t).nextEntry = t.nextEntry := by unfold settle; split <;> rfl
@[simp] theorem settle_freeReads : (settle s t).freeReads = t.freeReads := by unfold settle; split <;> rfl

end

end Sys2Proof.Machine
end

