-- ==== Sys2Proof/Laws/Begin.lean ====
section
/-! SUPPORT. The beginning of a descriptor on its unit: its three outcomes, said once for every family (R141, R145, R146). -/

namespace Sys2Proof.Machine

variable {s : State} {t : TicketId} {k : Tk} {mine : Desc → Bool} {ready valid : State → Tk → Bool}

/-- A descriptor whose turn it is, past its holds, either begins or is refused. -/
theorem beginTk_turn (h : NextOnUnit s t k) (hm : mine k.desc = true) (hr : ready s k = true) :
    beginTk s t mine ready valid =
      if (dPchk k.desc && (startedTk s k).profileId != dProfile k.desc) = true then .ended (refuse (started s k) t)
      else if (!variantOk (started s k) (startedTk s k) || !valid (started s k) (startedTk s k)) = true then .ended (refuse (started s k) t)
      else .ok (started s k) (startedTk s k) := by
  obtain ⟨hg, _, hp, hph, hu, hi, hc⟩ := h
  have hd : (startedTk s k).desc = k.desc := rfl
  simp only [beginTk, unitWrong, hg, hp, hph, hm, hu, hi, hr, hc, started, startedTk]
  simp [takeStart]

/-- It begins. -/
theorem beginTk_ok (h : Begins s t k) (hm : mine k.desc = true) (hr : ready s k = true)
    (hv : valid (started s k) (startedTk s k) = true) : beginTk s t mine ready valid = .ok (started s k) (startedTk s k) := by
  obtain ⟨hn, ⟨hp, hvar⟩, _⟩ := h
  rw [beginTk_turn hn hm hr]
  have : (dPchk k.desc && (startedTk s k).profileId != dProfile k.desc) = false := by
    cases hc : dPchk k.desc with
    | false => rfl
    | true => simp [hp hc]
  simp [this, hvar, hv]

/-- It is refused: the profile or the variant context is not as its fields ask, or its family does not admit it. -/
theorem beginTk_refused (h : NextOnUnit s t k) (hm : mine k.desc = true) (hr : ready s k = true)
    (hv : ¬ StartsLegal s k ∨ valid (started s k) (startedTk s k) = false) :
    beginTk s t mine ready valid = .ended (refuse (started s k) t) := by
  rw [beginTk_turn h hm hr]
  by_cases hp : (dPchk k.desc && (startedTk s k).profileId != dProfile k.desc) = true
  · rw [if_pos hp]
  · rw [if_neg hp, if_pos]
    cases hvar : variantOk (started s k) (startedTk s k) with
    | false => rfl
    | true =>
      cases hv with
      | inr hv => simp [hv]
      | inl hn =>
        exfalso
        refine hn ⟨fun hc => ?_, hvar⟩
        simpa [hc] using hp

/-- It waits: there is no such descriptor, it is another command's, its turn has not come, or its family holds it back. -/
theorem beginTk_wait (h : ∀ k, getTk s t = some k → s.power = .running → k.phase = .issued → mine k.desc = true → unitTurn s k = true →
    unitIsolated s (tkUnit s k) = false → ready s k = false) : beginTk s t mine ready valid = .wait := by
  unfold beginTk
  cases hg : getTk s t with
  | none => rfl
  | some k =>
    simp only
    split
    · rfl
    · rename_i hc
      exfalso
      simp only [Bool.or_eq_true, not_or, bne_iff_ne, ne_eq, Bool.not_eq_true', Bool.not_eq_false, Decidable.not_not, Bool.not_eq_true] at hc
      obtain ⟨⟨⟨⟨⟨h1, h2⟩, h3⟩, h4⟩, h5⟩, h6⟩ := hc
      exact absurd (h k hg h1 h2 h3 h4 h5) (by simp [h6])

end Sys2Proof.Machine
end

