-- ==== Sys2Proof/Laws/Bytes.lean ====
section
/-! SUPPORT. Little-endian byte strings and the numbers they spell (R3). -/

namespace Sys2Proof.Machine

theorem leNat_leBytes : ∀ n x : Nat, leNat (leBytes n x) = x % 256 ^ n
  | 0, x => by simp [leBytes, leNat, Nat.mod_one]
  | n + 1, x => by
    have h : 256 ^ (n + 1) = 256 * 256 ^ n := Nat.pow_succ'
    simp only [leBytes, leNat, leNat_leBytes n, BitVec.toNat_ofNat, h]
    exact (Nat.mod_mul (x := x) (a := 256) (b := 256 ^ n)).symm

theorem leBytes_length : ∀ n x : Nat, (leBytes n x).length = n
  | 0, _ => rfl
  | n + 1, x => by simp [leBytes, leBytes_length n]

/-- The number that a word's bytes spell is the word. -/
theorem leNat_wordBytes {w : Nat} (n : Nat) (x : BitVec w) (h : 2 ^ w ≤ 256 ^ n) : leNat (wordBytes n x) = x.toNat := by
  rw [wordBytes, leNat_leBytes]
  exact Nat.mod_eq_of_lt (Nat.lt_of_lt_of_le x.isLt h)

@[simp] theorem wordBytes_length {w : Nat} (n : Nat) (x : BitVec w) : (wordBytes n x).length = n := leBytes_length n x.toNat

@[simp] theorem leNat_word16 (x : BitVec 16) : leNat (wordBytes 2 x) = x.toNat := leNat_wordBytes 2 x (by decide)
@[simp] theorem leNat_word32 (x : BitVec 32) : leNat (wordBytes 4 x) = x.toNat := leNat_wordBytes 4 x (by decide)
@[simp] theorem leNat_word64 (x : BitVec 64) : leNat (wordBytes 8 x) = x.toNat := leNat_wordBytes 8 x (by decide)

@[simp] theorem leNat_one (b : Byte) : leNat [b] = b.toNat := by simp [leNat]

end Sys2Proof.Machine
end

