-- ==== Sys2Proof/Laws/Sparse.lean ====
section
/-! SUPPORT. Sparse tables: reading after a write, an erasure, a filter or a range write, and the one form that each keeps. -/

namespace Sys2Proof.Machine

variable {α : Type} [DecidableEq α] (d : α)

/-- Every key of the table is at least `lo`. -/
def keysFrom (lo : Nat) (l : Sparse α) : Prop := ∀ p ∈ l, lo ≤ p.1

theorem sparseWfFrom_cons (lo k : Nat) (v : α) (l : Sparse α) :
    sparseWfFrom d lo ((k, v) :: l) = true ↔ lo ≤ k ∧ v ≠ d ∧ sparseWfFrom d (k + 1) l = true := by
  simp [sparseWfFrom, and_assoc]

theorem sparseWfFrom_mono {lo hi : Nat} (h : lo ≤ hi) : ∀ {l : Sparse α}, sparseWfFrom d hi l = true → sparseWfFrom d lo l = true
  | [], _ => rfl
  | (k, v) :: l, w => by
    rw [sparseWfFrom_cons] at w ⊢
    exact ⟨by omega, w.2.1, w.2.2⟩

theorem sparseGet_below : ∀ {l : Sparse α} {lo k : Nat}, sparseWfFrom d lo l = true → k < lo → sparseGet d l k = d
  | [], _, _, _, _ => rfl
  | (j, v) :: l, lo, k, w, h => by
    rw [sparseWfFrom_cons] at w
    have : j ≠ k := by omega
    simp only [sparseGet, if_neg this]
    exact sparseGet_below (l := l) w.2.2 (by omega)

theorem sparseErase_wfFrom : ∀ {l : Sparse α} {lo : Nat} (k : Nat), sparseWfFrom d lo l = true → sparseWfFrom d lo (sparseErase l k) = true
  | [], _, _, _ => rfl
  | (j, v) :: l, lo, k, w => by
    rw [sparseWfFrom_cons] at w
    unfold sparseErase
    split
    · exact sparseWfFrom_mono d (by omega) w.2.2
    · rw [sparseWfFrom_cons]
      exact ⟨w.1, w.2.1, sparseErase_wfFrom k w.2.2⟩

theorem sparseInsert_wfFrom : ∀ {l : Sparse α} {lo : Nat} (k : Nat) {v : α}, v ≠ d → lo ≤ k → sparseWfFrom d lo l = true →
    sparseWfFrom d lo (sparseInsert l k v) = true
  | [], lo, k, v, hv, hk, _ => by simp [sparseInsert, sparseWfFrom, hv, hk]
  | (j, u) :: l, lo, k, v, hv, hk, w => by
    rw [sparseWfFrom_cons] at w
    unfold sparseInsert
    split
    · rw [sparseWfFrom_cons, sparseWfFrom_cons]
      exact ⟨hk, hv, by omega, w.2.1, w.2.2⟩
    · split
      · rename_i h
        rw [sparseWfFrom_cons]
        exact ⟨hk, hv, by rw [h]; exact w.2.2⟩
      · rw [sparseWfFrom_cons]
        exact ⟨w.1, w.2.1, sparseInsert_wfFrom k hv (by omega) w.2.2⟩

/-- A write keeps the one form. -/
theorem sparseSet_wf {l : Sparse α} (k : Nat) (v : α) (w : sparseWf d l = true) : sparseWf d (sparseSet d l k v) = true := by
  unfold sparseSet
  split
  · exact sparseErase_wfFrom d k w
  · exact sparseInsert_wfFrom d k ‹_› (Nat.zero_le k) w

/-- A filter by keys and values keeps the one form. -/
theorem sparseFilter_wfFrom (p : Nat × α → Bool) : ∀ {l : Sparse α} {lo : Nat}, sparseWfFrom d lo l = true →
    sparseWfFrom d lo (l.filter p) = true
  | [], _, _ => rfl
  | (j, v) :: l, lo, w => by
    rw [sparseWfFrom_cons] at w
    rw [List.filter_cons]
    split
    · rw [sparseWfFrom_cons]
      exact ⟨w.1, w.2.1, sparseFilter_wfFrom p w.2.2⟩
    · exact sparseWfFrom_mono d (by omega) (sparseFilter_wfFrom p w.2.2)

omit [DecidableEq α] in
theorem sparseGet_erase_ne : ∀ (l : Sparse α) {j k : Nat}, j ≠ k → sparseGet d (sparseErase l k) j = sparseGet d l j
  | [], _, _, _ => rfl
  | (i, v) :: l, j, k, h => by
    unfold sparseErase
    split
    · rename_i hi
      have : i ≠ j := by omega
      simp [sparseGet, this]
    · simp only [sparseGet, sparseGet_erase_ne l h]

omit [DecidableEq α] in
theorem sparseGet_insert_same : ∀ (l : Sparse α) (k : Nat) (v : α), sparseGet d (sparseInsert l k v) k = v
  | [], k, v => by simp [sparseInsert, sparseGet]
  | (i, u) :: l, k, v => by
    unfold sparseInsert
    split
    · simp [sparseGet]
    · split
      · simp [sparseGet]
      · have : i ≠ k := by omega
        simp [sparseGet, this, sparseGet_insert_same l k v]

omit [DecidableEq α] in
theorem sparseGet_insert_ne : ∀ (l : Sparse α) {j k : Nat} (v : α), j ≠ k → sparseGet d (sparseInsert l k v) j = sparseGet d l j
  | [], j, k, v, h => by
    have : k ≠ j := fun e => h e.symm
    simp [sparseInsert, sparseGet, this]
  | (i, u) :: l, j, k, v, h => by
    have hk : k ≠ j := fun e => h e.symm
    unfold sparseInsert
    split
    · simp [sparseGet, hk]
    · split
      · rename_i hi
        have : i ≠ j := by omega
        simp [sparseGet, hk, this]
      · simp only [sparseGet, sparseGet_insert_ne l v h]

/-- A write leaves every other key. -/
theorem sparseGet_set_ne (l : Sparse α) {j k : Nat} (v : α) (h : j ≠ k) : sparseGet d (sparseSet d l k v) j = sparseGet d l j := by
  unfold sparseSet
  split
  · exact sparseGet_erase_ne d l h
  · exact sparseGet_insert_ne d l v h

/-- A write of another value than the default is read back, whatever the form of the table. -/
theorem sparseGet_set_same_of_ne (l : Sparse α) (k : Nat) {v : α} (h : v ≠ d) : sparseGet d (sparseSet d l k v) k = v := by
  simp [sparseSet, h, sparseGet_insert_same]

theorem sparseGet_erase_same : ∀ {l : Sparse α} {lo : Nat} (k : Nat), sparseWfFrom d lo l = true → sparseGet d (sparseErase l k) k = d
  | [], _, _, _ => rfl
  | (i, v) :: l, lo, k, w => by
    rw [sparseWfFrom_cons] at w
    unfold sparseErase
    split
    · rename_i h
      exact sparseGet_below d w.2.2 (by omega)
    · rename_i h
      have : i ≠ k := h
      simp only [sparseGet, if_neg this]
      exact sparseGet_erase_same k w.2.2

/-- A write is read back. -/
theorem sparseGet_set_same {l : Sparse α} (k : Nat) (v : α) (w : sparseWf d l = true) : sparseGet d (sparseSet d l k v) k = v := by
  by_cases h : v = d
  · simp only [sparseSet, h, if_pos]
    exact sparseGet_erase_same d k w
  · exact sparseGet_set_same_of_ne d l k h

omit [DecidableEq α] in
/-- A filter by key leaves what it keeps, and takes the rest to the default. -/
theorem sparseGet_filter (f : Nat → Bool) : ∀ (l : Sparse α) (k : Nat),
    sparseGet d (l.filter fun p => f p.1) k = if f k then sparseGet d l k else d
  | [], k => by simp [sparseGet]
  | (i, v) :: l, k => by
    rw [List.filter_cons]
    by_cases h : i = k
    · subst h
      by_cases hf : f i
      · simp [hf, sparseGet]
      · simp [hf, sparseGet_filter f l i]
    · by_cases hf : f i <;> simp [hf, sparseGet, h, sparseGet_filter f l k]

omit [DecidableEq α] in
theorem sparseGet_append (a b : Sparse α) (k : Nat) (h : ∀ p ∈ a, p.1 ≠ k) : sparseGet d (a ++ b) k = sparseGet d b k := by
  induction a with
  | nil => rfl
  | cons p a ih =>
    have hp : p.1 ≠ k := h p (by simp)
    obtain ⟨i, v⟩ := p
    simp only [List.cons_append, sparseGet, if_neg hp]
    exact ih fun q hq => h q (by simp [hq])

omit [DecidableEq α] in
theorem sparseGet_append_right (a b : Sparse α) (k : Nat) (h : ∀ p ∈ b, p.1 ≠ k) : sparseGet d (a ++ b) k = sparseGet d a k := by
  induction a with
  | nil =>
    induction b with
    | nil => rfl
    | cons p b ih =>
      obtain ⟨i, v⟩ := p
      have hp : i ≠ k := h (i, v) (by simp)
      simp only [List.nil_append, sparseGet, if_neg hp]
      exact ih fun q hq => h q (by simp [hq])
  | cons p a ih =>
    obtain ⟨i, v⟩ := p
    simp only [List.cons_append, sparseGet, ih]

theorem rangeEntries_keys : ∀ (vs : List α) (a : Nat), ∀ p ∈ rangeEntries d a vs, a ≤ p.1 ∧ p.1 < a + vs.length
  | [], _, p, h => by simp [rangeEntries] at h
  | v :: vs, a, p, h => by
    unfold rangeEntries at h
    split at h
    · have := rangeEntries_keys vs (a + 1) p h
      simp only [List.length_cons]; omega
    · simp only [List.mem_cons] at h
      rcases h with h | h
      · subst h; simp only [List.length_cons]; omega
      · have := rangeEntries_keys vs (a + 1) p h
        simp only [List.length_cons]; omega

theorem sparseGet_rangeEntries : ∀ (vs : List α) (a i : Nat), i < vs.length → sparseGet d (rangeEntries d a vs) (a + i) = vs.getD i d
  | [], _, _, h => by simp at h
  | v :: vs, a, 0, _ => by
    unfold rangeEntries
    split
    · rename_i hv
      have : sparseGet d (rangeEntries d (a + 1) vs) a = d := by
        have := sparseGet_append_right d [] (rangeEntries d (a + 1) vs) a fun p hp => by
          have := rangeEntries_keys d vs (a + 1) p hp; omega
        simpa [sparseGet] using this
      simp [this, hv]
    · simp [sparseGet]
  | v :: vs, a, i + 1, h => by
    have hi : i < vs.length := by simpa using h
    have ih := sparseGet_rangeEntries vs (a + 1) i hi
    have e : a + (i + 1) = a + 1 + i := by omega
    unfold rangeEntries
    split
    · simp only [e, ih, List.getD_cons_succ]
    · have : a ≠ a + 1 + i := by omega
      simp only [e, sparseGet, if_neg this, ih, List.getD_cons_succ]

/-- A range write is read back on its range and leaves every other key. -/
theorem sparseGet_replaceRange (l : Sparse α) (a : Nat) (vs : List α) (k : Nat) :
    sparseGet d (replaceRange d l a vs) k = if a ≤ k ∧ k < a + vs.length then vs.getD (k - a) d else sparseGet d l k := by
  unfold replaceRange
  by_cases h1 : k < a
  · have hr : ¬ (a ≤ k ∧ k < a + vs.length) := by omega
    rw [List.append_assoc, sparseGet_append_right, sparseGet_filter d (fun x => decide (x < a))]
    · simp [h1, hr]
    · intro p hp
      rcases List.mem_append.mp hp with hp | hp
      · have := rangeEntries_keys d vs a p hp; omega
      · simp only [List.mem_filter, decide_eq_true_eq] at hp; omega
  · have hl : ∀ p ∈ l.filter (fun p => decide (p.1 < a)), p.1 ≠ k := fun p hp => by
      simp only [List.mem_filter, decide_eq_true_eq] at hp; omega
    rw [List.append_assoc, sparseGet_append d _ _ k hl]
    by_cases h2 : k < a + vs.length
    · have hr : a ≤ k ∧ k < a + vs.length := by omega
      rw [sparseGet_append_right, if_pos hr]
      · have := sparseGet_rangeEntries d vs a (k - a) (by omega)
        rwa [show a + (k - a) = k by omega] at this
      · intro p hp
        simp only [List.mem_filter, decide_eq_true_eq] at hp; omega
    · have hr : ¬ (a ≤ k ∧ k < a + vs.length) := by omega
      rw [sparseGet_append, if_neg hr, sparseGet_filter d (fun x => decide (a + vs.length ≤ x))]
      · have : a + vs.length ≤ k := by omega
        simp [this]
      · intro p hp
        have := rangeEntries_keys d vs a p hp; omega

end Sys2Proof.Machine
end

