-- ==== Sys2Proof/Laws/Frames.lean ====
section
/-! SUPPORT. What passing a tap and writing memory may change: one relation for each, kept by every operation that does nothing
else (R211, R216, R217, R235, R298). -/

namespace Sys2Proof.Machine

/-- Only check-value units, the integrity log and the tickets they end differ. -/
def TapFrame (s t : State) : Prop := t = { s with cvus := t.cvus, integrity := t.integrity, tickets := t.tickets }

/-- Only what a read may find and count, and what a tap may change, differ: poison, write-backs and errors of bursts, the homes'
counts, failure entries with their ALARM. -/
def ReadFrame (s t : State) : Prop :=
  t = { s with poison := t.poison, writebacks := t.writebacks, upsets := t.upsets, homes := t.homes, nv := t.nv, field := t.field,
               cvus := t.cvus, integrity := t.integrity, tickets := t.tickets }

/-- Only memory with what is known of its bursts, reservations, and what a read may change differ. -/
def WriteFrame (s t : State) : Prop :=
  t = { s with mem := t.mem, poison := t.poison, writebacks := t.writebacks, cleared := t.cleared, nv := t.nv, ctxs := t.ctxs,
               upsets := t.upsets, homes := t.homes, field := t.field, cvus := t.cvus, integrity := t.integrity, tickets := t.tickets }

theorem TapFrame.refl (s : State) : TapFrame s s := rfl

theorem TapFrame.trans {s t u : State} (h : TapFrame s t) (k : TapFrame t u) : TapFrame s u := by
  unfold TapFrame at *
  rw [k, h]

theorem WriteFrame.refl (s : State) : WriteFrame s s := rfl

theorem WriteFrame.trans {s t u : State} (h : WriteFrame s t) (k : WriteFrame t u) : WriteFrame s u := by
  unfold WriteFrame at *
  rw [k, h]

theorem TapFrame.toWrite {s t : State} (h : TapFrame s t) : WriteFrame s t := by
  unfold WriteFrame
  unfold TapFrame at h
  rw [h]

theorem ReadFrame.trans {s t u : State} (h : ReadFrame s t) (k : ReadFrame t u) : ReadFrame s u := by
  unfold ReadFrame at *
  rw [k, h]

theorem TapFrame.toRead {s t : State} (h : TapFrame s t) : ReadFrame s t := by
  unfold ReadFrame
  unfold TapFrame at h
  rw [h]

theorem ReadFrame.toWrite {s t : State} (h : ReadFrame s t) : WriteFrame s t := by
  unfold WriteFrame
  unfold ReadFrame at h
  rw [h]

theorem modTk_tapFrame (s : State) (t : TicketId) (f : Tk → Tk) : TapFrame s (modTk s t f) := by
  unfold modTk; split <;> rfl

theorem tapOne_frame (s : State) (u : Fin 16) (tap : Nat) (seq : Bool) (num : Nat) (data : List Byte) (bad : Bool) :
    TapFrame s (tapOne s u tap seq num data bad) := by
  unfold tapOne
  extract_lets _ _ _ _ _ wrong s1 s2
  have h1 : TapFrame s s1 := rfl
  have h2 : TapFrame s s2 := by
    refine h1.trans ?_
    unfold s2
    split
    · split <;> rfl
    · rfl
  split
  · split
    · exact h2.trans (modTk_tapFrame _ _ _)
    · rfl
  · rfl

theorem foldl_tapFrame {β : Type} (f : State → β → State) (h : ∀ s x, TapFrame s (f s x)) :
    ∀ (l : List β) (s : State), TapFrame s (l.foldl f s)
  | [], s => TapFrame.refl s
  | x :: l, s => (h s x).trans (foldl_tapFrame f h l (f s x))

theorem foldl_readFrame {β : Type} (f : State → β → State) (h : ∀ s x, ReadFrame s (f s x)) :
    ∀ (l : List β) (s : State), ReadFrame s (l.foldl f s)
  | [], _ => rfl
  | x :: l, s => (h s x).trans (foldl_readFrame f h l (f s x))

theorem foldl_writeFrame {β : Type} (f : State → β → State) (h : ∀ s x, WriteFrame s (f s x)) :
    ∀ (l : List β) (s : State), WriteFrame s (l.foldl f s)
  | [], s => WriteFrame.refl s
  | x :: l, s => (h s x).trans (foldl_writeFrame f h l (f s x))

theorem tapBurst_frame (s : State) (tap : Nat) (seq : Bool) (num : Nat) (data : List Byte) (bad : Bool) :
    TapFrame s (tapBurst s tap seq num data bad) :=
  foldl_tapFrame _ (fun s u => tapOne_frame s u tap seq num data bad) _ s

theorem tapHome_frame (s : State) (write : Bool) (b : Nat) (bad : Bool) : TapFrame s (tapHome s write b bad) := by
  unfold tapHome
  split
  · rfl
  · split
    · exact tapBurst_frame _ _ _ _ _ _
    · rfl

theorem dropReservations_frame (s : State) (b : Nat) : WriteFrame s (dropReservations s b) := rfl

theorem clearFailures_frame (s : State) (p : FailEntry → Bool) : WriteFrame s (clearFailures s p) := rfl

theorem freshCheck_frame (s : State) (b : Nat) : WriteFrame s (freshCheck s b) := rfl

theorem homeFinding_frame (s : State) (b : Nat) (code : Ecc) : ReadFrame s (homeFinding s b code) := by
  unfold homeFinding
  split
  · rfl
  · split
    · rfl
    · split <;> rfl

theorem touchBurst_frame (s : State) (b : Nat) : ReadFrame s (touchBurst s b) :=
  (homeFinding_frame s b .clean).trans (tapHome_frame _ _ _ _).toRead

theorem writeWhole_frame (s : State) (b : Nat) (data : List Byte) : WriteFrame s (writeWhole s b data).1 := by
  unfold writeWhole
  split
  · rfl
  · refine WriteFrame.trans ?_ (tapHome_frame _ _ _ _).toWrite
    refine WriteFrame.trans ?_ (dropReservations_frame _ b)
    have h1 (p q : Sparse Bool) (m : List Host.Cell) (c : Sparse Bool) (u : List Upset) :
        WriteFrame s { s with mem := m, poison := p, writebacks := q, cleared := c, upsets := u } := rfl
    show WriteFrame s (if _ then _ else _)
    split
    · exact (h1 _ _ _ _ _).trans (clearFailures_frame _ _)
    · exact h1 _ _ _ _ _

theorem writeMaskedCode_frame (s : State) (b : Nat) (code : Ecc) (data : List Byte) (mask : List Bool) :
    WriteFrame s (writeMaskedCode s b code data mask).1 := by
  unfold writeMaskedCode
  extract_lets s1 old new s2 s3
  have h1 : WriteFrame s s1 := (homeFinding_frame s b code).toWrite
  split
  · exact h1
  · refine WriteFrame.trans ?_ (tapHome_frame _ _ _ _).toWrite
    have h2 (m : List Host.Cell) (q c : Sparse Bool) (u : List Upset) :
        WriteFrame s1 { s1 with mem := m, writebacks := q, cleared := c, upsets := u } := rfl
    exact (h1.trans (h2 _ _ _ _)).trans (dropReservations_frame _ b)

theorem writeMasked_frame (s : State) (b : Nat) (data : List Byte) (mask : List Bool) : WriteFrame s (writeMasked s b data mask).1 :=
  writeMaskedCode_frame s b .clean data mask

theorem writeSpanN_frame : ∀ (n : Nat) (s : State) (a : Nat) (l : List Byte) (bad : Bool), WriteFrame s (writeSpanN n s a l bad).1
  | 0, s, _, _, _ => WriteFrame.refl s
  | n + 1, s, a, l, bad => by
    unfold writeSpanN
    split
    · rfl
    · refine WriteFrame.trans ?_ (writeSpanN_frame n _ _ _ _)
      extract_lets
      split
      · exact writeWhole_frame _ _ _
      · exact writeMasked_frame _ _ _ _

/-- All that a write of a byte string may change. -/
theorem writeSpan_frame (s : State) (a : Nat) (l : List Byte) : WriteFrame s (writeSpan s a l).1 := writeSpanN_frame _ s a l false

/-- All that a read of a unit may change. -/
theorem readSpan_frame (s : State) (a n : Nat) : ReadFrame s (readSpan s a n).1 :=
  foldl_readFrame _ (fun s b => touchBurst_frame s b) _ s

end Sys2Proof.Machine
end

