-- ==== Sys2Proof/Laws/Memory.lean ====
section
/-! SUPPORT. Memory: a read after a write, what a write leaves, and the one form that every memory operation keeps (R3, R210,
R212, R217, R223). -/

namespace Sys2Proof.Machine

theorem TapFrame.mem {s t : State} (h : TapFrame s t) : t.mem = s.mem := by unfold TapFrame at h; rw [h]
theorem TapFrame.poison {s t : State} (h : TapFrame s t) : t.poison = s.poison := by unfold TapFrame at h; rw [h]
theorem TapFrame.homes {s t : State} (h : TapFrame s t) : t.homes = s.homes := by unfold TapFrame at h; rw [h]
theorem ReadFrame.mem {s t : State} (h : ReadFrame s t) : t.mem = s.mem := by unfold ReadFrame at h; rw [h]

/-- A read, whatever its code finds, leaves every byte of memory. -/
theorem homeFinding_mem (s : State) (b : Nat) (code : Ecc) : (homeFinding s b code).mem = s.mem := (homeFinding_frame s b code).mem
theorem readSpan_mem (s : State) (a n : Nat) : (readSpan s a n).1.mem = s.mem := (readSpan_frame s a n).mem

/-! ## Bytes laid into a memory -/

theorem putCells_wf : ∀ (l : List Byte) (m : List Host.Cell) (a : Nat), Memory.wf m = true → Memory.wf (putCells m a l) = true
  | [], _, _, w => w
  | b :: l, _, a, w => putCells_wf l _ (a + 1) (sparseSet_wf memDefault a b w)

theorem putCells_below : ∀ (l : List Byte) (m : List Host.Cell) (a x : Nat), x < a →
    sparseGet memDefault (putCells m a l) x = sparseGet memDefault m x
  | [], _, _, _, _ => rfl
  | b :: l, m, a, x, h => by
    unfold putCells
    rw [putCells_below l _ (a + 1) x (by omega), sparseGet_set_ne _ _ _ (by omega)]

/-- A read after a write: the written bytes, and every other byte as before. -/
theorem putCells_get : ∀ (l : List Byte) (m : List Host.Cell) (a x : Nat), Memory.wf m = true →
    sparseGet memDefault (putCells m a l) x = if a ≤ x ∧ x < a + l.length then l.getD (x - a) 0 else sparseGet memDefault m x
  | [], m, a, x, _ => by
    have h : ¬ (a ≤ x ∧ x < a + ([] : List Byte).length) := by simp only [List.length_nil]; omega
    rw [if_neg h]; rfl
  | b :: l, m, a, x, w => by
    unfold putCells
    rw [putCells_get l _ (a + 1) x (sparseSet_wf memDefault a b w)]
    by_cases h : x = a
    · subst h
      have h1 : ¬ (x + 1 ≤ x ∧ x < x + 1 + l.length) := by omega
      have h2 : x ≤ x ∧ x < x + (b :: l).length := by simp
      rw [if_neg h1, if_pos h2, sparseGet_set_same _ _ _ w]
      simp
    · rw [sparseGet_set_ne _ _ _ h]
      by_cases hr : a ≤ x ∧ x < a + (b :: l).length
      · have h1 : a + 1 ≤ x ∧ x < a + 1 + l.length := by
          simp only [List.length_cons] at hr; omega
        rw [if_pos hr, if_pos h1, show x - a = (x - (a + 1)) + 1 by omega, List.getD_cons_succ]
      · have h1 : ¬ (a + 1 ≤ x ∧ x < a + 1 + l.length) := by
          simp only [List.length_cons] at hr; omega
        rw [if_neg hr, if_neg h1]

/-- A write outside its bytes leaves memory, whatever its form. -/
theorem putCells_outside : ∀ (l : List Byte) (m : List Host.Cell) (a x : Nat), ¬ (a ≤ x ∧ x < a + l.length) →
    sparseGet memDefault (putCells m a l) x = sparseGet memDefault m x
  | [], _, _, _, _ => rfl
  | b :: l, m, a, x, h => by
    simp only [List.length_cons] at h
    unfold putCells
    rw [putCells_outside l _ (a + 1) x (by omega), sparseGet_set_ne _ _ _ (by omega)]

theorem fitBytes_length (n : Nat) (l : List Byte) : (fitBytes n l).length = n := by simp [fitBytes]

theorem memByte_memPut (s : State) (a : Nat) (l : List Byte) (x : Nat) (w : Memory.wf s.mem = true) :
    memByte (memPut s a l) x = if a ≤ x ∧ x < a + l.length then l.getD (x - a) 0 else memByte s x := putCells_get l s.mem a x w

/-! ## Whole and masked writes of a burst -/

theorem writeWhole_mem (s : State) (b : Nat) (data : List Byte) :
    (writeWhole s b data).1.mem = if burstTripped s b then s.mem else putCells s.mem (256 * b) (fitBytes 256 data) := by
  unfold writeWhole
  split
  · rfl
  · rw [(tapHome_frame _ _ _ _).mem]
    show State.mem (if _ then _ else _) = _
    split <;> rfl

theorem writeMasked_mem (s : State) (b : Nat) (data : List Byte) (mask : List Bool) :
    (writeMasked s b data mask).1.mem =
      if burstTripped (homeFinding s b .clean) b || isPoison (homeFinding s b .clean) b then s.mem
      else putCells s.mem (256 * b)
        ((List.range 256).map fun i => if mask.getD i false then data.getD i 0 else (burstBytes s b).getD i 0) := by
  have hm := homeFinding_mem s b .clean
  have hb : burstBytes (homeFinding s b .clean) b = burstBytes s b := by
    simp only [burstBytes, memBytes, memByte, hm]
  unfold writeMasked writeMaskedCode
  extract_lets s1 old new s2 s3
  split
  · exact hm
  · rw [(tapHome_frame _ _ _ _).mem]
    simp only [dropReservations, s3, s2, freshCheck, memPut, new, old, s1, hm, hb]

/-- A whole write keeps the one form. -/
theorem writeWhole_wf (s : State) (b : Nat) (data : List Byte) (w : Memory.wf s.mem = true) :
    Memory.wf (writeWhole s b data).1.mem = true := by
  rw [writeWhole_mem]
  split
  · exact w
  · exact putCells_wf _ _ _ w

/-- A masked write keeps the one form. -/
theorem writeMasked_wf (s : State) (b : Nat) (data : List Byte) (mask : List Bool) (w : Memory.wf s.mem = true) :
    Memory.wf (writeMasked s b data mask).1.mem = true := by
  rw [writeMasked_mem]
  split
  · exact w
  · exact putCells_wf _ _ _ w

theorem writeSpanN_wf : ∀ (n : Nat) (s : State) (a : Nat) (l : List Byte) (bad : Bool), Memory.wf s.mem = true →
    Memory.wf (writeSpanN n s a l bad).1.mem = true
  | 0, _, _, _, _, w => w
  | n + 1, s, a, l, bad, w => by
    unfold writeSpanN
    split
    · exact w
    · refine writeSpanN_wf n _ _ _ _ ?_
      extract_lets
      split
      · exact writeWhole_wf _ _ _ w
      · exact writeMasked_wf _ _ _ _ w

/-- A write of a byte string keeps the one form. -/
theorem writeSpan_wf (s : State) (a : Nat) (l : List Byte) (w : Memory.wf s.mem = true) : Memory.wf (writeSpan s a l).1.mem = true :=
  writeSpanN_wf _ s a l false w

/-- A byte outside its burst survives a whole write. -/
theorem writeWhole_outside (s : State) (b : Nat) (data : List Byte) (x : Nat) (h : x / 256 ≠ b) :
    memByte (writeWhole s b data).1 x = memByte s x := by
  unfold memByte
  rw [writeWhole_mem]
  split
  · rfl
  · exact putCells_outside _ _ _ _ (by rw [fitBytes_length]; omega)

/-- A byte outside its burst survives a masked write. -/
theorem writeMasked_outside (s : State) (b : Nat) (data : List Byte) (mask : List Bool) (x : Nat) (h : x / 256 ≠ b) :
    memByte (writeMasked s b data mask).1 x = memByte s x := by
  unfold memByte
  rw [writeMasked_mem]
  split
  · rfl
  · exact putCells_outside _ _ _ _ (by simp; omega)

/-- A whole write is read back. -/
theorem writeWhole_inside (s : State) (b : Nat) (data : List Byte) (x : Nat) (ht : burstTripped s b = false)
    (w : Memory.wf s.mem = true) (h : x / 256 = b) : memByte (writeWhole s b data).1 x = (fitBytes 256 data).getD (x - 256 * b) 0 := by
  unfold memByte
  rw [writeWhole_mem, ht]
  simp only [Bool.false_eq_true, if_false]
  rw [putCells_get _ _ _ _ w, if_pos]
  rw [fitBytes_length]; omega

/-- A byte that a mask leaves, or that its burst does not hold, survives a masked write. -/
theorem writeMasked_kept (s : State) (b : Nat) (data : List Byte) (mask : List Bool) (x : Nat) (w : Memory.wf s.mem = true)
    (h : mask.getD (x - 256 * b) false = false) : memByte (writeMasked s b data mask).1 x = memByte s x := by
  by_cases hb : x / 256 = b
  · unfold memByte
    rw [writeMasked_mem]
    split
    · rfl
    · have hr : 256 * b ≤ x ∧ x < 256 * b + 256 := by omega
      have hx : x - 256 * b < 256 := by omega
      rw [putCells_get _ _ _ _ w, if_pos (by simpa using hr)]
      simp only [List.getD_eq_getElem?_getD, List.getElem?_map, List.getElem?_range hx] at h ⊢
      simp [h, burstBytes, memBytes, List.getElem?_range hx, memByte, show 256 * b + (x - 256 * b) = x by omega]
  · exact writeMasked_outside s b data mask x hb

/-! ## Tickets that stay -/

/-- Every ticket in flight before is in flight after. -/
def TicketsStay (s t : State) : Prop := ∀ x, (getTk s x).isSome → (getTk t x).isSome

theorem TicketsStay.refl (s : State) : TicketsStay s s := fun _ h => h
theorem TicketsStay.trans {s t u : State} (h : TicketsStay s t) (k : TicketsStay t u) : TicketsStay s u := fun x hx => k x (h x hx)
theorem TicketsStay.of_eq {s t : State} (h : t.tickets = s.tickets) : TicketsStay s t := fun x hx => by
  unfold getTk at *; rwa [h]

theorem getTk_setTk_same (s : State) (k : Tk) : getTk (setTk s k) k.ticket = some k := by
  unfold getTk setTk
  exact sparseGet_set_same_of_ne none s.tickets k.ticket.val (v := some k) (by simp)

theorem getTk_setTk_ne (s : State) (k : Tk) (x : TicketId) (h : x ≠ k.ticket) : getTk (setTk s k) x = getTk s x := by
  unfold getTk setTk
  exact sparseGet_set_ne none s.tickets (some k) fun e => h (Fin.ext e)

/-- A change of a ticket is seen there. -/
theorem getTk_modTk_same (s : State) (t : TicketId) (f : Tk → Tk) : getTk (modTk s t f) t = (getTk s t).map fun k => { f k with ticket := t } := by
  unfold modTk
  split
  · rename_i h; simp [h]
  · rename_i k h
    rw [show t = ({ f k with ticket := t } : Tk).ticket from rfl, getTk_setTk_same]
    simp [h]

/-- It leaves every other ticket. -/
theorem getTk_modTk_ne (s : State) (t x : TicketId) (f : Tk → Tk) (h : x ≠ t) : getTk (modTk s t f) x = getTk s x := by
  unfold modTk
  split
  · rfl
  · exact getTk_setTk_ne _ _ _ h

theorem setTk_stay (s : State) (k : Tk) : TicketsStay s (setTk s k) := fun x hx => by
  by_cases h : x = k.ticket
  · subst h; rw [getTk_setTk_same]; rfl
  · rwa [getTk_setTk_ne _ _ _ h]

theorem modTk_stay (s : State) (t : TicketId) (f : Tk → Tk) : TicketsStay s (modTk s t f) := by
  unfold modTk
  split
  · exact TicketsStay.refl s
  · exact setTk_stay _ _

theorem foldl_stay {β : Type} (f : State → β → State) (h : ∀ s x, TicketsStay s (f s x)) :
    ∀ (l : List β) (s : State), TicketsStay s (l.foldl f s)
  | [], s => TicketsStay.refl s
  | x :: l, s => (h s x).trans (foldl_stay f h l (f s x))

theorem tapOne_stay (s : State) (u : Fin 16) (tap : Nat) (seq : Bool) (num : Nat) (data : List Byte) (bad : Bool) :
    TicketsStay s (tapOne s u tap seq num data bad) := by
  unfold tapOne
  extract_lets _ _ _ _ _ wrong s1 s2
  have h2 : s2.tickets = s.tickets := by
    unfold s2
    split
    · split <;> rfl
    · rfl
  split
  · split
    · exact (TicketsStay.of_eq h2).trans (modTk_stay _ _ _)
    · exact TicketsStay.of_eq rfl
  · exact TicketsStay.refl s

theorem tapBurst_stay (s : State) (tap : Nat) (seq : Bool) (num : Nat) (data : List Byte) (bad : Bool) :
    TicketsStay s (tapBurst s tap seq num data bad) := foldl_stay _ (fun s u => tapOne_stay s u tap seq num data bad) _ s

theorem tapHome_stay (s : State) (write : Bool) (b : Nat) (bad : Bool) : TicketsStay s (tapHome s write b bad) := by
  unfold tapHome
  split
  · exact TicketsStay.refl s
  · split
    · exact tapBurst_stay _ _ _ _ _ _
    · exact TicketsStay.refl s

theorem writeWhole_stay (s : State) (b : Nat) (data : List Byte) : TicketsStay s (writeWhole s b data).1 := by
  unfold writeWhole
  split
  · exact TicketsStay.refl s
  · refine TicketsStay.trans (TicketsStay.of_eq ?_) (tapHome_stay _ _ _ _)
    show State.tickets (if _ then _ else _) = _
    split <;> rfl

theorem freshCheck_tickets (s : State) (b : Nat) : (freshCheck s b).tickets = s.tickets := rfl

theorem homeFinding_tickets (s : State) (b : Nat) (code : Ecc) : (homeFinding s b code).tickets = s.tickets := by
  unfold homeFinding
  split
  · rfl
  · split
    · rfl
    · split <;> simp only [failEntry_tickets, modHome_tickets, freshCheck_tickets]

theorem writeMasked_stay (s : State) (b : Nat) (data : List Byte) (mask : List Bool) : TicketsStay s (writeMasked s b data mask).1 := by
  unfold writeMasked writeMaskedCode
  extract_lets s1 old new s2 s3
  have h1 : s1.tickets = s.tickets := homeFinding_tickets s b .clean
  clear_value s1
  split
  · exact TicketsStay.of_eq h1
  · have h2 : s3.tickets = s1.tickets := freshCheck_tickets _ b
    exact (TicketsStay.of_eq (t := dropReservations s3 b) (h2.trans h1)).trans (tapHome_stay _ _ _ _)

theorem writeSpanN_stay : ∀ (n : Nat) (s : State) (a : Nat) (l : List Byte) (bad : Bool), TicketsStay s (writeSpanN n s a l bad).1
  | 0, s, _, _, _ => TicketsStay.refl s
  | n + 1, s, a, l, bad => by
    unfold writeSpanN
    split
    · exact TicketsStay.refl s
    · refine TicketsStay.trans ?_ (writeSpanN_stay n _ _ _ _)
      extract_lets
      split
      · exact writeWhole_stay _ _ _
      · exact writeMasked_stay _ _ _ _

theorem writeSpan_stay (s : State) (a : Nat) (l : List Byte) : TicketsStay s (writeSpan s a l).1 := writeSpanN_stay _ s a l false

/-- A descriptor whose ticket is in flight is at the phase and with the DETAIL that its end gives it. -/
theorem endTk_ends (s : State) (t : TicketId) (causes : List Status) (detail : Nat) (g : Tk → Tk) (hg : ∀ k, (g k).phase = k.phase)
    (h : (getTk s t).isSome) : ∃ q, getTk (modTk s t fun k => g (endTk causes detail k)) t = some q ∧ q.phase = .ended := by
  obtain ⟨k, hk⟩ := Option.isSome_iff_exists.mp h
  rw [getTk_modTk_same, hk]
  exact ⟨_, rfl, by simp [hg, endTk]⟩

end Sys2Proof.Machine
end

