-- ==== Sys2Proof/Laws/Settle.lean ====
section
/-! SUPPORT. The end of every command: what it changes, and what it establishes (R345, R374, R388). -/

namespace Sys2Proof.Machine

theorem settleRail_slot (s : State) (j : Fin 16) :
    (settleRail s).slots[j] = { s.slots[j] with ceiling := settledCeiling s.pm.rail s.slots[j] } := by
  simp [settleRail]

theorem settle_slot (s t : State) (j : Fin 16) :
    (settle s t).slots[j] = { t.slots[j] with ceiling := (settle s t).slots[j].ceiling } := by
  unfold settle
  split
  · simp [settleRail]
  · rfl

/-- All that the end of a command may change. -/
theorem settle_settledFrom (s t : State) : SettledFrom t (settle s t) := by
  refine ⟨?_, settle_slot s t⟩
  unfold settle
  split <;> rfl

/-- GENERATION after a command (R388). -/
theorem settle_generation (s t : State) :
    (settle s t).generation = if stateView s = stateView (settle s t) then s.generation else s.generation + 1 := by
  unfold settle
  split <;> rfl

/-- A change of the module state makes an ALARM due (R374). -/
theorem settle_alarm (s t : State) (h : moduleState s ≠ moduleState (settle s t)) : (settle s t).field.alarmDue = true := by
  have same (u v : State) (hf : v.failedCause = u.failedCause) (hp : v.power = u.power) (ht : tripNow v = tripNow u)
      (hd : degradedNow v = degradedNow u) (h1 : v.tripped = (u.tripped || tripNow u)) (h2 : v.degraded = (u.degraded || degradedNow u)) :
      moduleState v = moduleState u := by
    simp only [moduleState, hf, hp, ht, hd, h1, h2]
    cases u.tripped <;> cases tripNow u <;> cases u.degraded <;> cases degradedNow u <;> simp
  by_cases hq : (t.power == PowerState.running) = true
  · have e : moduleState (settle s t) = moduleState (settleRail t) := by
      apply same <;> simp only [settle, hq, if_true] <;> rfl
    rw [e] at h
    simp [settle, hq, h]
  · have e : moduleState (settle s t) = moduleState t := by
      apply same <;> simp only [settle, hq] <;> rfl
    rw [e] at h
    simp [settle, hq, h]

/-- A change that the rail does not look at leaves the mode asked for. -/
theorem askedMode_congr (s t : State) (hr : t.rings = s.rings)
    (hs : ∀ j : Fin 16, slotMode t.slots[j] = slotMode s.slots[j]) : askedMode t = askedMode s := by
  have hj : ∀ j, hasJob t j = hasJob s j := fun j => by simp [hasJob, ringsOf, hr]
  have : (fun j : Fin 16 => if hasJob t j then some (slotMode (t.slots[j])) else none)
      = fun j : Fin 16 => if hasJob s j then some (slotMode (s.slots[j])) else none := by
    funext j; simp only [hj, hs]
  simp only [askedMode, this]

/-- A ceiling plays no part in a slot's mode. -/
@[simp] theorem slotMode_ceiling (r : SlotR) (c : BitVec 16) : slotMode { r with ceiling := c } = slotMode r := rfl

theorem settledCeiling_le (rail : Nat) (r : SlotR) : (settledCeiling rail r).toNat ≤ modeCeiling (slotMode r) := by
  have hc : (BitVec.ofNat 16 (modeCeiling (slotMode r))).toNat = modeCeiling (slotMode r) := by
    cases slotMode r <;> rfl
  unfold settledCeiling
  by_cases h : modeCeiling (slotMode r) < r.ceiling.toNat || modeMillivolts (slotMode r) ≤ rail
  · simp only [h, if_true]; exact Nat.le_of_eq hc
  · simp only [h]
    simp at h
    exact h.1

theorem settledCeiling_eq (rail : Nat) (r : SlotR) (h : modeMillivolts (slotMode r) ≤ rail) :
    settledCeiling rail r = BitVec.ofNat 16 (modeCeiling (slotMode r)) := by
  simp [settledCeiling, h]

/-- Every command that ends by `settle` leaves a rail that follows the profiles (R345). -/
theorem settle_railFollows (s t : State) : RailFollows (settle s t) := by
  intro hp
  have hp' : t.power = .running := by simpa using hp
  have hq : (t.power == PowerState.running) = true := by rw [hp']; decide
  have ha : askedMode (settle s t) = askedMode t :=
    askedMode_congr t (settle s t) (by simp) fun j => by rw [settle_slot]; rfl
  have hpm : (settle s t).pm = (settleRail t).pm := by simp [settle, hq]
  have hsl : (settle s t).slots = (settleRail t).slots := by simp [settle, hq]
  rw [ha, hpm]
  refine ⟨rfl, rfl, fun j => ?_⟩
  have hj : (settle s t).slots[j] = { t.slots[j] with ceiling := settledCeiling t.pm.rail t.slots[j] } := by
    rw [← settleRail_slot]; simp [hsl]
  rw [hj]
  exact ⟨settledCeiling_le _ _, fun h => settledCeiling_eq _ _ h⟩

end Sys2Proof.Machine
end

