-- ==== Sys2Proof/Laws/Objects.lean ====
section
/-! SUPPORT. The agent: a request on a free port, and an object's write answered (R366, R367, R370 to R373, R398). -/

namespace Sys2Proof.Machine

open Host

/-! ## The submission changes the mailbox, or wakes its bus -/

theorem heardOn_eq (s : State) (b : Bus) : heardOn s b = { s with mailbox := (heardOn s b).mailbox, field := (heardOn s b).field } := by
  unfold heardOn
  split
  · cases b <;> rfl
  · rfl

theorem noteSubmit_eq (s : State) (r : AgentReq) :
    noteSubmit s r = { s with mailbox := (noteSubmit s r).mailbox, field := (noteSubmit s r).field } := by
  have onBus (b : Bus) (e : noteSubmit s r = heardOn s b) :
      noteSubmit s r = { s with mailbox := (noteSubmit s r).mailbox, field := (noteSubmit s r).field } := by
    rw [e]; exact heardOn_eq s b
  cases h : r.port with
  | request c n => exact onBus c.bus (by simp only [noteSubmit, h])
  | tool c n => exact onBus c.bus (by simp only [noteSubmit, h])
  | ucie => simp only [noteSubmit, h]

theorem writeTaken_eq (s : State) (port : Port) (index sub : Nat) (data aux : List Byte) :
    writeTaken s port index sub data aux =
      { s with mailbox := (writeTaken s port index sub data aux).mailbox, field := (writeTaken s port index sub data aux).field } :=
  noteSubmit_eq _ _

section
variable (s : State) (port : Port) (index sub : Nat) (data aux : List Byte)

@[simp] theorem writeTaken_power : (writeTaken s port index sub data aux).power = s.power := by rw [writeTaken_eq]
@[simp] theorem writeTaken_slots : (writeTaken s port index sub data aux).slots = s.slots := by rw [writeTaken_eq]
@[simp] theorem writeTaken_engines : (writeTaken s port index sub data aux).engines = s.engines := by rw [writeTaken_eq]
@[simp] theorem writeTaken_tickets : (writeTaken s port index sub data aux).tickets = s.tickets := by rw [writeTaken_eq]
@[simp] theorem writeTaken_dies : (writeTaken s port index sub data aux).dies = s.dies := by rw [writeTaken_eq]
@[simp] theorem writeTaken_rings : (writeTaken s port index sub data aux).rings = s.rings := by rw [writeTaken_eq]
@[simp] theorem writeTaken_owners : (writeTaken s port index sub data aux).owners = s.owners := by rw [writeTaken_eq]
@[simp] theorem writeTaken_security : (writeTaken s port index sub data aux).security = s.security := by rw [writeTaken_eq]
@[simp] theorem writeTaken_nv : (writeTaken s port index sub data aux).nv = s.nv := by rw [writeTaken_eq]
@[simp] theorem writeTaken_pm : (writeTaken s port index sub data aux).pm = s.pm := by rw [writeTaken_eq]
@[simp] theorem writeTaken_straps : (writeTaken s port index sub data aux).straps = s.straps := by rw [writeTaken_eq]
@[simp] theorem writeTaken_sent : (writeTaken s port index sub data aux).sent = s.sent := by rw [writeTaken_eq]
@[simp] theorem writeTaken_mem : (writeTaken s port index sub data aux).mem = s.mem := by rw [writeTaken_eq]
@[simp] theorem writeTaken_chans : (writeTaken s port index sub data aux).chans = s.chans := by rw [writeTaken_eq]
@[simp] theorem writeTaken_fabric : (writeTaken s port index sub data aux).fabric = s.fabric := by rw [writeTaken_eq]
@[simp] theorem writeTaken_agentHeld : (writeTaken s port index sub data aux).agentHeld = s.agentHeld := by rw [writeTaken_eq]
@[simp] theorem writeTaken_lastCommand : (writeTaken s port index sub data aux).lastCommand = s.lastCommand := by rw [writeTaken_eq]
@[simp] theorem writeTaken_flags : (writeTaken s port index sub data aux).flags = s.flags := by rw [writeTaken_eq]
@[simp] theorem writeTaken_poison : (writeTaken s port index sub data aux).poison = s.poison := by rw [writeTaken_eq]
@[simp] theorem writeTaken_homes : (writeTaken s port index sub data aux).homes = s.homes := by rw [writeTaken_eq]
@[simp] theorem writeTaken_buffers : (writeTaken s port index sub data aux).buffers = s.buffers := by rw [writeTaken_eq]
@[simp] theorem writeTaken_integrity : (writeTaken s port index sub data aux).integrity = s.integrity := by rw [writeTaken_eq]

end

/-! ## Requests -/

/-- A request on a free port is performed at once. -/
theorem submit_free (s : State) (r : AgentReq) (h : PortFree s r.port) : submit r s = performReq (noteSubmit s r) r := by
  obtain ⟨h1, h2, h3⟩ := h
  have h4 : (r.port == Port.ucie && !s.mailbox.objDone) = false := by
    by_cases hp : r.port = .ucie
    · simp [h3 hp]
    · simp [hp]
  have h5 : (noteSubmit s r).agentHeld = none := by rw [noteSubmit_eq]; exact h2
  unfold submit
  simp [h1, h4, h5]

theorem agentWrite_first (a : Asked) (data : List Byte) (wo : Bool) (f : State → WriteResult) (s v : State) (st : Status)
    (hb : wo = true → asBefore s a.index a.sub data = none) (hf : f s = (v, some st)) :
    agentWrite a data wo f s = answerWrite (noteCommand v wo a.index a.sub data st) a st := by
  unfold agentWrite
  cases wo with
  | false => simp [hf]
  | true => simp [hb rfl, hf]

/-- A write that the agent performs at once, but one of 1F01h, ends with its answer. -/
theorem submitWrite_next (s v : State) (port : Port) (index sub : Nat) (data aux : List Byte) (st : Status) (hp : PortFree s port)
    (hw : isCommand (BitVec.ofNat 16 index) (BitVec.ofNat 8 sub) = true → FirstWrite s index sub data)
    (hi : BitVec.ofNat 16 index ≠ 0x1F01#16)
    (ho : objWrite port (BitVec.ofNat 16 index) (BitVec.ofNat 8 sub) data aux (writeTaken s port index sub data aux) = (v, some st)) :
    submitWrite port (BitVec.ofNat 16 index) (BitVec.ofNat 8 sub) data aux s = acknowledged v port index sub data st := by
  unfold submitWrite
  rw [submit_free _ _ hp]
  show performReq (writeTaken s port index sub data aux) _ = _
  have h1 : (BitVec.ofNat 16 index == (0x1F01 : BitVec 16)) = false := by simpa using hi
  have hb : asBefore (writeTaken s port index sub data aux) (BitVec.ofNat 16 index) (BitVec.ofNat 8 sub) data
      = asBefore s (BitVec.ofNat 16 index) (BitVec.ofNat 8 sub) data := by simp [asBefore]
  show performWrite { port := port, index := BitVec.ofNat 16 index, sub := BitVec.ofNat 8 sub } data aux _ = _
  unfold performWrite
  simp only [h1, Bool.false_and, Bool.false_eq_true, if_false]
  exact agentWrite_first { port := port, index := BitVec.ofNat 16 index, sub := BitVec.ofNat 8 sub } _ _ _ _ _ _
    (fun e => hb.trans (hw e)) ho

/-- A command that is a write of one object answers a next state: what the write came to, with its answer. -/
theorem writeCmd_next (s v : State) (port : Port) (index sub : Nat) (data aux : List Byte) (st : Status) (hp : PortFree s port)
    (hw : isCommand (BitVec.ofNat 16 index) (BitVec.ofNat 8 sub) = true → FirstWrite s index sub data)
    (hi : BitVec.ofNat 16 index ≠ 0x1F01#16)
    (ho : objWrite port (BitVec.ofNat 16 index) (BitVec.ofNat 8 sub) data aux (writeTaken s port index sub data aux) = (v, some st)) :
    ∃ t, writeCmd port index sub data aux s = .next t ∧ SettledFrom (acknowledged v port index sub data st) t := by
  refine ⟨_, rfl, ?_⟩
  rw [submitWrite_next s v port index sub data aux st hp hw hi ho]
  exact settle_settledFrom _ _

end Sys2Proof.Machine
end

