-- ==== Sys2Proof/Tests/Slice0.lean ====
section
/-! SUPPORT. The model's own tests: well-formedness, values that the manual works out, and for every statement with
hypotheses a state that meets them. -/

open Sys2Proof Sys2Proof.Machine Host

namespace Sys2Proof.Tests

/-- A descriptor from its fields: byte offset, first bit, value. -/
def desc (l : List (Nat × Nat × Nat)) : Desc := BitVec.ofNat 1024 ((l.map fun f => f.2.2 * 2 ^ (8 * f.1 + f.2.1)).sum)

/-- A ticket of ring H of die 0, issued. -/
def issuedTk (d : Desc) : Tk := { freshTk State.reset d 0 .h 0 0 with phase := .issued, issueNo := 1 }

def withTk (k : Tk) (s : State) : State := { s with tickets := [(k.ticket.val, some k)] }


set_option Elab.async false
set_option synthInstance.maxSize 2048
set_option synthInstance.maxHeartbeats 400000
/-! ## Witnesses: each statement's hypotheses met together, clause by clause -/

/-- The state with another value in one slot. -/
def atSlot (j : Slot) (f : SlotR → SlotR) : State := modSlot State.reset j f

/-- The ports on bus A, addressed to the module's own NODE. -/
def canA : Port := .request { bus := .fbA } 0
def toolA : Port := .tool { bus := .fbA } 0

theorem reset_free (port : Port) (h : port ∈ [canA, toolA, .ucie]) : PortFree State.reset port := by
  revert port
  unfold PortFree
  decide +kernel

theorem canA_free : PortFree State.reset canA := reset_free _ (by decide)

theorem reset_first (index sub : Nat) (data : List Byte) : FirstWrite State.reset index sub data := rfl

/-- What a command leaves, where it answers a next state. -/
def after (c : Instr) (s : State) : State :=
  match exec c s with
  | .next t => t
  | _ => s

/-- Whether a command answers a next state. -/
def runs (c : Instr) (s : State) : Bool :=
  match exec c s with
  | .next _ => true
  | _ => false

theorem exec_after {c : Instr} {s : State} (h : runs c s = true) : exec c s = .next (after c s) := by
  unfold runs at h
  unfold after
  split at h
  · rename_i t e
    rw [e]
  · cases h

/-- The reset state with one command waiting. -/
def queued (c : Instr) (s : State) : State := { s with pending := [c] }

theorem witness_step : (queued .pwrOkRise State.reset).pending = .pwrOkRise :: [] ∧ State.reset.pending = [] := by decide +kernel

theorem witness_railFollows : RailFollows (queued .railStep State.reset) ∧ ∃ t, step (queued .railStep State.reset) = .next t :=
  ⟨by unfold RailFollows; decide +kernel, after .railStep State.reset,
    exec_after (c := .railStep) (s := State.reset) (by decide +kernel)⟩

/-- A port that is UP and has no spare left falls to HALF with a lane. -/
def upPort : State := modPort State.reset 0 fun r => { r with state := 2, spareBad := true }

/-- A port's state is a state field, the power cap none; a lane that takes the port to HALF changes the module state too. -/
theorem witness_generationAndModuleState :
    (∀ c ∈ [Instr.laneFailure 0 3, .powerCapWrite canA 500], upPort.power = .running ∧ runs c upPort = true ∧ (after c upPort).power = .running)
    ∧ (stateView upPort ≠ stateView (after (.laneFailure 0 3) upPort) ∧ (after (.laneFailure 0 3) upPort).generation = 2)
    ∧ (stateView upPort = stateView (after (.powerCapWrite canA 500) upPort))
    ∧ moduleState upPort ≠ moduleState (after (.laneFailure 0 3) upPort) := by decide +kernel

theorem witness_formsKept : State.reset.memWf = true ∧ TicketsPlaced State.reset ∧ runs .heartbeat State.reset = true :=
  ⟨by decide +kernel, ⟨by decide +kernel, by intro p h; cases h⟩, by decide +kernel⟩

theorem witness_powerSignals :
    ({ State.reset with power := .off }).power = .off ∧ State.reset.power = .running ∧ ({ State.reset with power := .held }).power ≠ .running
      ∧ State.reset.power ≠ .off := by decide +kernel

/-- Straps read alike three times. -/
def bootInput : BootInput :=
  let r : StrapRead := { node := 0, mgrSelN := false, site := 0 }
  { straps := (r, r, r), laterFailure := none, sensors := Vector.replicate 8 25000 }

theorem witness_resetAndBoot :
    State.reset.power ≠ .off ∧ 30 ≤ 30 ∧ 9 < 10
    ∧ (let s := { State.reset with power := .held }
       s.power = .held ∧ s.pwrOk = true ∧ bootInput.laterFailure = none ∧ s.nv.bootB = false ∧ s.nv.factoryA = true
         ∧ factoryOk s = true ∧ s.security.updating = none) := by decide +kernel

theorem witness_objectRead :
    let r : AgentReq := { port := canA, op := opRead, index := 0x2010, sub := 1, seg := 0, data := [], aux := [] }
    PortFree State.reset canA ∧ objRead (noteSubmit State.reset r) 0x2010 1 = some [0x4C, 0x04] ∧ ([0x4C, 0x04] : List Byte) ≠ []
      ∧ ([0x4C, 0x04] : List Byte).length ≤ 2048 := ⟨canA_free, by decide +kernel⟩

def segment : List Byte := List.replicate 2048 7

/-- A write of two segments that TOOL_REQUEST has open, and the same one of REQUEST. -/
def opened (port : Port) : State :=
  { State.reset with openWrites := [{ holder := port.requester, index := 0x5010, sub := 0, next := 1, data := segment }] }

theorem witness_segments :
    PortFree (opened canA) canA ∧ segment.length = 2048
    ∧ (openFor State.reset canA.requester = none
        ∧ (openFor (opened canA) canA.requester).any (·.holder == canA.requester) = true
        ∧ (openFor (opened toolA) canA.requester).any (·.holder != canA.requester) = true
        ∧ openFor (opened Port.ucie) canA.requester = none)
    ∧ (1 : BitVec 5) ≠ 0 ∧ (31 : BitVec 5) ≠ 0
    ∧ ((openFor (opened canA) canA.requester).any
        (fun o => o.holder == canA.requester && o.index == 0x5010 && o.sub == 0 && o.next == (1 : BitVec 5).toNat) = true)
    ∧ (openFor (opened canA) canA.requester).all (fun o => o.next != (31 : BitVec 5).toNat) = true :=
  ⟨by unfold PortFree; decide +kernel, by decide +kernel⟩

theorem witness_objectWrites :
    PortFree State.reset canA
    ∧ ((0x2000 : Fin 65536).val ≠ 0x1F01 ∧ isCommand 0x2000 5 = false
        ∧ (objWrite canA 0x2000 5 [0xF4, 0x01] [] (writeTaken State.reset canA 0x2000 5 [0xF4, 0x01] [])).2 = some .ok)
    ∧ (isCommand 0x2080 0x13 = true ∧ FirstWrite State.reset 0x2080 0x13 [1, 0, 0, 0]
        ∧ (objWrite canA 0x2080 0x13 [1, 0, 0, 0] [] (writeTaken State.reset canA 0x2080 0x13 [1, 0, 0, 0] [])).2 = some .ok)
    ∧ PortFree (after (.energyClear canA 1) State.reset) canA
    ∧ (after (.energyClear canA 1) State.reset).lastCommand = some (0x2080, 0x13, [1, 0, 0, 0], .ok) :=
  ⟨canA_free, by decide +kernel, ⟨by decide +kernel, rfl, by decide +kernel⟩, by unfold PortFree; decide +kernel, by decide +kernel⟩

/-- Slot 0 with a prepared profile of ID 1: Frugal, Lean. -/
def prepared : State := atSlot 0 fun r => { r with phase := .prepared, prepared := { Profile.reset with power := .frugal }, preparedId := 1 }

theorem witness_profileCommands :
    PortFree State.reset canA ∧ PortFree prepared canA
    ∧ (let w := (0x00100008 : BitVec 32).toNat
       w / 128 % 2 ^ 13 = 0 ∧ profileOf (w % 128) = some { Profile.reset with power := .frugal } ∧ State.reset.slots[0].phase = .idle)
    ∧ (prepared.slots[0].phase = .prepared ∧ profileOf (9 : BitVec 8).toNat = some Profile.reset)
    ∧ (let w := (0x00100000 : BitVec 32).toNat
       w % 2 ^ 20 = 0 ∧ (BitVec.ofNat 8 (w / 2 ^ 20) : BitVec 8) = prepared.slots[0].preparedId
         ∧ prepared.slots[0].prepared.integrity = prepared.slots[0].inForce.integrity
         ∧ prepared.slots[0].prepared.arrival = prepared.slots[0].inForce.arrival ∧ prepared.slots[0].prepared.power ≠ .peak)
    ∧ FirstWrite prepared 0x1F11 0 (wordBytes 4 (0x00100000 : BitVec 32)) :=
  ⟨canA_free, by unfold PortFree; decide +kernel, by decide +kernel, by decide +kernel, by decide +kernel, rfl⟩

/-- A PREPARE that waits for the named units. -/
def preparing (l : List ModUnit) : State :=
  { atSlot 0 (fun r => { r with unacked := l }) with agentHeld := some { asked := { port := canA, index := 0x1F10, sub := 0 }, slot := 0, data := [] } }

theorem witness_profileUnits :
    (preparing [.power, .mirror]).slots[0].unacked.filter (· != .power) ≠ []
    ∧ ((preparing [.power]).agentQueue = [] ∧ (preparing [.power]).slots[0].unacked = [.power] ∧ (preparing [.power]).agentHeld.isSome = true)
    ∧ (∀ l ∈ [[ModUnit.power], [.power, .mirror]],
        let s := atSlot 0 fun r => { r with phase := .committing, unswitched := l }
        s.power = .running ∧ unitBetween s 0 .power = true ∧ s.slots[0].phase = .committing ∧ ModUnit.power ∈ s.slots[0].unswitched)
    ∧ State.reset.pm.rail ≤ State.reset.pm.railTarget ∧ State.reset.pm.railTarget ≤ State.reset.pm.rail := by decide +kernel

theorem witness_moduleCommands : PortFree State.reset canA ∧ canA ≠ toolA ∧ FirstWrite State.reset 0x1F01 0 [2]
    ∧ State.reset.tickets = [] := ⟨canA_free, by decide, rfl, rfl⟩

/-- A claim or release of tap 5 for slot 0, and of the 2 MiB range from tier 2's first address on. -/
def claimTap (op owner : Nat) : List Byte := overlay (wordBytes 16 (BitVec.ofNat 128 (5 * 2 ^ 16 + owner * 2 ^ 32))) 0 [BitVec.ofNat 8 op]
def claimRange2 (op : Nat) : List Byte :=
  overlay (wordBytes 16 (BitVec.ofNat 128 (4 * 2 ^ 8 + 0x80000 * 2 ^ 64 + 2 ^ 96))) 0 [BitVec.ofNat 8 op]
def tapHeld (owner : BitVec 8) : State := { State.reset with owners := { taps := [(5, owner)] } }
def rangeHeld (owner : BitVec 8) : State := { State.reset with owners := { ranges := [(0, 0x80000, 1, owner)] } }

theorem witness_claims :
    let r (op : Nat) := claimOf (claimTap op 0)
    (claimAllowed (r 1) = true ∧ claimAllowed (r 2) = true ∧ (r 1).kind ≠ 4)
    ∧ holderOf State.reset (r 1) = ownerNone ∧ holderOf (tapHeld 0) (r 1) = (r 1).owner
    ∧ (holderOf (tapHeld 1) (r 1) ≠ ownerNone ∧ holderOf (tapHeld 1) (r 1) ≠ (r 1).owner)
    ∧ (holderOf (tapHeld 0) (r 2) = (r 2).owner ∧ releaseBusy (tapHeld 0) (r 2) = false)
    ∧ (let s := modCvu (tapHeld 0) 3 fun c => { c with armed := true, tap := 5 }
       holderOf s (r 2) = (r 2).owner ∧ releaseBusy s (r 2) = true) := by decide +kernel

theorem witness_ranges :
    let r (op : Nat) := claimOf (claimRange2 op)
    ((r 1).kind = 4 ∧ claimAllowed (r 1) = true ∧ (r 1).count ≠ 0 ∧ inTier2 ((r 1).base * 0x200000) ((r 1).count * 0x200000) = true
      ∧ ((r 1).base + (r 1).count) * 0x200000 ≤ headBase
      ∧ rangeFree State.reset ((r 1).base * 0x200000) ((r 1).count * 0x200000) (r 1).owner = true
      ∧ State.reset.owners.ranges = [] ∧ sparseWf (0, 0, 0) State.reset.owners.ranges = true)
    ∧ (∀ o ∈ [0, 1], (r 2).kind = 4 ∧ claimAllowed (r 2) = true ∧ (r 2).index < 64
        ∧ (sparseGet (0, 0, 0) (rangeHeld (BitVec.ofNat 8 o)).owners.ranges (r 2).index).2.1 ≠ 0 ∧ sparseWf (0, 0, 0) (rangeHeld (BitVec.ofNat 8 o)).owners.ranges = true)
    ∧ (sparseGet (0, 0, 0) (rangeHeld 0).owners.ranges 0).2.2 = (r 2).owner
    ∧ (sparseGet (0, 0, 0) (rangeHeld 1).owners.ranges 0).2.2 ≠ (r 2).owner := by decide +kernel

theorem witness_softwareAlert :
    partyOf canA = some ({ State.reset with owners := { alert := ownerManager } }).owners.alert
    ∧ partyOf canA ≠ some State.reset.owners.alert := by decide +kernel

theorem witness_security :
    PortFree State.reset canA ∧ State.reset.security.updating = none ∧ State.reset.security.quoting = none
    ∧ ([1, 2] : List Byte).length ≤ 32
    ∧ ({ State.reset with security := { updating := some 0 } }).security.updating = some 0
    ∧ ({ State.reset with security := { quoting := some [] } }).security.quoting = some []
    ∧ (∀ m ∈ State.reset.security.mr.toList, m.length = 32) := ⟨canA_free, by decide +kernel⟩

/-- Die 0 with its bank B in the given state. -/
def bankB (x : BankState) : State := modDie State.reset 0 fun r => { r with bankB := { state := x } }

theorem witness_library :
    PortFree (bankB .loaded) canA ∧ FirstWrite (bankB .loaded) 0x3300 7 [1]
    ∧ (bankOf (bankB .empty).dies[0] true).state = .empty ∧ (bankOf State.reset.dies[0] false).state = .active
    ∧ (modDie State.reset 0 fun r => { r with loading := some (0, true) }).dies[0].loading = some (0, true)
    ∧ (bankOf (bankB .loaded).dies[0] (!(bankB .loaded).dies[0].activeB)).state = .loaded
    ∧ (bankOf (bankB .loading).dies[0] (!(bankB .loading).dies[0].activeB)).state = .loading
    ∧ (bankOf (bankB .draining).dies[0] (!(bankB .draining).dies[0].activeB)).state = .draining :=
  ⟨by unfold PortFree; decide +kernel, rfl, by decide +kernel⟩
/-- A value of a table of `n`-byte entries with one entry set. -/
def oneEntry (n i v : Nat) : List Byte := List.replicate (n * i) 0 ++ leBytes n v

/-- The queue end of the manual's worked example, 010h: both rings X, slot 2, engine 0, 1,024 strips from strip 0 on. -/
def exampleQueueEnd : Nat := 0xA900000800000000

/-- The entries that a written queue-end table holds. -/
def newEnd (l : List Byte) (q : Nat) : BitVec 64 := dropBits (writtenEntry 64 8 l q) 24 0
def oneEnd : List Byte := oneEntry 8 0x10 exampleQueueEnd
def twoEnds : List Byte := oneEnd ++ leBytes 8 exampleQueueEnd

theorem entry_past {w n i : Nat} {data : List Byte} (h : data.length ≤ i * n) : writtenEntry w n data i = bytesWord w (fitBytes n []) := by
  unfold writtenEntry sliceBytes
  rw [List.drop_eq_nil_of_le h]

theorem entry_past8 {i : Nat} {l : List Byte} (h : l.length ≤ i * 8) : (writtenEntry 64 8 l i : BitVec 64) = 0 := by
  rw [entry_past h]
  decide +kernel

theorem entry_past4 {i : Nat} {l : List Byte} (h : l.length ≤ i * 4) : (writtenEntry 32 4 l i : BitVec 32) = 0 := by
  rw [entry_past h]
  decide +kernel

theorem entry_past32 {i : Nat} {l : List Byte} (h : l.length ≤ i * 32) : (writtenEntry 256 32 l i : BitVec 256) = 0 := by
  rw [entry_past h]
  decide +kernel

theorem newEnd_past {l : List Byte} {q : Nat} (h : l.length ≤ q * 8) : newEnd l q = 0 := by
  unfold newEnd
  rw [entry_past8 h]
  decide +kernel

theorem below_17 {p : Nat → Prop} (h : ∀ q < 17, p q) (k : ∀ q, 17 ≤ q → p q) (q : Nat) : p q :=
  (Nat.lt_or_ge q 17).elim (h q) (k q)

theorem oneEnd_length : oneEnd.length = 136 := by decide +kernel

theorem witness_queueEndTable :
    PortFree State.reset canA ∧ sparseWf 0 State.reset.queuePos = true
    ∧ (∀ q < 4096, newEnd oneEnd q ≠ qEntry State.reset 0 q → q = 0x10)
    ∧ (∀ p < 4096, p ≠ 0x10 → stripsMeet (newEnd oneEnd 0x10) (newEnd oneEnd p) = false)
    ∧ (oneEnd.length ≤ 32768 ∧ newEnd oneEnd 0x10 ≠ qEntry State.reset 0 0x10 ∧ queueEndOk (newEnd oneEnd 0x10) = true
      ∧ slotBusy State.reset (qeSlot (newEnd oneEnd 0x10)) (some 0) = false ∧ qeEnable (qEntry State.reset 0 0x10) = false
      ∧ (∀ x ∈ entriesOf State.reset 0 0x10, x.freed = true))
    ∧ (newEnd twoEnds 0x10 ≠ qEntry State.reset 0 0x10 ∧ stripsMeet (newEnd twoEnds 0x10) (newEnd twoEnds 0x11) = true) :=
  ⟨canA_free, by decide +kernel, fun q _ => below_17 (p := fun q => newEnd oneEnd q ≠ qEntry State.reset 0 q → q = 0x10) (by decide +kernel)
      (fun q h k => absurd (newEnd_past (by rw [oneEnd_length]; omega)) k) q,
    fun q _ => below_17 (p := fun q => q ≠ 0x10 → stripsMeet (newEnd oneEnd 0x10) (newEnd oneEnd q) = false) (by decide +kernel)
      (fun q h _ => by rw [newEnd_past (l := oneEnd) (q := q) (by rw [oneEnd_length]; omega)]; decide +kernel) q,
    by decide +kernel, by decide +kernel⟩

/-- A WAIT_SET of the slot in flight, as it issues. -/
def slotUsed : State := withTk (issuedTk (desc [(0, 0, 0x900)])) State.reset

theorem witness_flagTable :
    PortFree slotUsed canA
    ∧ (∀ f < 4096, writtenEntry 32 4 (oneEntry 4 0x10 0x0000802C) f ≠ 0 → f = 0x10)
    ∧ (let e : BitVec 32 := writtenEntry 32 4 (oneEntry 4 0x10 0x0000802C) 0x10
       e ≠ 0 ∧ slotBusy State.reset (feSlot e) (some 0) = false
         ∧ feEnable e = true ∧ slotBusy slotUsed (feSlot e) (some 0) = true ∧ sparseGet 0 slotUsed.flags (0 + 0x10) = 0) :=
  ⟨by unfold PortFree; decide +kernel,
    fun q _ => below_17 (p := fun f => writtenEntry 32 4 (oneEntry 4 0x10 0x0000802C) f ≠ 0 → f = 0x10) (by decide +kernel)
      (fun q h k => absurd (entry_past4 (by rw [show (oneEntry 4 0x10 0x0000802C).length = 68 by decide +kernel]; omega)) k) q,
    by decide +kernel⟩

/-- Entry 5 of the variant table: resident for slot 0 with 8 tensor IDs from 0 on and no partner state. -/
def exampleVariant : Nat := 0x80 + 1 * 2 ^ 8 + 5 * 2 ^ 16 + 0x10000000000 * 2 ^ 64

/-- The variant table with one entry written, and the state that admits it. -/
def newVariant (x v : Nat) : BitVec 256 := writtenEntry 256 32 (oneEntry 32 5 x) v
def eightScales : State := atSlot 0 fun r => { r with scaleCount := 8 }

theorem newVariant_past {v : Nat} (h : 6 ≤ v) : newVariant exampleVariant v = 0 :=
  entry_past32 (by rw [show (oneEntry 32 5 exampleVariant).length = 192 by decide +kernel]; omega)

theorem witness_variantTable :
    (∀ v < 512, newVariant exampleVariant v = 0 ∨ v = 5)
    ∧ (let e := newVariant exampleVariant 5
       variantFields e = e ∧ bitsOf e 24 16 = 5 ∧ bitOf e 7 = true ∧ 1 ≤ bitsOf e 15 8 ∧ bitsOf e 15 8 ≤ 32
         ∧ bitsOf e 55 32 + 7 < (eightScales.slots[variantSlot e]).scaleCount.toNat ∧ bitsOf e 127 64 % 4096 = 0 ∧ bitsOf e 159 128 % 256 = 0
         ∧ inJobTier2 (bitsOf e 127 64) (max 1 (bitsOf e 159 128)) = true ∧ e ≠ variantEntry slotUsed 5
         ∧ (∀ j : Slot, slotBusy eightScales j none = false) ∧ slotBusy slotUsed (variantSlot e) none = true)
    ∧ (let e := newVariant (exampleVariant + 16) 5
       e ≠ 0 ∧ variantFields e ≠ e) := by
  refine ⟨fun v _ => ?_, by decide +kernel, by decide +kernel⟩
  rcases Nat.lt_or_ge v 6 with h | h
  · revert v
    decide +kernel
  · exact Or.inl (newVariant_past h)

/-- Entry 0 of a buffer table: two buffers of 4 KiB at the start of tier 2. -/
def exampleBuffers : Nat := 0x10000000000 + 0x10000001000 * 2 ^ 64 + 4096 * 2 ^ 128

def newBuffer (x v : Nat) : BitVec 256 := dropBits (dropBits (writtenEntry 256 32 (oneEntry 32 0 x) v) 174 169) 255 176

theorem newBuffer_past {v : Nat} (h : 1 ≤ v) : newBuffer exampleBuffers v = 0 := by
  unfold newBuffer
  rw [entry_past32 (by rw [show (oneEntry 32 0 exampleBuffers).length = 32 by decide +kernel]; omega)]
  decide +kernel

theorem newBuffers_eq : (List.range 512).map (newBuffer exampleBuffers) = newBuffer exampleBuffers 0 :: List.replicate 511 0 := by
  rw [show (512 : Nat) = 511 + 1 from rfl, List.range_succ_eq_map, List.map_cons, List.map_map]
  refine congrArg _ ?_
  rw [show (newBuffer exampleBuffers ∘ Nat.succ) = fun _ => (0 : BitVec 256) from funext fun v => newBuffer_past (Nat.succ_pos v),
    List.map_const', List.length_range]

theorem witness_bufferTable :
    slotBusy State.reset 0 none = false ∧ State.reset.slots[0].copy = none ∧ (∀ v < 512, bufferEntryOk (newBuffer exampleBuffers v) = true)
    ∧ anyMeet (((List.range 512).map (newBuffer exampleBuffers)).flatMap buffersOf) = false
    ∧ bufferEntryOk (newBuffer (exampleBuffers + 1) 0) = false ∧ slotBusy slotUsed 0 none = true := by
  refine ⟨by decide +kernel, by decide +kernel, ?_, by rw [newBuffers_eq]; decide +kernel, by decide +kernel, by decide +kernel⟩
  intro v _
  rcases Nat.eq_zero_or_pos v with rfl | h
  · decide +kernel
  · rw [newBuffer_past h]
    decide +kernel

/-- Entry 0 of the net-host table: two halves of 4 KiB at the start of tier 2, for owner 2. -/
def exampleNetHost : Nat := 0x8000 + 2 * 2 ^ 16 + 0x10000000000 * 2 ^ 64 + 4096 * 2 ^ 128

def newNet (v : Nat) : BitVec 256 :=
  dropBits (dropBits (dropBits (dropBits (writtenEntry 256 32 (oneEntry 32 0 exampleNetHost) v) 14 13) 31 20) 63 32) 255 192
def liveNets : List (BitVec 256) := ((List.range 16).map newNet).filter netValid

theorem witness_netHosts :
    PortFree State.reset .ucie ∧ rwmOk State.reset .ucie = true ∧ anyMeet (liveNets.map fun e => (netBase e, 2 * netHalf e)) = false
    ∧ liveNets.length = 1
    ∧ (liveNets.all fun e => netBase e % 4096 == 0 && inTier2 (netBase e) (max 1 (2 * netHalf e)) && decide (netBase e + 2 * netHalf e ≤ headBase)
          && rangeFree State.reset (netBase e) (2 * netHalf e) (BitVec.ofNat 8 (bitsOf e 19 16))) = true
    ∧ rwmOk State.reset toolA = false ∧ (oneEntry 32 0 exampleNetHost).length ≤ 512 ∧ (oneEntry 8 1 3).length ≤ 65536 :=
  ⟨reset_free _ (by decide), by decide +kernel⟩

theorem witness_rings :
    let baseOk (d n : Nat) := n % 4096 = 0 ∧ d * (2 * stackSpan) ≤ n ∧ n < (d + 1) * (2 * stackSpan)
    let sizeOk (most n : Nat) := n = 0 ∨ (isPow2 n = true ∧ 16 ≤ n ∧ n ≤ most)
    (slotBusy State.reset 0 (some 0) = false ∧ slotBusy slotUsed 0 (some 0) = true)
    ∧ (baseOk 0 0 ∧ baseOk 0 (2 * stackSpan - 4096) ∧ baseOk 3 (6 * stackSpan) ∧ ¬ baseOk 3 0 ∧ ¬ baseOk 0 (2 * stackSpan) ∧ ¬ baseOk 0 0x800)
    ∧ (∀ n ∈ [0, 16, 256, 65536], sizeOk 65536 n) ∧ (∀ n ∈ [8, 24, 131072], ¬ sizeOk 65536 n) ∧ sizeOk 256 256 ∧ ¬ sizeOk 256 512
    ∧ (ringEmpty State.reset.dies[0].u = true ∧ getTk State.reset (Fin.ofNat 1024 (0 * 256 + 255)) = none
        ∧ ringEmpty { State.reset.dies[0].u with size := 16, tail := 1 } = false) := by decide +kernel

theorem witness_settings :
    (500 ≤ (500 : BitVec 16).toNat ∧ (2690 : BitVec 16).toNat ≤ 2690 ∧ ¬ (500 ≤ (499 : BitVec 16).toNat))
    ∧ (slotBusy State.reset 0 none = false ∧ 100 ≤ (2000 : BitVec 16).toNat ∧ (2000 : BitVec 16).toNat ≤ 2000
        ∧ (2000 : BitVec 16).toNat % 20 = 0 ∧ (110 : BitVec 16).toNat % 20 ≠ 0)
    ∧ (State.reset.fabric.portEnable.getLsbD (31 : PortId).val = true ∧ (0 : BitVec 32).getLsbD (31 : PortId).val = false)
    ∧ (∀ s ∈ [{ State.reset with fabric := { portEnable := 0 } }], s.fabric.portEnable.getLsbD (0 : PortId).val = false
        ∧ (1 : BitVec 32).getLsbD (0 : PortId).val = true ∧ s.fabric.portEnable.getLsbD (1 : PortId).val = (1 : BitVec 32).getLsbD (1 : PortId).val)
    ∧ (channelBusy State.reset 63 = false ∧ (15 : BitVec 8).toNat < 16 ∧ 1 ≤ (8192 : BitVec 16).toNat ∧ (8192 : BitVec 16).toNat ≤ 8192
        ∧ (8191 : BitVec 16).toNat < 8192 ∧ State.reset.chans[(63 : ChanId)].members = 0
        ∧ (let s := modChan State.reset 63 fun r => { r with members := 8192 }
           channelBusy s 63 = false ∧ (oneEntry 4 8191 1).length = 4 * s.chans[(63 : ChanId)].members.toNat
             ∧ (oneEntry 4 8190 1).length ≠ 4 * s.chans[(63 : ChanId)].members.toNat)) := by
  decide +kernel

theorem witness_channelBusy :
    let s := withTk (issuedTk (desc [(0, 0, 0x300), (80, 46, 2), (95, 0, 63)])) State.reset
    channelBusy s 63 = true ∧ channelBusy s 0 = false ∧ PortFree s canA :=
  ⟨by decide +kernel, by decide +kernel, by unfold PortFree; decide +kernel⟩

/-- Engine 7 with another value. -/
def atEngine (f : EngineR → EngineR) : State := modEng State.reset 7 f

theorem witness_retirement :
    (let r := State.reset.engines[(7 : Eng)]
     (0x8207 : BitVec 16).toNat % 1024 = 519 ∧ r.state ≠ .retired ∧ (Fin.ofNat 520 519 : Fin 520) ∉ r.retiredCols)
    ∧ ¬ (0x0208 : BitVec 16).toNat % 1024 ≤ 519
    ∧ (TicketsPlaced State.reset ∧ State.reset.engines[(7 : Eng)].state ≠ .retired ∧ engIdle State.reset 7 = true
        ∧ engIdle (atEngine fun r => { r with swapTok := some 0 }) 7 = false)
    ∧ (atEngine fun r => { r with state := .retired }).engines[(7 : Eng)].state = .retired := by
  refine ⟨by decide +kernel, by decide +kernel, ⟨⟨by decide +kernel, by intro p h; cases h⟩, by decide +kernel⟩, by decide +kernel⟩

theorem witness_repair :
    (∀ n ∈ [6, 7], let s := atEngine fun r => { r with retireQ := [(false, 519)], retiredRows := (List.finRange 520).take n }
      engQuiet s 7 = true ∧ s.engines[(7 : Eng)].retireDue = false ∧ s.engines[(7 : Eng)].retireQ = [(false, 519)]
        ∧ s.engines[(7 : Eng)].retiredRows.length = n)
    ∧ (let s := atEngine fun r => { r with retireDue := true }
       engQuiet s 7 = true ∧ s.engines[(7 : Eng)].retireDue = true)
    ∧ (let s := atEngine fun r => { r with diagnostics := [15] }
       s.engines[(7 : Eng)].diagnostics = [15] ∧ engQuiet s 7 = true ∧ s.engines[(7 : Eng)].active = none
         ∧ s.engines[(7 : Eng)].shadow = none ∧ heldBy s (.engine 7) = 0 ∧ 511 ∈ chunkRows s.engines[(7 : Eng)] 15
         ∧ 512 ∉ chunkRows s.engines[(7 : Eng)] 15) := by decide +kernel

/-- The doorbell of R396's example: the new tail 0040h of ring H of die 1, slot 2. -/
theorem test_doorbellWord : bellCommand 7 0x12000040 = some (.doorbellH 7 1 2 0x40) := by decide +kernel

/-- A header for data step 3 of slot 0 as it stands after reset, with the given stream step. -/
def exampleHeader (stream : Nat) : List Byte :=
  headerBytes (atSlot 0 fun r => { r with restoreStep := 3 }) 0 0 1 3 stream 0 []

set_option maxRecDepth 20000 in
theorem witness_restoreCommand :
    let s (source : BitVec 16) := atSlot 0 fun r => { r with restoreStep := 3, restoreSource := source }
    ((s 0).slots[0].slotState ≠ .restoring ∧ slotBusy (s 0) 0 none = false ∧ (s 0).slots[0].copy = none)
    ∧ (atSlot 0 fun r => { r with slotState := .restoring }).slots[0].slotState = .restoring
    ∧ restoreOwn (s 1) 0 = false ∧ restoreOwn (s 0) 0 = true ∧ headerOk (s 0) 0 (memBytes (s 0) 0 256) = false
    ∧ headerOk (s 1) 0 (exampleHeader 3) = true ∧ headerGoes (s 1) 0 (exampleHeader 3) = true ∧ fieldNat (exampleHeader 3) 12 4 = fieldNat (exampleHeader 3) 24 4
    ∧ headerOk (s 1) 0 (exampleHeader 4) = true ∧ fieldNat (exampleHeader 4) 12 4 ≠ fieldNat (exampleHeader 4) 24 4
    ∧ (s 1).slots[0].skew = false := by decide +kernel

/-- A restore of slot 0 from another module that awaits its payload. -/
def exampleRun (check : BitVec 32) : RestoreRun :=
  { header := [], own := false, source := 1, base := 0, dataStep := 3, streamStep := 3, seed := 9, check := check }
def restoring (check : BitVec 32) : State := atSlot 0 fun r => { r with slotState := .restoring, restore := some (exampleRun check) }

theorem restore_payload (c : BitVec 32) : payloadBursts (restoring c) (exampleRun c) (payloadBytes (restoring c) 0) []
    = payloadBursts (restoring 0) (exampleRun 0) (payloadBytes (restoring 0) 0) [] := by
  have h : payloadBytes (restoring c) 0 = payloadBytes (restoring 0) 0 := rfl
  rw [h]
  rfl

/-- The check value that the payload of that restore folds to. -/
def restoredCheck (c : BitVec 32) : BitVec 32 := foldBursts (payloadBursts (restoring c) (exampleRun c) (payloadBytes (restoring c) 0) [])

theorem some_check_matches (f : BitVec 32 → BitVec 32) (h : ∀ c, f c = f 0) : ∃ v, f v = (exampleRun v).check ∧ f (v + 1) ≠ (exampleRun (v + 1)).check :=
  ⟨f 0, h _, fun k => by rw [h] at k; change f 0 = f 0 + 1 at k; generalize f 0 = v at k; bv_omega⟩

theorem witness_restoreEnds :
    ((restoring 0).power = .running ∧ (restoring 0).slots[0].slotState = .restoring ∧ (restoring 0).slots[0].restore = some (exampleRun 0)
      ∧ (exampleRun 0).own = false)
    ∧ (payloadBursts (restoring 0) (exampleRun 0) (payloadBytes (restoring 0) 0) []).all (fun x => !x.2) = true
    ∧ ∃ v, restoredCheck v = (exampleRun v).check ∧ restoredCheck (v + 1) ≠ (exampleRun (v + 1)).check :=
  ⟨by decide +kernel, by decide +kernel, some_check_matches restoredCheck fun c => congrArg foldBursts (restore_payload c)⟩

theorem witness_slotAbort : PortFree slotUsed canA ∧ FirstWrite slotUsed 0x6010 0x18 [1] ∧ slotUsed.isolated = []
    ∧ anyArmed slotUsed = false ∧ sparseWf none slotUsed.tickets = true ∧ (slotUsed.tickets.all fun p => p.2.all fun k => k.ticket.val == p.1) = true
    ∧ (getTk slotUsed 0).isSome = true := ⟨by unfold PortFree; decide +kernel, rfl, by decide +kernel⟩
/-- A worker of node 5. -/
def worker : State := { State.reset with straps := { node := 5, manager := false } }

theorem witness_fieldFrames :
    (State.reset.power = .running ∧ ({ State.reset with field := { alarmDue := true } }).field.alarmDue = true)
    ∧ (busState State.reset .fbA ≠ 2 ∧ (0 : BitVec 6) = State.reset.straps.node ∧ (63 : BitVec 6) ≠ State.reset.straps.node
        ∧ State.reset.straps.manager = true)
    ∧ (worker.power = .running ∧ isWorker worker = true ∧ (0 : BitVec 6) ≠ worker.straps.node)
    ∧ busState State.reset .fbB ≠ 3
    ∧ busState (setBus State.reset .fbB 2) .fbB = 2
    ∧ (({ bus := .fbA } : Carrier) = ownCarrier State.reset .fbA ∧ ({ bus := .fbA, vcid := 7 } : Carrier) ≠ ownCarrier State.reset .fbA)
    ∧ (let s := { State.reset with power := .bootFault false }
       s.power = .bootFault false ∧ s.mailbox.linkUp = true ∧ s.field.frWaiting = false) := by decide +kernel

theorem witness_fieldRelay :
    let cmd : BitVec 64 := 0x8000000000000000
    (State.reset.mailbox.linkUp = true ∧ State.reset.field.frWaiting = false ∧ cmd.getLsbD 63 = true ∧ (0 : BitVec 64).getLsbD 63 = false
      ∧ State.reset.straps.manager = true ∧ worker.straps.manager = false)
    ∧ (let s := after (.fieldRelay (0x8000000000000000 + 9 * 2 ^ 48) []) State.reset
       s.power = .running ∧ s.field.frWaiting = true ∧ ({ bus := relayBus s.field.frCmd } : Carrier) = ownCarrier s (relayBus s.field.frCmd) ∧ relayNode s.field.frCmd ≠ s.straps.node ∧ busState s (relayBus s.field.frCmd) ≠ 2
         ∧ relayMatches s (relayBus s.field.frCmd) (relayNode s.field.frCmd) (relayAccept s.field.frCmd) = true
         ∧ relayMatches s (relayBus s.field.frCmd) (relayNode s.field.frCmd + 1) (relayAccept s.field.frCmd) = false
         ∧ relayNode s.field.frCmd + 1 ≠ s.straps.node) := by decide +kernel

/-- The last two bursts of tier 2. -/
def lastBursts : BitVec 56 := 0x2FFFFFFFE00

theorem witness_headWrites :
    let data : List Byte := List.replicate 512 7
    (HeadServed State.reset ∧ data.length = 256 * (data.length / 256) ∧ 1 ≤ data.length / 256 ∧ data.length / 256 ≤ 256
      ∧ (List.replicate 512 true).length = data.length
      ∧ headRangeOk State.reset lastBursts data.length true = true
      ∧ (∀ i < 2, headWaits State.reset State.reset.headQueue (globalLocal lastBursts.toNat / 256 + i) = false) ∧ State.reset.memWf = true)
    ∧ (let s := { State.reset with headQueue := [.write 0 [(globalLocal lastBursts.toNat / 256 + 1, [], none)] false] }
       HeadServed s ∧ headRangeOk s lastBursts data.length true = true ∧ s.memWf = true
         ∧ headWaits s s.headQueue (globalLocal lastBursts.toNat / 256 + 1) = true)
    ∧ headRangeOk State.reset lastBursts (256 * (1 : BitVec 8).toNat + 1) false = true
    ∧ headRangeOk State.reset lastBursts (256 * (2 : BitVec 8).toNat + 1) false = false
    ∧ (let s := { State.reset with poison := [(globalLocal lastBursts.toNat / 256, true)] }
       HeadServed s ∧ s.memWf = true ∧ burstBad s (globalLocal lastBursts.toNat / 256) = true
         ∧ burstTripped s (globalLocal lastBursts.toNat / 256) = false ∧ burstBad s (globalLocal lastBursts.toNat / 256 + 1) = false) := by
  unfold HeadServed
  decide +kernel

theorem witness_doorbells :
    (HeadServed State.reset ∧ State.reset.headQueue = [])
    ∧ (let s := { State.reset with headQueue := [.bell 0 .h 0 0 1] }
       HeadServed s ∧ s.headQueue ≠ [])
    ∧ (let s := { State.reset with mailbox := { State.reset.mailbox with evSize := 16 } }
       s.mailbox.linkUp = true ∧ s.power = .running ∧ s.mailbox.evSize ≠ 0 ∧ s.mailbox.evHead = s.mailbox.evTail ∧ 1 ≠ s.mailbox.evTail)
    ∧ (let x : Ring := { base := 0x1000, size := 16, head := 15, tail := 0 }
       x.head.toNat < x.size.toNat ∧ x.tail.toNat < x.size.toNat ∧ tailOk x (14 : BitVec 16).toNat = true ∧ tailOk x (15 : BitVec 16).toNat = false)
    ∧ (let s := modRings State.reset 0 0 fun q => { q with h := { size := 16 }, c := { size := 16, tail := 3 } }
       (ringsOf s 0 0).h.size ≠ 0 ∧ (ringsOf s 0 0).c.size ≠ 0 ∧ tailOk (ringsOf s 0 0).h 15 = true ∧ headOk (ringsOf s 0 0).c 3 = true
         ∧ headOk (ringsOf s 0 0).c 4 = false)
    ∧ (State.reset.mailbox.linkUp = true ∧ State.reset.power = .running ∧ (0x2F000000000 : BitVec 64).toNat % 4096 = 0
        ∧ headBase ≤ (0x2F000000000 : BitVec 64).toNat ∧ (0x2F000000000 : BitVec 64).toNat < tier2End)
    ∧ (isPow2 (65536 : BitVec 64).toNat = true ∧ 16 ≤ (65536 : BitVec 64).toNat ∧ (65536 : BitVec 64).toNat ≤ 65536)
    ∧ bitOf (0x7FFFFFFFFFFFFFFF : BitVec 64) 63 = false := by
  unfold HeadServed
  decide +kernel

/-- The reset state with another power manager. -/
def withPm (p : PowerR) : State := { State.reset with pm := p }

/-- An interval without events has the fixed part alone for its estimate. -/
theorem no_events (rail : Nat) : eventEnergy rail {} = 0 := by simp [eventEnergy]

/-- The estimate of an interval without events, as the statement forms it. -/
def idleEstimate (p : PowerR) (micros : Nat) : Nat := (((eventEnergy p.railTarget {} / micros : Nat) : Int) + p.fixedPart / 16).toNat

theorem idleEstimate_eq (p : PowerR) (micros : Nat) : idleEstimate p micros = (p.fixedPart / 16).toNat := by
  unfold idleEstimate
  rw [no_events, Nat.zero_div]
  simp

theorem witness_capLoop :
    let s := withPm { cap := 500, capLimit := 100, unmetSamples := 124, fixedPart := 16 * 500001 }
    (s.power = .running ∧ s.pm.distrusted = false ∧ s.pm.cap ≠ 0 ∧ s.pm.cap.toNat * 1000 < idleEstimate s.pm 8 ∧ s.pm.capLimit = 100
      ∧ 125 ≤ s.pm.unmetSamples + 1 ∧ s.pm.unmetRaised = false)
    ∧ (State.reset.pm.cap = 0 ∧ (withPm { distrusted := true }).pm.distrusted = true)
    ∧ (let r (mw : Int) := withPm { cap := 500, capLimit := 1980, capBelow := 124, capSinceRise := 124, fixedPart := 16 * mw }
       (r 485000).pm.cap ≠ 0 ∧ ¬ (r 485000).pm.cap.toNat * 1000 < idleEstimate (r 485000).pm 8
         ∧ 100 * idleEstimate (r 485000).pm 8 ≤ 97 * ((r 485000).pm.cap.toNat * 1000) ∧ 125 ≤ (r 485000).pm.capBelow + 1
         ∧ 125 ≤ (r 485000).pm.capSinceRise + 1 ∧ (r 485000).pm.capLimit < 2000
         ∧ ¬ 100 * idleEstimate (r 485001).pm 8 ≤ 97 * ((r 485001).pm.cap.toNat * 1000)) := by
  simp only [idleEstimate_eq]
  decide +kernel

theorem witness_guardAndHeat :
    (State.reset.power = .running ∧ State.reset.pm.guardActive = false ∧ (withPm { guardActive := true }).pm.guardActive = true)
    ∧ (48000 < 48001 ∧ 48000 ≤ 48000 ∧ 45999 < 46000 ∧ 46000 ≤ 46000) ∧ ((110000 : Int) < 110001 ∧ (104999 : Int) < 105000) := by decide +kernel

theorem witness_estimator :
    (let s := withPm { offBy25 := 49, fixedPart := 16 * 126 }
     let e := idleEstimate s.pm 1000
     s.pm.distrusted = false ∧ ¬ e ≤ 100 ∧ 50 ≤ (if 100 < 4 * (e - 100) then s.pm.offBy25 + 1 else 0) ∧ State.reset.pm.offBy25 + 1 < 50)
    ∧ (let s := withPm { distrusted := true, within10 := 9999, fixedPart := 16 * 100 }
       let e := idleEstimate s.pm 1000
       s.pm.distrusted = true ∧ e ≤ 110 ∧ 10000 ≤ (if 10 * (110 - e) ≤ 110 then s.pm.within10 + 1 else 0)
         ∧ (if 10 * (112 - e) ≤ 112 then s.pm.within10 + 1 else 0) < 10000) := by
  simp only [idleEstimate_eq]
  decide +kernel

theorem witness_monitorAndWear :
    (State.reset.power = .running ∧ State.reset.engines[(0 : Eng)].state ≠ .retired ∧ State.reset.pm.rail ≠ 860)
    ∧ (let s := withPm { rail := 860, wear := 31535998 }
       s.pm.rail = 860 ∧ (countUp s.pm.wear).toNat < 31536000)
    ∧ (let s := { atSlot 3 (fun r => { r with inForce := { r.inForce with power := .peak } }) with pm := { rail := 860, wear := 31535999 } }
       s.pm.rail = 860 ∧ 31536000 ≤ (countUp s.pm.wear).toNat ∧ s.slots[(3 : Slot)].inForce.power = .peak)
    ∧ (let s := withPm { rail := 860, wear := 31535999 }
       31536000 ≤ (countUp s.pm.wear).toNat
         ∧ ∀ j : Slot, ¬ (s.slots[j].inForce.power = .peak ∨ (s.slots[j].phase = .committing ∧ s.slots[j].coming.power = .peak))) := by decide +kernel

/-- Die 0 with a descriptor at the head of ring H of slot 0, and ring C enabled. -/
def withHead (d : Desc) : State :=
  memPut (modRings State.reset 0 0 fun r =>
    { r with h := { base := 0x1000, size := 16, tail := 1 }, c := { base := 0x3000, size := 16 } }) 0x1000 (leBytes 128 d.toNat)

theorem witness_fetch :
    (∀ f ∈ [[(0, 0, 0x900)], [(0, 0, 0x9FF)], [(0, 0, 0x900), (2, 0, 256)]],
      let s := withHead (desc f)
      dispatchRuns s 0 = true ∧ s.integrity.swapDue[diePair 0] = none ∧ ringEmpty (ringAt s 0 .h 0) = false
        ∧ urgentReady s 0 = false ∧ (ringsOf s 0 0).c.size ≠ 0 ∧ ringTurn s 0 (turnOf .h 0) = true ∧ (headDesc s (ringAt s 0 .h 0)).1 = desc f)
    ∧ (let s := withHead (desc [(0, 0, 0x900)])
       let k := freshTk s (headDesc s (ringAt s 0 .h 0)).1 0 .h 0 0
       ticketOk 0 .h k.ticket = true ∧ getTk s k.ticket = none ∧ screenDesc s k false = none)
    ∧ (let s := withHead (desc [(0, 0, 0x9FF)])
       screenDesc s (freshTk s (headDesc s (ringAt s 0 .h 0)).1 0 .h 0 0) false = some .invalid)
    ∧ (let s := withHead (desc [(0, 0, 0x900), (2, 0, 256)])
       let k := freshTk s (headDesc s (ringAt s 0 .h 0)).1 0 .h 0 0
       ticketOk 0 .h k.ticket = false ∧ recordsDue s 0 (dSlot k.desc) = false ∧ ((ringsOf s 0 (dSlot k.desc)).c.tail.toNat + 1) % (ringsOf s 0 (dSlot k.desc)).c.size.toNat
         ≠ (ringsOf s 0 (dSlot k.desc)).c.head.toNat ∧ (ringsOf s 0 (dSlot k.desc)).c.size ≠ 0) := by decide +kernel

/-- A fetched ticket of ring H of die 0. -/
def fetchedTk (d : Desc) : Tk := freshTk State.reset d 0 .h 0 0

theorem witness_issue :
    (let k := fetchedTk (desc [(0, 0, 0x900)])
     let s := withTk k State.reset
     getTk s 0 = some k ∧ k.ticket = 0 ∧ k.phase = .fetched ∧ dispatches s k = true ∧ dispatchWrong s k (waitFlags k) = false
       ∧ dEpoch k.desc = s.slots[dSlot k.desc].epoch ∧ waitsUsable s k = true ∧ dFamily k.desc ≠ some .call ∧ issueReady s k = true
       ∧ (earlier s k).all (fun o => !issueReady s o) = true ∧ judgedAtIssue s k = false
       ∧ dispatchWrong { s with upsets := [.control (.dispatch 0)] } k (waitFlags k) = true)
    ∧ (let k := fetchedTk (desc [(0, 0, 0x300)])
       let s := withTk k State.reset
       issueReady s k = true ∧ judgedAtIssue s k = true)
    ∧ (let k := fetchedTk (desc [(0, 0, 0x900), (6, 0, 1)])
       dEpoch k.desc ≠ (withTk k State.reset).slots[dSlot k.desc].epoch)
    ∧ (let k := fetchedTk (desc [(0, 0, 0x900), (48, 31, 1)])
       dEpoch k.desc = (withTk k State.reset).slots[dSlot k.desc].epoch ∧ waitsUsable (withTk k State.reset) k = false) := by decide +kernel

/-- Two fetched descriptors of die 0, each waiting on the flag that the other one sets. -/
def crossed : State :=
  let t (a b n : Nat) : Tk :=
    { fetchedTk (desc [(0, 0, 0x900), (2, 0, n), (48, 31, 1), (48, 16, a), (48, 0, 1), (64, 63, 1), (64, 48, b), (64, 0, 1)]) with inst := n + 1 }
  { State.reset with tickets := [(0, some (t 0x40 0x41 0)), (1, some (t 0x41 0x40 1))],
                     flags := [(0x40, 0x8001), (0x41, 0x8000)] }

theorem witness_waitCycle :
    (crossed.tickets.all fun p => p.2.all fun k => k.phase == .fetched && dispatches crossed k && k.ticket.val == p.1) = true
    ∧ cycleMembers crossed 0 ≠ [] ∧ cycleMembers (withTk (fetchedTk (desc [(0, 0, 0x900)])) State.reset) 0 = [] := by decide +kernel

/-- A replay under way that has taken nothing yet. -/
def replayRun : ReplayRun := { calls := [], descs := [], taken := 0, flags := [] }

/-- An ended FLAG descriptor that sets flag 040h. -/
def endedTk : Tk := { issuedTk (desc [(0, 0, 0x900), (64, 63, 1), (64, 48, 0x40), (64, 0, 255)]) with phase := .ended }

theorem witness_completion :
    let s := { withTk endedTk State.reset with flags := [(0x40, 0x8000)] }
    (getTk s 0 = some endedTk ∧ endedTk.ticket = 0 ∧ endedTk.phase = .ended ∧ dispatches s endedTk = true
      ∧ unitIsolated s (tkUnit s endedTk) = false ∧ settledTk s endedTk = true ∧ dispatchWrong s endedTk (setFlags s endedTk) = false
      ∧ endedTk.away = false)
    ∧ (setsWithheld (statusOf endedTk.causes) = false
        ∧ setWords endedTk.desc = [(0, { scope := 0, flag := 0x40, module_ := 0, die := 0, remote := false, inc := 255 })]
        ∧ dFamily endedTk.desc ≠ some .collective ∧ feEnable (flagEntry s 0 0x40) = true ∧ feSlot (flagEntry s 0 0x40) = dSlot endedTk.desc
        ∧ feProducer (flagEntry s 0 0x40) = 0 ∧ setsOut s endedTk.inst = false)
    ∧ setsWithheld (statusOf (failTk .invalid endedTk).causes) = true := by decide +kernel

/-- A completed ticket whose record is due. -/
def completedTk (norec : Nat) : Tk := { issuedTk (desc [(0, 0, 0x900), (5, 6, norec)]) with phase := .completed }

theorem witness_records :
    (∀ n ∈ [0, 1], ∀ head ∈ [5, 7],
      let s := withTk (completedTk n) (modRings State.reset 0 0 fun r => { r with c := { base := 0x3000, size := 16, head := BitVec.ofNat 16 head, tail := 6 } })
      getTk s 0 = some (completedTk n) ∧ (completedTk n).ticket = 0 ∧ (completedTk n).phase = .completed ∧ lateDue s 0 = none
        ∧ recordTurn s (completedTk n) = true ∧ dispatches s (completedTk n) = true ∧ dispatchWrong s (completedTk n) [] = false ∧ s.memWf = true
        ∧ statusOf (completedTk n).causes = .ok ∧ (ringsOf s 0 0).c.size ≠ 0 ∧ 0x3000 % 32 = 0 ∧ populated (0x3000 + 32 * 6) 32 = true ∧ burstBad s ((0x3000 + 32 * 6) / 256) = false
        ∧ sparseWf none s.tickets = true ∧ (s.tickets.all fun p => p.2.all fun k => k.ticket.val == p.1) = true)
    ∧ (dNorec (completedTk 1).desc = true ∧ dNorec (completedTk 0).desc = false)
    ∧ ((6 + 1) % 16 = (7 : BitVec 16).toNat ∧ (6 + 1) % 16 ≠ (5 : BitVec 16).toNat)
    ∧ (∀ x ∈ [Status.eccUncorr, .invalid], x ∈ statusOrder) := by decide +kernel
/-- Queue end q of die 0 for slot 0, engine 0, both rings H, 64 strips from strip 64 × (q mod 16) on. -/
def queueEnd (q : Nat) : Nat × BitVec 64 := (q, BitVec.ofNat 64 (2 ^ 63 + 64 * (q % 16) * 2 ^ 40 + 64 * 2 ^ 25))

/-- An entry of zeros, all its block rows valid. -/
def entryOf (rows : Nat) : Entry :=
  { id := 1, producer := 0, slot := 0, epoch := 0, firstStrip := 0, strips := rows / 8, rows := rows, pitch := 512, width := 512, fmt := 0, colPacked := false,
    valid := List.range (rows / 8), poison := [], data := [], owners := [], side := [], freed := false }

/-- Queue ends 010h to 013h, the first three with one entry each; slot 0 with one scale entry; an issued ticket. -/
def fed (rows : Nat) (k : Tk) : State :=
  { withTk k (atSlot 0 fun r => { r with scaleCount := 1 }) with
    queueEnds := [queueEnd 0x10, queueEnd 0x11, queueEnd 0x12, queueEnd 0x13]
    queues := [(0x10, [entryOf rows]), (0x11, [entryOf rows]), (0x12, [entryOf rows])] }

/-- A tile of zeros in FULL. -/
def tile : Tile :=
  { slot := 0, epoch := 0, shape := 0, param := 0, fmt := 0, col0 := false, rows := [], rowSums := [], colSums := [], exps := [], owners := [],
    ready := true, source := (0, 0x10, 1) }

theorem witness_cancel :
    let k := issuedTk (desc [(0, 0, 0xC00)])
    let old := issuedTk (desc [(0, 0, 0xC00), (6, 0, 1)])
    (Begins (withTk k State.reset) 0 k ∧ isFn .cancel 0 k.desc = true ∧ dEpoch k.desc = (withTk k State.reset).slots[(0 : Slot)].epoch)
    ∧ (Begins (withTk old State.reset) 0 old ∧ dEpoch old.desc ≠ (withTk old State.reset).slots[(0 : Slot)].epoch)
    ∧ (let r := { k with phase := .running }
       let s := withTk r (atSlot 0 fun x => { x with epoch := 1 })
       getTk s 0 = some r ∧ r.ticket = 0 ∧ dFamily r.desc = some .cancel ∧ dEpoch r.desc ≠ s.slots[dSlot r.desc].epoch
         ∧ slotDrained s (dSlot r.desc) 0 = true ∧ anyArmed s = false ∧ s.slots[dSlot r.desc].images = []) := by
  unfold Begins NextOnUnit StartsLegal NotArming
  decide +kernel

/-- Descriptors of slot 0 that ask for profile 1. -/
def asksProfile (opcode : Nat) (l : List (Nat × Nat × Nat)) : Tk := issuedTk (desc ((0, 0, opcode) :: (4, 0, 1) :: (5, 7, 1) :: l))

theorem witness_startChecks :
    (∀ x ∈ [(0x900, 0), (0x901, 0), (0xA00, 0), (0xE00, 0), (0xC00, 0), (0x700, 0), (0x600, 0), (0x601, 0), (0x300, 1)],
      let k := asksProfile x.1 [(80, 45, x.2)]
      NextOnUnit (withTk k State.reset) 0 k ∧ ¬ StartsLegal (withTk k State.reset) k)
    ∧ isFn .flag 0 (asksProfile 0x900 []).desc = true ∧ isFn .flag 1 (asksProfile 0x901 []).desc = true
    ∧ (isFn .fence 0 (asksProfile 0xA00 []).desc = true ∧ (asksProfile 0xA00 []).cover = [])
    ∧ isFn .checkarm 0 (asksProfile 0xE00 []).desc = true ∧ isFn .cancel 0 (asksProfile 0xC00 []).desc = true
    ∧ isXfer 0 (asksProfile 0x700 []).desc = true ∧ isFn .stream 0 (asksProfile 0x600 []).desc = true
    ∧ isFn .stream 1 (asksProfile 0x601 []).desc = true ∧ isDrain 0 true (asksProfile 0x300 [(80, 45, 1)]).desc = true := by
  unfold NextOnUnit StartsLegal
  decide +kernel

theorem witness_flagsAndFences :
    (∀ op ∈ [0x900, 0x901, 0xA00], let k := issuedTk (desc [(0, 0, op)]); Begins (withTk k State.reset) 0 k)
    ∧ (let k := { issuedTk (desc [(0, 0, 0xA00)]) with cover := [7] }
       let s := { withTk k State.reset with homeQueue := [.write 7 0 16 []] }
       Begins s 0 k ∧ instBusy s 7 = true)
    ∧ (∀ b ∈ [true, false],
       let k := { issuedTk (desc [(0, 0, 0x901), (80, 0, 0xFFF), (82, 0, 0xFFFF)]) with isReplay := b }
       let s := { withTk k (atSlot 0 fun r => { r with replaying := some replayRun }) with flags := [(0xFFF, 0x8000)] }
       Begins s 0 k ∧ feEnable (flagEntry s 0 0xFFF) = true ∧ feSlot (flagEntry s 0 0xFFF) = dSlot k.desc
         ∧ (s.slots[dSlot k.desc]).replaying ≠ none ∧ feEnable (flagEntry s 0 0) = false) := by
  unfold Begins NextOnUnit StartsLegal NotArming
  decide +kernel

theorem witness_checkarm :
    let k (tap : Nat) := issuedTk (desc [(0, 0, 0xE00), (80, 0, 15), (81, 0, tap), (96, 0, 256)])
    let owned (x : State) : State := { x with owners := { taps := [(0x62, 0)] } }
    (Begins (owned (withTk (k 0x62) State.reset)) 0 (k 0x62) ∧ isFn .checkarm 0 (k 0x62).desc = true ∧ checkarmOk (k 0x62).desc = true
      ∧ (owned (withTk (k 0x62) State.reset)).cvus[chCvu (k 0x62).desc].armed = false
      ∧ tapOwner (owned State.reset) (chTap (k 0x62).desc).toNat = BitVec.ofNat 8 (dSlot (k 0x62).desc).val)
    ∧ tapOwner State.reset (chTap (k 0x62).desc).toNat ≠ BitVec.ofNat 8 (dSlot (k 0x62).desc).val
    ∧ (modCvu State.reset 15 fun c => { c with armed := true }).cvus[chCvu (k 0x62).desc].armed = true
    ∧ checkarmOk (k 0x63).desc = false := by
  unfold Begins NextOnUnit StartsLegal NotArming
  decide +kernel

theorem witness_taps :
    let s := modCvu State.reset 15 fun c => { c with armed := true, tap := 0x70, start := 512, bytes := 512, counted := 1 }
    let c := s.cvus[(15 : Fin 16)]
    (c.armed = true ∧ c.tap.toNat = 0x70 ∧ c.sequence = false ∧ c.start ≤ 1023 ∧ 1023 < c.start + c.bytes ∧ (c.counted + 1).toNat * 256 = c.bytes)
    ∧ ¬ 1024 < c.start + c.bytes ∧ ¬ c.start ≤ 511 := by decide +kernel

/-- Slot 0 with one region of 4 KiB, its copy of data step 1 due, and a route to its partner, module 1. -/
def copying (k : Tk) : State :=
  let s := withTk k (atSlot 0 fun r => { r with mirrorDue := some 1, dueBuffers := [(0, 0x10000000000)], partner := 1, keepBase := 0x10000100000, imageBase := 0x10000200000 })
  { modPort s 0 (fun r => { r with state := 2 }) with
    buffers := [(0, BitVec.ofNat 256 exampleBuffers)], routes := [(1, 0x8000000000000001)] }

theorem witness_mirror :
    let k (src : Nat) := issuedTk (desc [(0, 0, 0xD00), (80, 0, src), (88, 0, 4096), (92, 0, 1)])
    (Begins (copying (k 0x10000000000)) 0 (k 0x10000000000) ∧ isFn .mirror 0 (k 0x10000000000).desc = true ∧ (k 0).isReplay = false
      ∧ (mirrorRegion (copying (k 0x10000000000)) (k 0x10000000000)).isSome = true
      ∧ (copying (k 0x10000000000)).slots[(0 : Slot)].copy = none
      ∧ Reaches (copying (k 0)) (copying (k 0)).slots[(0 : Slot)].partner.toNat ∧ (copying (k 0)).memWf = true
      ∧ burstTripped (copying (k 0)) ((copying (k 0)).slots[(0 : Slot)].keepBase.toNat / 256) = false
      ∧ ∀ p ∈ (copying (k 0x10000000000)).tickets, p.1 = 0)
    ∧ (Begins (copying (k 0x2000)) 0 (k 0x2000) ∧ mirrorRegion (copying (k 0x2000)) (k 0x2000) = none)
    ∧ (let s := after (.mirror 0) (copying (k 0x10000000000))
       s.power = .running ∧ (s.slots[(0 : Slot)].copy.any fun c => c.acks != 0 && c.waiting == some (0, 1, 0)) = true) := by
  unfold Reaches Begins NextOnUnit StartsLegal NotArming
  decide +kernel

theorem witness_mirrorGoesOn :
    let k := issuedTk (desc [(0, 0, 0xD00), (80, 0, 0x10000000000), (88, 0, 4096), (92, 0, 1)])
    (let r := { k with isReplay := true }
     Begins (copying r) 0 r ∧ ∀ p ∈ (copying r).tickets, p.1 = 0)
    ∧ (let r := { k with ticket := 1 }
       let u := { after (.mirror 0) (copying k) with tickets := [(1, some r)] }
       Begins u 1 r ∧ (mirrorRegion u r).isSome = true ∧ (u.slots[(0 : Slot)]).copy.isSome = true) := by
  unfold Begins NextOnUnit StartsLegal NotArming
  decide +kernel

/-- A MATMUL of mode m on engine 0: FULL, L8f, 8 rows from queue end 010h. -/
def matmulTk (m : Nat) : Tk := issuedTk (desc ([(80, 46, m), (96, 0, 8)] ++ if m = 3 then [] else [(24, 0, 0x8010)]))

/-- A state in which that MATMUL can begin; CONTINUE and ACCEPT meet an OPEN set. -/
def matmulState (m : Nat) (a : Option Tile) : State :=
  let s := modEng (fed 8 (matmulTk m)) 0 fun r => { r with active := a, emptied := a.isNone }
  if m = 1 ∨ m = 2 then s else modSet s 0 0 fun r => { r with state := .opened }

theorem witness_matmul :
    (∀ m ∈ [0, 1, 2, 3], ∀ a ∈ [none, some tile],
      let s := matmulState m a
      let k := matmulTk m
      let v := started s k
      let q := startedTk s k
      Begins s 0 k ∧ dFamily k.desc = some .matmul ∧ setTurn s k = true ∧ s.engines[(0 : Eng)].run = none ∧ s.engines[(0 : Eng)].swapTok = none
        ∧ s.engines[(0 : Eng)].active = a ∧ s.engines[(0 : Eng)].ahead = none
        ∧ (if m = 3 then engRetired s 0 = false ∧ setMine v q = true ∧ (accSet s 0 (dAccSet k.desc)).incoming = none
           else arrayOk v q = true ∧ (matmulScales v q).1.isSome = true
             ∧ if m = 0 then setMine v q = true ∧ rowsFit k.desc (accSet s 0 (dAccSet k.desc)).rows = true else openOk v q = true))
    ∧ (dAccMode (matmulTk 0).desc = .continue_ ∧ dAccMode (matmulTk 1).desc = .start ∧ dAccMode (matmulTk 2).desc = .seed
        ∧ dAccMode (matmulTk 3).desc = .accept)
    ∧ (let s := withTk (matmulTk 1) State.reset
       Begins s 0 (matmulTk 1) ∧ arrayOk (started s (matmulTk 1)) (startedTk s (matmulTk 1)) = false)
    ∧ (let s := withTk (matmulTk 3) State.reset
       Begins s 0 (matmulTk 3) ∧ setMine (started s (matmulTk 3)) (startedTk s (matmulTk 3)) = false) := by
  unfold Begins NextOnUnit StartsLegal NotArming
  decide +kernel

def loadTk : Tk := issuedTk (desc [(0, 0, 0x400), (24, 0, 0x8010)])

theorem witness_loadstat :
    (let s := fed 512 loadTk
     Begins s 0 loadTk ∧ isFn .loadstat 0 loadTk.desc = true ∧ s.engines[(0 : Eng)].shadow = none ∧ s.engines[(0 : Eng)].load = none
       ∧ dInQ loadTk.desc 0 = some 0x10 ∧ headEntry s loadTk.shelf 0x10 = some (entryOf 512) ∧ popTurn s loadTk 0x10 = true ∧ loadOk s loadTk = true
       ∧ loadEntryOk loadTk.desc (entryOf 512) = true)
    ∧ (let s := modEng (fed 512 loadTk) 0 fun r => { r with shadow := some tile }
       Begins s 0 loadTk ∧ loadOk s loadTk = true ∧ s.engines[(0 : Eng)].shadow ≠ none)
    ∧ loadOk (withTk loadTk State.reset) loadTk = false := by
  unfold Begins NextOnUnit StartsLegal NotArming
  decide +kernel

/-- A load of 512 steps at step n. -/
def loading (n : Nat) (again : Bool) : State :=
  modEng (fed 512 { loadTk with phase := .running }) 0 fun r =>
    let o : OpRow := { bytes := [], side := [], poison := false }
    let l : LoadRun := { ticket := 0, step := n, total := 512, inp := { buf := [o] }, reloaded := again, poisoned := again }
    { r with shadow := some { tile with ready := false }, load := some l, loadTokens := 1 }

theorem witness_loadSteps :
    ∀ n ∈ [0, 511, 512], ∀ again ∈ [true, false],
      let s := loading n again
      (s.engines[(0 : Eng)].load.any fun l => l.step == n && l.total == 512 && l.reloaded == again && l.inp.buf.length == 1 && l.ticket == 0) = true
        ∧ s.engines[(0 : Eng)].shadow.isSome = true ∧ engRuns s 0 = true ∧ s.engines[(0 : Eng)].loadTokens ≠ 0
        ∧ ((getTk s 0).any fun k => k.ticket == 0 && !unitWrong s k []) = true ∧ s.engines[(0 : Eng)].state ≠ .retired := by decide +kernel

def swapTk : Tk := issuedTk (desc [(0, 0, 0x500)])

/-- Engine 0 with a shadow tile that is ready or not, behind a SWAP. -/
def swapping (ready : Bool) (others : List (Nat × Option Tk)) : State :=
  modEng { State.reset with tickets := (0, some { swapTk with phase := .running }) :: others } 0 fun r =>
    { r with shadow := some { tile with ready := ready }, swapTok := some 0 }

theorem witness_swaps :
    (let s := modEng (withTk swapTk State.reset) 0 fun r => { r with shadow := some tile }
     Begins s 0 swapTk ∧ isFn .swap 0 swapTk.desc = true ∧ s.engines[(0 : Eng)].swapTok = none ∧ engRetired s 0 = false
       ∧ swapReady s 0 (dEpoch swapTk.desc) = true)
    ∧ (let s := withTk swapTk State.reset
       Begins s 0 swapTk ∧ swapReady s 0 (dEpoch swapTk.desc) = false ∧ loadOutstanding s 0 = false)
    ∧ (let s := swapping true []
       s.engines[(0 : Eng)].swapTok = some 0 ∧ ((getTk s 0).any fun k => !unitWrong s k []) = true ∧ engRuns s 0 = true
         ∧ s.engines[(0 : Eng)].run = none ∧ s.engines[(0 : Eng)].shadow = some tile ∧ tile.ready = true ∧ tile.epoch = dEpoch swapTk.desc)
    ∧ (let s := swapping false [(1, some { loadTk with ticket := 1 })]
       s.engines[(0 : Eng)].swapTok = some 0 ∧ swapReady s 0 (dEpoch swapTk.desc) = false ∧ loadOutstanding s 0 = true
         ∧ ((getTk s 0).any fun k => !unitWrong s k []) = true)
    ∧ (let s := modEng (swapping true []) 0 fun r => { r with shadow := none, shadowLost := some (0, 0) }
       s.engines[(0 : Eng)].swapTok = some 0 ∧ engRuns s 0 = true ∧ s.engines[(0 : Eng)].run = none ∧ s.engines[(0 : Eng)].shadow = none
         ∧ swapReady s 0 (dEpoch swapTk.desc) = true ∧ ((getTk s 0).any fun k => !unitWrong s k []) = true)
    ∧ (let s := modEng (swapping true []) 0 fun r => { r with shadow := none }
       s.engines[(0 : Eng)].swapTok = some 0 ∧ engRuns s 0 = true ∧ s.engines[(0 : Eng)].run = none ∧ s.engines[(0 : Eng)].shadow = none
         ∧ swapReady s 0 (dEpoch swapTk.desc) = false ∧ loadOutstanding s 0 = false ∧ ((getTk s 0).any fun k => !unitWrong s k []) = true)
    ∧ (let s := modEng State.reset 0 fun r => { r with load := some { ticket := 0, step := 0, total := 512, inp := {}, reloaded := false, poisoned := false } }
       engRuns s 0 = true ∧ engWorks s 0 = true ∧ engWorks State.reset 0 = false)
    ∧ (let s := modEng { State.reset with upsets := [.queueWord 0 5 false] } 0 fun r => { r with writebacks := [5] }
       engRuns s 0 = true ∧ s.engines[(0 : Eng)].writebacks = [5] ∧ engRuns { s with power := .off } 0 = false) := by
  unfold Begins NextOnUnit StartsLegal NotArming
  decide +kernel

/-- A MATMUL of 8 rows on the array of engine 0, with n operand rows in its first buffer. -/
def arrayRun (n done : Nat) : ArrayRun :=
  let o : OpRow := { bytes := List.replicate 512 0, side := [], poison := false }
  let ins : Vector InRun 4 := (Vector.replicate 4 {}).set 0 { buf := List.replicate n o }
  { ticket := 0, t := 8, done := done, checkDue := false, checked := false, ins := ins, sigmaA := 0, sigmaB := 0, scalePoison := false,
    failed := none, logged := 0, wavefronts := 0, cause := false }

def streaming (rows n done : Nat) : State :=
  let s := modEng (fed rows { matmulTk 1 with phase := .running }) 0 fun r =>
    { r with active := some tile, run := some (arrayRun n done), tokens := 1 }
  modSet s 0 0 fun r => { r with state := .opened }

/-- A W4 MATMUL whose input lies column-wise: 1,024 stored rows, two rounds to a block column. -/
def wideTk : Tk := { issuedTk (desc [(11, 0, 6), (13, 0, 1), (80, 46, 1), (96, 0, 8), (24, 0, 0x8010)]) with phase := .running }

def wideRun (round : Nat) : ArrayRun :=
  let ins : Vector InRun 4 := (Vector.replicate 4 {}).set 0 { round := round }
  { arrayRun 0 0 with ins := ins }

def streamingWide (round : Nat) : State :=
  modEng (fed 1024 wideTk) 0 fun r => { r with active := some tile, run := some (wideRun round), tokens := 1 }

theorem witness_rounds :
    (∀ rows ∈ [8, 16],
      let s := streaming rows 0 0
      let a := arrayRun 0 0
      let k := { matmulTk 1 with phase := .running }
      sparseWf [] s.queues = true ∧ engRuns s 0 = true ∧ s.engines[(0 : Eng)].run = some a ∧ getTk s a.ticket = some k ∧ k.ticket = a.ticket
        ∧ (0 : Fin 4).val < shapeInputs (dShape k.desc) ∧ a.t - (a.done + (a.ins[(0 : Fin 4)]).buf.length) ≠ 0
        ∧ (a.ins[(0 : Fin 4)]).buf.length ≤ roundRows (dFmtIn k.desc 0) (colWise k.desc 0)
        ∧ inputEntry s k 0 a.ins[(0 : Fin 4)] = some (0x10, entryOf rows) ∧ (a.ins[(0 : Fin 4)]).round = 0 ∧ popTurn s k 0x10 = true
        ∧ streamEntryOk k.desc 0 (entryOf rows) 8 = decide (rows = 8) ∧ roundReady (entryOf rows) (colWise k.desc 0) 0 = true)
    ∧ (∀ col ∈ [true, false],
      let s := streaming 8 0 0
      let m (c : Ecc) := meetWords (upsetQueue s 0 (roundWord (entryOf 8) col 8 0 9) c) 0 (entryOf 8) (roundReads (entryOf 8) col 8 0)
      (getTk s 0).any (fun k => k.ticket == 0) = true ∧ (m .clean).doubles = [] ∧ (m .clean).singles = [] ∧ (m .corrected).singles ≠ []
        ∧ (m .uncorrectable).doubles ≠ [])
    ∧ (let s := loading 0 false
       let k := { loadTk with phase := .running }
       (s.engines[(0 : Eng)].load.any fun l => decide (l.step + l.inp.buf.length < l.total) && decide (l.inp.buf.length ≤ 8)) = true
         ∧ getTk s 0 = some k ∧ dShape k.desc ≠ 6 ∧ dShape k.desc ≠ 7 ∧ headEntry s k.shelf 0x10 = some (entryOf 512)
         ∧ roundReady (entryOf 512) (colWise k.desc 0) 0 = true)
    ∧ (∀ round ∈ [0, 1], -- half a block column, and the rest of it
      let s := streamingWide round
      let k := wideTk
      let a := wideRun round
      sparseWf [] s.queues = true ∧ engRuns s 0 = true ∧ s.engines[(0 : Eng)].run = some a ∧ getTk s a.ticket = some k ∧ k.ticket = a.ticket
        ∧ colWise k.desc 0 = true ∧ a.t - (a.done + (a.ins[(0 : Fin 4)]).buf.length) = 8 ∧ inputEntry s k 0 a.ins[(0 : Fin 4)] = some (0x10, entryOf 1024)
        ∧ popTurn s k 0x10 = true ∧ roundReady (entryOf 1024) true round = true ∧ colRounds true 1024 = 2 ∧ (round % 2 + 1 = 2 ↔ round = 1))
    ∧ (let s := modEng (fed 8 (matmulTk 1)) 0 fun r => { r with active := some tile }
       let k := matmulTk 1
       let ins := aheadOf s.engines[(0 : Eng)] k
       engRuns s 0 = true ∧ (streamRound s 0 0 9 .clean).isNone = true ∧ nextMatmul s 0 = some k ∧ inputUsable s k 0 = true
         ∧ (ins[(0 : Fin 4)]).entries = 0 ∧ (ins[(0 : Fin 4)]).buf.length < dT k.desc ∧ (s.engines[(0 : Eng)].run).isNone = true
         ∧ inputEntry s k 0 ins[(0 : Fin 4)] = some (0x10, entryOf 8) ∧ popTurn s k 0x10 = true
         ∧ streamEntryOk k.desc 0 (entryOf 8) (dT k.desc) = true ∧ roundReady (entryOf 8) (colWise k.desc 0) 0 = true) := by decide +kernel

theorem witness_wavefront :
    ∀ done ∈ [0, 7],
      let s := streaming 8 1 done
      let a := arrayRun 1 done
      let k := { matmulTk 1 with phase := .running }
      let f := ArrayFault.none
      engRuns s 0 = true ∧ s.engines[(0 : Eng)].run = some a ∧ s.engines[(0 : Eng)].active = some tile ∧ s.engines[(0 : Eng)].tokens ≠ 0
        ∧ getTk s a.ticket = some k ∧ k.ticket = a.ticket ∧ a.checkDue = false ∧ seedWaits s 0 k.desc a = false ∧ unitWrong s k [] = false
        ∧ ((waveRows a (dShape k.desc)).any fun rows =>
            ownersOk { tile with shape := BitVec.ofNat 4 (dShape k.desc), param := BitVec.ofNat 8 (dParam k.desc) } (rows.map (·.side))
              && rows.all fun o => !o.poison) = true
        ∧ a.scalePoison = false ∧ f.tree = [] ∧ f.scrub = .clean ∧ f.bank = [] ∧ f.promo = []
        ∧ (accSet s 0 (dAccSet k.desc)).state = .opened
        ∧ (let w := modEng s 0 fun r => { r with run := some { a with checkDue := true } }
           engRuns w 0 = true ∧ (w.engines[(0 : Eng)]).tokens ≠ 0 ∧ seedWaits w 0 k.desc { a with checkDue := true } = false) := by
  decide +kernel
/-- Both orders of the promotions that cancel have a long value that is finite. -/
theorem witness_promotion : longVal (promote 0 (.fin false 1 0) false) = .fin false (2 ^ 31) (-31) := by decide +kernel

/-- A VEC of function f on one element of queue ends 010h to 012h, to memory at 2000h. -/
def vecTk (f c : Nat) : Tk :=
  issuedTk (desc [(0, 0, 0x100 + f), (16, 0, 0x222), (18, 0, 2), (18, 4, 2), (24, 0, 0x8010), (26, 0, 0x8011), (28, 0, 0x8012), (32, 0, 3 * 2 ^ 62 + 0x2000),
    (40, 0, 3 * 2 ^ 62 + 0x3000), (88, 0, c), (92, 0, 1)])

/-- A VEC or CONVERT that has popped no entry yet. -/
def noneGot : VecRun := { got := [], lost := false, computed := false, jobs := [] }

theorem witness_vec :
    ∀ f ∈ [0x01, 0x02, 0x03, 0x04, 0x05, 0x06, 0x07, 0x08, 0x10, 0x11, 0x12, 0x13, 0x20, 0x21, 0x22, 0x23, 0x24, 0x30, 0x40, 0x41, 0x42, 0x50],
      let k := vecTk f 1
      let s := fed 8 k
      let v := started s k
      let q := startedTk s k
      Begins s 0 k ∧ isFn .vec f k.desc = true ∧ vecOk s (takeStart s k) = true ∧ vecOk v q = true ∧ popsTurn s k = true ∧ (vecRun s (takeStart s k) none).isSome = true
        ∧ outScaleBad v q = false ∧ lookScale v q (veTidOut k.desc 0) none ≠ .poisoned
        ∧ ((takeInputs v q 1 (vecInputs f)).any fun a => !a.bad && (vecOutputs f == 0 || ((vecPut a.s q 0 none false []).any fun w =>
            vecOutputs f == 1 || (vecPut w.1 q 1 none false []).isSome))) = true
        ∧ sparseWf (0, false) (s.slots[dSlot k.desc]).parts = true
        ∧ (vecInScales v q).1.isSome = true ∧ (vecInScales v q).2 = false
        ∧ (let b := vecTk f 0
           let w := fed 8 b
           Begins w 0 b ∧ vecOk w (takeStart w b) = false ∧ vecOk (started w b) (startedTk w b) = false)
        ∧ (let p := { k with phase := .running, run := .vec noneGot }
           let w := { fed 8 p with queues := [] }
           getTk w 0 = some p ∧ unitIsolated w (tkUnit w p) = false ∧ unitWrong w p (entriesRead p) = false
             ∧ gotAllInputs p.desc (drawEntries p (vcCount p.desc) (vecInputs f) 65536 (w, noneGot)).2 (vcCount p.desc) (vecInputs f) = false) := by
  unfold Begins NextOnUnit StartsLegal NotArming
  decide +kernel

/-- A CONVERT of one element from L8f in queue end 010h to L16s in memory. -/
def convertTk (c : Nat) : Tk := issuedTk (desc [(0, 0, 0x200), (18, 0, 2), (24, 0, 0x8010), (32, 0, 3 * 2 ^ 62 + 0x2000), (88, 0, c), (92, 0, 1), (104, 0, 1024)])

theorem witness_convert :
    (let k := convertTk 1
     let s := fed 8 k
     let v := started s k
     let q := startedTk s k
     Begins s 0 k ∧ isFn .convert 0 k.desc = true ∧ convertOk s (takeStart s k) = true ∧ convertOk v q = true ∧ popsTurn s k = true
       ∧ (convertRun s (takeStart s k) none).isSome = true ∧ ((takeInputs v q 1 1).any fun a => !a.bad) = true
       ∧ (convertScale v q matches .found _) = true ∧ ((convertTarget v q).any fun t => !t.poison && t.fmt == .l16s) = true
       ∧ dOutW k.desc 0 = .memory 0x2000)
    ∧ (let k := convertTk 0
       let s := fed 8 k
       Begins s 0 k ∧ convertOk s (takeStart s k) = false ∧ convertOk (started s k) (startedTk s k) = false)
    ∧ (let k := { convertTk 1 with phase := .running, run := .vec noneGot }
       let s := { fed 8 k with queues := [] }
       getTk s 0 = some k ∧ unitIsolated s (tkUnit s k) = false ∧ unitWrong s k (entriesRead k) = false
         ∧ gotAllInputs k.desc (drawEntries k (vcCount k.desc) 1 65536 (s, noneGot)).2 (vcCount k.desc) 1 = false) := by
  unfold Begins NextOnUnit StartsLegal NotArming
  decide +kernel

/-- A DRAIN of set 0 of engine 0 in place n of its order: to a target, by force or not. -/
def drainTk (n target force : Nat) : Tk :=
  issuedTk (desc [(0, 0, 0x300), (18, 0, 2), (32, 0, if target = 0 ∧ force = 0 then 3 * 2 ^ 62 + 0x2000 else 0), (80, 48, n), (80, 46, target),
    (80, 45, force), (80, 37, 1), (108, 0, 1), (112, 0, 256)])

/-- Set 0 of engine 0 OPEN under a slot, its eight rows complete. -/
def summed (j : Slot) (k : Tk) : State := modSet (withTk k State.reset) 0 0 fun r => { r with state := .opened, slot := j }

theorem witness_drainOut :
    (let k := drainTk 0 0 0
     let s := summed 0 k
     let v := started s k
     let q := startedTk s k
     Begins s 0 k ∧ isDrain 0 false k.desc = true ∧ engRetired s 0 = false ∧ servedEng s (dUnit k.desc) = 0 ∧ tokenHere (accSet s 0 0) 0 = true
       ∧ setMine s k = true ∧ dOut k.desc 0 = some .l16s ∧ dOutW k.desc 0 = .memory 0x2000
       ∧ ((targetOf v q .l16s (drTid k.desc) (drDomain k.desc) (drB k.desc) true).any fun t => drainOk v q (accSet s 0 0).rows t) = true)
    ∧ (let k := drainTk 1 0 0
       Begins (summed 0 k) 0 k ∧ tokenHere (accSet (summed 0 k) 0 0) (dAccSeq k.desc) = false)
    ∧ (let k := drainTk 0 0 0
       Begins (summed 1 k) 0 k ∧ tokenHere (accSet (summed 1 k) 0 0) 0 = true ∧ setMine (summed 1 k) k = false) := by
  unfold Begins NextOnUnit StartsLegal NotArming
  decide +kernel

/-- A DRAIN of set 0 of engine 0 into set 0 of engine 1, which a SEED opened, with n rows sent. -/
def sending (n : Nat) : State :=
  let k := { drainTk 0 1 0 with phase := .running, run := .drain { judged := true, rowsSent := n } }
  let i : Incoming := { inst := 5, ticket := 9, epoch := 0, parent := none, seed := true, src := 0, srcSet := 0, arrived := n }
  modSet (summed 0 k) 1 0 fun r => { r with state := .opened, incoming := some i }

theorem witness_totals :
    (∀ n ∈ [0, 1], ∀ j ∈ [0, 1],
      let k := drainTk n 1 0
      Begins (summed j k) 0 k ∧ isDrain 1 false k.desc = true ∧ engRetired (summed j k) (servedEng (summed j k) (dUnit k.desc)) = false
        ∧ tokenHere (accSet (summed j k) 0 (dAccSet k.desc)) (dAccSeq k.desc) = decide (n = 0) ∧ setMine (summed j k) k = decide (j = 0))
    ∧ (∀ j ∈ [0, 1],
      let k := { drainTk 0 1 0 with phase := .running, run := .drain { judged := false, rowsSent := 0 } }
      let s := summed j k
      getTk s 0 = some k ∧ k.ticket = 0 ∧ dFamily k.desc = some .drain ∧ unitIsolated s (tkUnit s k) = false ∧ unitWrong s k [] = false
        ∧ tokenHere (accSet s 0 (dAccSet k.desc)) (dAccSeq k.desc) = true ∧ setMine s k = decide (j = 0))
    ∧ (∀ n ∈ [0, 7],
      let s := sending n
      let a := accSet s 0 0
      let b := accSet s 1 0
      ((sendingDrain s 0 0).any fun p => decide (getTk s p.1.ticket = some p.1) && !unitWrong s p.1 [] && servedEng s (dDestEngine p.1.desc) == 1 && dDestSet p.1.desc == 0
          && p.2.rowsSent == n && b.incoming.any fun i => i.src == 0 && i.srcSet == 0 && i.epoch == dEpoch p.1.desc && i.seed) = true
        ∧ unitIsolated s (.engine 0) = false ∧ a.state = .opened ∧ b.state = .opened ∧ a.rows = b.rows ∧ n < a.rows ∧ (n + 1 = a.rows ↔ n = 7)
        ∧ sparseWf 0 (s.accs[(1 : Eng)]).bank = true)
    ∧ (let k := drainTk 0 0 1
       Begins (summed 0 k) 0 k ∧ isDrain 0 true k.desc = true)
    ∧ (let s := modSet (sending 0) 0 0 fun r => { r with marker := true }
       s.power = .running ∧ (accSet s 0 0).marker = true ∧ (∃ i, (accSet s 1 0).incoming = some i ∧ i.src = 0 ∧ i.srcSet = 0)
         ∧ (accSet s 0 0).incoming = none) := by
  unfold Begins NextOnUnit StartsLegal NotArming
  refine ⟨?_, ?_, ?_, ?_, ?_, ?_, ⟨_, rfl, ?_, ?_⟩, ?_⟩ <;> decide +kernel
/-- A LINEAR or INDEXED STREAM of eight rows of 512 bytes into queue end 013h; its rows and its index lie in memory. -/
def streamTk (indexed narrow lead : Nat) : Tk :=
  issuedTk (desc ([(0, 0, 0x600 + indexed), (16, 0, if narrow = 1 then 2 else 0), (32, 0, 2 ^ 63 + 0x13), (80, 0, 0x2000), (88, 0, 1024), (92, 0, 8),
    (94, 0, if narrow = 1 then 1024 else 512), (96, 0, 512), (98, 0, indexed), (116, 0, lead)]
    ++ if indexed = 1 then [(104, 0, 0x8000), (112, 0, 8)] else []))

/-- Its run in a stage; every burst of its rows has come. -/
def streamRun (stage : StreamStage) : StreamRun :=
  { freshStream (streamTk 0 0 1).desc 0 false with
    stage := stage, entryId := 1, got := (List.range 32).map fun i => (0x20 + i, some (List.replicate 256 0, false)) }

def streamingTk (i : Nat) (lead : Nat) (stage : StreamStage) : Tk := { streamTk i 0 lead with phase := .running, run := .stream (streamRun stage) }

/-- The STREAM at work with n entries in queue end 013h. -/
def pouring (n : Nat) (k : Tk) : State := { fed 8 k with queues := if n = 0 then [] else [(0x13, List.replicate n (entryOf 8))] }

theorem witness_streams :
    (∀ i ∈ [0, 1], ∀ n ∈ [0, 1],
      let k := streamTk i n 0
      let s := fed 8 k
      let look := sigmaFor (started s k) (startedTk s k) (stTid k.desc) .l8f
      Begins s 0 k ∧ isFn .stream i k.desc = true ∧ streamOk (started s k) (startedTk s k) = true ∧ narrows k.desc = decide (n = 1)
        ∧ (look matches .found _) = true)
    ∧ (∀ i ∈ [0, 1],
      let k := streamTk i 0 4097
      Begins (fed 8 k) 0 k ∧ isFn .stream i k.desc = true ∧ streamOk (started (fed 8 k) k) (startedTk (fed 8 k) k) = false)
    ∧ (∀ lead ∈ [0, 1, 2],
      let k := streamingTk 0 lead .waitLead
      let s := pouring 1 k
      runningStream s 0 = some (k, streamRun .waitLead) ∧ k.ticket = 0 ∧ unitWrong s k (entriesRead k) = false ∧ stLead k.desc = lead ∧ outstanding s k.shelf (outQueue k.desc) = 1
        ∧ streamTurn s k = true)
    ∧ (∀ i ∈ [0, 1],
      let k := streamingTk i 0 .waitStrips
      let s := pouring 0 k
      let e := blankEntry k (stRows k.desc) (stPitchOut k.desc) (storedWidth k.desc) (dFmtOut k.desc 0) (stPack k.desc)
      runningStream s 0 = some (k, streamRun .waitStrips) ∧ unitWrong s k (entriesRead k) = false ∧ (streamRun .waitStrips).scalePoison = false ∧ pushTurn s k (outQueue k.desc) = true
        ∧ (claimEntry s k.shelf (outQueue k.desc) e).isSome = true ∧ stIndexed k.desc = decide (i = 1)
        ∧ claimEntry { s with queues := [(0x13, [{ entryOf 512 with strips := 64 }])] } k.shelf (outQueue k.desc) e = none)
    ∧ (let k := streamingTk 0 0 .waitStrips
       let k := { k with run := .stream { streamRun .waitStrips with scalePoison := true } }
       let s := pouring 0 k
       (runningStream s 0).any (fun p => p.2.scalePoison && p.2.stage == .waitStrips && !unitWrong s p.1 (entriesRead p.1)) = true ∧ pushTurn s k (outQueue k.desc) = true)
    ∧ (∀ ph ∈ [TkPhase.running, .ended],
       let r := { streamRun .reading with expired := if ph = .running then [] else [2] }
       let k := { streamTk 0 0 0 with phase := ph, run := .stream r }
       let s := { pouring 1 k with fabReqs := [(1, some (.stream k.inst 0 0 1 []))] }
       timedRead s 0 1 = some (k, r) ∧ s.power = .running ∧ unitIsolated s (tkUnit s k) = false ∧ getTk s 0 = some k ∧ timedRead s 0 2 = none)
    ∧ (let k := streamingTk 0 0 .waitLead
       let s := pouring 1 k
       getTk s 0 = some k ∧ streamOf k = some (streamRun .waitLead) ∧ s.lingering = [] ∧ indexPending k.desc (streamRun .waitLead) = false) := by
  unfold Begins NextOnUnit StartsLegal NotArming
  decide +kernel

theorem witness_readData :
    (let k := streamingTk 0 0 .reading
     let s := pouring 1 k
     let r := streamRun .reading
     arrivingStream s 0 7 = some (k, r) ∧ unitIsolated s (tkUnit s k) = false ∧ unitWrong s k [] = false ∧ indexPending k.desc r = false ∧ sparseWf [] s.queues = true
       ∧ rowLandable s k.desc r 7 = true ∧ rowLandable s k.desc r 8 = false ∧ sourceAt k.desc r.index 7 = some (0x3C00, 512)
       ∧ sourceOk s 0x3C00 512 = true ∧ (fetchBytes s r 0x3C00 512).refused = false ∧ (fetchBytes s r 0x3C00 512).bad = false)
    ∧ (∀ b ∈ [true, false], -- a burst that was refused, and a poisoned one
       let r := { streamRun .reading with got := (List.range 32).map fun i => (0x20 + i, some (if b then [] else List.replicate 256 0, true)) }
       let k := { streamTk 0 0 0 with phase := .running, run := .stream r }
       arrivingStream (pouring 1 k) 0 7 = some (k, r) ∧ rowLandable (pouring 1 k) k.desc r 7 = true ∧ (fetchBytes (pouring 1 k) r 0x3C00 512).refused = b
         ∧ (fetchBytes (pouring 1 k) r 0x3C00 512).bad = true)
    ∧ (let r := { streamRun .reading with landed := List.range 7 }
       let k := { streamTk 0 0 0 with phase := .running, run := .stream r }
       let s := pouring 1 k
       arrivingStream s 0 7 = some (k, r) ∧ rowLandable s k.desc r 7 = true ∧ entryLanded k.desc { r with landed := r.landed ++ [7] } = true
         ∧ getTk s k.ticket = some k ∧ instTk s k.ticket k.inst = some k ∧ r.expired = [] ∧ (r.entry + 1 < r.entries ↔ False))
    ∧ (let r := { streamRun .reading with got := [(0x80, some (List.replicate 256 0, false))] }
       let k := { streamTk 1 0 0 with phase := .running, run := .stream r }
       let s := pouring 1 k
       arrivingStream s 0 0 = some (k, r) ∧ indexPending k.desc r = true ∧ r.expired = []
         ∧ ((indexWords s k.desc r).all fun p => (p.2.map fun a => gotAll r (rowKeys s a 8)).getD true) = true)
    ∧ (let r := { streamRun .reading with index := List.replicate 8 padWord }
       let k := { streamTk 1 0 0 with phase := .running, run := .stream r }
       arrivingStream (pouring 1 k) 0 0 = some (k, r) ∧ rowLandable (pouring 1 k) k.desc r 0 = true ∧ sourceAt k.desc r.index 0 = none) := by
  refine ⟨?_, ?_, ?_, ?_, ?_⟩ <;> decide +kernel

/-- A PUT or GET of n bytes to or from a module. -/
def xferTk (f n src dst : Nat) : Tk :=
  issuedTk (desc [(0, 0, 0x700 + f), (80, 0, src * localSize + 0x2000), (88, 0, dst * localSize + 0x4000), (96, 0, n)])

/-- Module 1 can be reached through port 0. -/
def routed (k : Tk) : State :=
  { withTk k (modPort State.reset 0 fun r => { r with state := 3 }) with routes := [(1, BitVec.ofNat 64 (2 ^ 63 + 1))] }

theorem witness_transfers :
    (∀ f ∈ [0, 1], ∀ n ∈ [255, 256],
      let k := xferTk f n 0 0
      let s := withTk k State.reset
      let ok := if f = 0 then putOk (started s k) (startedTk s k) else getOk (started s k) (startedTk s k)
      Begins s 0 k ∧ isXfer f k.desc = true ∧ ok = decide (n = 256) ∧ dOutW k.desc 0 = .none ∧ isLocal s (pgSrc k.desc) = true
        ∧ instBusy s k.inst = false ∧ spanBad s 0x2000 n = false ∧ k.parent = none ∧ k.isReplay = false ∧ anyArmed s = false)
    ∧ (∀ room ∈ [true, false],
      let k := issuedTk (desc [(0, 0, 0x701), (32, 0, 2 ^ 63 + 0x13), (80, 0, 0x2000), (96, 0, 4096)])
      let s := { fed 8 k with queues := if room then [] else [(0x13, [{ entryOf 512 with strips := 64 }])] }
      let rows := getEntryRows k.desc
      Begins s 0 k ∧ isXfer 1 k.desc = true ∧ getOk s k = true ∧ getOk (started s k) (startedTk s k) = true ∧ dOutW k.desc 0 = .queue 0x13
        ∧ pushTurn s k 0x13 = true ∧ claimsAll s k 0x13 512 (rows.take 1) = room
        ∧ ((claimRows (modTk (started s k) 0 fun y => { y with run := .xfer { entries := [], landed := [], todo := rows } }) (startedTk s k) 0x13 rows 0).2.2
            = [] ↔ room = true)
        ∧ isLocal s (pgSrc k.desc) = true ∧ instBusy s k.inst = false ∧ anyArmed s = false)
    ∧ (let k := xferTk 1 256 1 0
       let s := routed k
       Begins s 0 k ∧ getOk (started s k) (startedTk s k) = true ∧ isLocal s (pgSrc k.desc) = false ∧ 256 ≤ pgBytes k.desc
         ∧ pgSrc k.desc < 2 ^ 56 ∧ Reaches s (pgSrc k.desc / localSize))
    ∧ (∀ f ∈ [0, 1],
      let k := { xferTk f 256 1 0 with phase := .running }
      let s := { withTk k State.reset with fabReqs := [(1, some (if f = 0 then .put k.inst 0 else .get k.inst 0 0 1 []))] }
      getTk s 0 = some k ∧ k.ticket = 0 ∧ dFamily k.desc = some .putget ∧ .timeout ∉ k.causes ∧ timedAbroad s k.inst = true
        ∧ timedAbroad State.reset k.inst = false) := by
  unfold Reaches Begins NextOnUnit StartsLegal NotArming
  refine ⟨?_, ?_, ?_, ?_⟩ <;> decide +kernel

/-- A home with three requests in its queue, for burst 20h and one for burst 21h behind another. -/
def queuedReq (r : HomeReq) : State := { State.reset with homeQueue := [.write 9 0 0x30 (List.replicate 256 1), r, .read 7 0 0x20] }

theorem witness_homes :
    (∀ r ∈ [HomeReq.write 7 0 0x20 (List.replicate 256 5), .masked 7 0 0x20 [] [true], .read 7 0 0x20],
      (queuedReq r).memWf = true ∧ (queuedReq r).homeQueue[1]? = some r ∧ servable (queuedReq r) 1 0x20 = true ∧ servable (queuedReq r) 2 0x20 = false
        ∧ heldBurst (queuedReq r) 0x20 = false ∧ anyArmed (queuedReq r) = false ∧ isPoison (queuedReq r) 0x20 = false
        ∧ burstTripped (queuedReq r) 0x20 = false ∧ (burstHome 0x20).isSome = true)
    ∧ (let s := { queuedReq (.masked 7 0 0x20 [] [true]) with poison := [(0x20, true)] }
       s.memWf = true ∧ isPoison s 0x20 = true)
    ∧ (let s := modHome (queuedReq (.write 7 0 0x20 (List.replicate 256 5))) 0 fun r => { r with level := 6 }
       s.memWf = true ∧ burstTripped s 0x20 = true)
    ∧ (∀ n ∈ [0, homeBursts 0 - 1],
       let s := modHome State.reset 0 fun r => { r with scrubBurst := n }
       s.power = .running ∧ homeLevel s 0 < 5 ∧ homeWaits s 0 = false ∧ (s.homes[(0 : Home)]).scrubBurst = n ∧ (n + 1 = homeBursts 0 ↔ n ≠ 0))
    ∧ (let s := { State.reset with writebacks := [(3, true)] }
       sparseGet false s.writebacks 3 = true ∧ (∀ h : Home, homeWaits s h = false) ∧ s.homeQueue[0]? = none)
    ∧ homeWaits (queuedReq (.read 7 0 0x20)) 0 = true
    ∧ (stackHome 0 = 0 ∧ ∀ l ∈ [0, 1, 4, 5, 6], ((modHome State.reset 0 fun r => { r with level := Fin.ofNat 7 l }).homes[(0 : Home)]).level.val = l) := by
  decide +kernel

/-- Context 0 of die 0 under ticket 0. -/
def contextAt (phase : Nat) : Ctx :=
  { ticket := 0, inst := 0, slot := 0, epoch := 0, bankB := false, regs := ((Vector.replicate 32 0).set 10 0x2000).set 11 64,
    wait := none, waitMet := false, held := false, published := true, flagRead := 0, reservation := none, phase := phase, todo := [], used := 0, ret := none }

def inContext (x : Ctx) : State := putCtx (withTk { issuedTk (desc [(0, 0, 0xB00)]) with phase := .running } State.reset) 0 0 (some x)

theorem witness_atomics :
    HeadServed State.reset ∧ State.reset.memWf = true
    ∧ (∀ w ∈ [true, false],
      let n := if w = true then 8 else 4
      isLocal State.reset 0x2008 = true ∧ globalLocal 0x2008 % n = 0 ∧ populated (globalLocal 0x2008) n = true
        ∧ headWaits State.reset State.reset.headQueue (globalLocal 0x2008 / 256) = false ∧ spanBad State.reset (globalLocal 0x2008) n = false
        ∧ globalLocal 0x2009 % n ≠ 0
        ∧ (let s := { State.reset with poison := [(0x20, true)] }
           HeadServed s ∧ s.memWf = true ∧ headWaits s s.headQueue 0x20 = false ∧ spanBad s 0x2008 n = true)
        ∧ (let s := { State.reset with headQueue := [.atomic 1 0x2010 (.word .add true 1)] }
           HeadServed s ∧ s.memWf = true ∧ headWaits s s.headQueue (globalLocal 0x2008 / 256) = true))
    ∧ (let s := inContext (contextAt 0)
       HeadServed s ∧ s.memWf = true ∧ ctxOf s 0 0 = some (contextAt 0) ∧ ctxActs (contextAt 0) = true ∧ inPriv 0x2008 8 = false
         ∧ s.isolated.contains (.ringmaster 0) = false ∧ controlWrong s (.ringmaster 0) [] = false
         ∧ (getTk s 0).any (fun q => !q.isReplay && !rxTaken s q 0x2008) = true
         ∧ ctxReaches s 0 0 0x2F000000000 8 = false ∧ inPriv 0x2F000000000 8 = false
         ∧ (let w := modRings s 0 0 fun r => { r with x := { base := 0x2000, size := 16, tail := 15 } }
            (getTk w 0).any (fun q => rxTaken w q 0x2008) = true)
         ∧ (let a := privBase
            inPriv a 8 = true ∧ privBroken s 0 a = false ∧ privBroken { s with upsets := [.privWord 0 0 true] } 0 a = true
              ∧ sparseWf 0 (s.dies[(0 : Die)]).priv = true)
         ∧ ctxReaches s 0 0 0x2008 8 = true ∧ spanBad s 0x2008 8 = false ∧ heldBurst s 0x20 = false) := by
  unfold HeadServed
  decide +kernel
/-- A collective of function f of epoch e on channel 0, CSEQ q: n elements of L16s from 2000h to 4000h. -/
def collDesc (f e q n : Nat) : Desc :=
  desc [(0, 0, 0x800 + f), (6, 0, e), (16, 0, 2), (18, 0, 2), (84, 0, q), (88, 0, 0x2000), (96, 0, if f = 4 then 0 else 0x4000), (104, 0, n)]

def collTk (f e q n : Nat) : Tk := { freshTk State.reset (collDesc f e q n) 0 .h 0 0 with inst := 3 }

/-- Channel 0 of slot 0 with two members, modules 0 and 1; this module is member 0. -/
def channelUp (r : Role) (s : State) : State :=
  modChan { s with members := [(1, 1)] } 0 fun c => { c with role := r, members := 2, own := 0, backed := 1 }

theorem witness_collectiveIssue :
    (∀ replay ∈ [true, false], ∀ q ∈ [0, 1], ∀ n ∈ [0, 256],
      let k := { collTk 0 0 q n with isReplay := replay }
      let s := channelUp .member (withTk k State.reset)
      let k1 : Tk := { k with phase := .issued, issueNo := s.nextIssue }
      let s0 := setTk { s with nextIssue := s.nextIssue + 1 } k1
      let s1 := if replay then s0 else modChan s0 0 fun r => { r with nextCseq := r.nextCseq + 1 }
      getTk s 0 = some k ∧ k.ticket = 0 ∧ dFamily k.desc = some .collective ∧ k.phase = .fetched ∧ dispatches s k = true
        ∧ dispatchWrong s k (waitFlags k) = false ∧ controlWrong s .collective (entriesRead k) = false
        ∧ waitsUsable s k = true ∧ waitsMet k = true ∧ unitIsolated s .collective = false ∧ channelFits s k = true
        ∧ issueTurn s k = (decide (q = 0) || replay)
        ∧ coCseq k.desc = BitVec.ofNat 32 q ∧ (s.chans[(0 : ChanId)]).nextCseq = 0 ∧ isNormColl k.desc = false ∧ (s.chans[(0 : ChanId)]).held = []
        ∧ StartsLegal s1 k1 ∧ collOk (started s1 k1) (startedTk s1 k1) = decide (n = 256) ∧ scalePoisoned (started s1 k1) (startedTk s1 k1) = false)
    ∧ (let k := collTk 0 1 0 256
       let s := channelUp .member (withTk k State.reset)
       getTk s 0 = some k ∧ dEpoch k.desc ≠ s.slots[dSlot k.desc].epoch
         ∧ dispatchWrong { s with upsets := [.control (.dispatch 0)] } k (waitFlags k) = true
         ∧ controlWrong { s with upsets := [.control .collective] } .collective (entriesRead k) = true)
    ∧ channelFits (withTk (collTk 0 0 0 256) State.reset) (collTk 0 0 0 256) = false := by
  unfold StartsLegal
  decide +kernel

/-- A collective under way on channel 0. -/
def playing (r : Role) (f : Nat) (norm : Bool) (g : Coll → Coll) (s : State) : State :=
  let d := collDesc f 0 0 256
  let d := if norm then desc [(0, 0, 0x800), (120, 1, 1)] else d
  let k := { freshTk State.reset d 0 .h 0 0 with phase := .running, inst := 3 }
  let s := channelUp r (withTk k s)
  modChan s 0 fun c => { c with op := some (g (freshColl s k)) }

def opOf (s : State) : Option Coll := (s.chans[(0 : ChanId)]).op

theorem witness_collectivesPlay :
    (∀ f ∈ [0, 1, 2, 3, 4],
      let s := playing (if f = 4 then .backup else .member) f false id State.reset
      unitIsolated s .collective = false ∧ runningColl s 0 (fun d => dFunc d == f) = some 0
        ∧ ((opOf s).any fun o => decide (o.contrib = none) && !isNormColl o.k.desc && !coSrcDrain o.k.desc && (f != 3 || o.member == 0)
            && !unitWrong s o.k (entriesRead o.k)
            && !spanBad s (globalLocal (coSrc o.k.desc)) (sourceBytes s 0 o.k.desc o.member)) = true)
    ∧ (∀ b ∈ [true, false],
      let s := playing .member 0 true id (atSlot 0 fun r => { r with suspect := b })
      runningColl s 0 isNormColl = some 0
        ∧ ((opOf s).any fun o => isNormColl o.k.desc && !o.opened && o.slot == 0 && !unitWrong s o.k (entriesRead o.k)) = true
        ∧ (s.slots[(0 : Slot)]).suspect = b ∧ (s.slots[(0 : Slot)]).inForce.integrity ≠ .strict ∧ s.upsets = [] ∧ (s.chans[(0 : ChanId)]).held = [])
    ∧ (∀ b ∈ [true, false], ∀ due ∈ [true, false],
      let s := playing .member 0 true id (atSlot 0 fun r =>
        { r with suspectPrev := b, replayPrev := if due then [(7, 0)] else [], inForce := { r.inForce with integrity := .strict } })
      let r := s.slots[(0 : Slot)]
      runningColl s 0 isNormColl = some 0 ∧ r.inForce.integrity = .strict ∧ r.noReplay = false ∧ (r.replayPrev = [] ↔ due = false)
        ∧ r.suspectPrev = b ∧ r.resolutionFailed = false ∧ (s.chans[(0 : ChanId)]).held = [])
    ∧ (let s := playing .backup 4 false (fun o => { o with contrib := some [], sent := [0, 1, 2, 3], opened := true }) State.reset
       runningColl s 0 (fun d => dFunc d == 4) = some 0
         ∧ ((opOf s).any fun o => o.contrib.isSome && !unitWrong s o.k (entriesRead o.k) && backupPlayed s 0 o && digestsDone s 0 o && !o.timedOut
             && (getTk s o.k.ticket).any fun k => k.inst == o.k.inst) = true)
    ∧ (let x : Blk := { src := 1, result := false, block := 0, nonfinite := false, arg := 0, payload := List.replicate 256 0 }
       let s := playing .member 1 false (fun o => { o with contrib := some (List.replicate 256 0), blocks := [x] }) State.reset
       ((opOf s).any fun o => !isGather o.k.desc && decide (prevIn s 0 o.k.desc 0 o.member = some 1) && decide (blockFrom s 0 o 0 0 1 = some x)
           && (ownBlock s 0 o 0).isSome) = true) := by
  refine ⟨?_, ?_, ?_, ?_, ?_⟩ <;> decide +kernel
/-- A DRAIN of eight rows of one column that the collective of channel 0, with COUNT n, takes. -/
def handingOver (n : Nat) : State :=
  let k := { drainTk 0 2 0 with ticket := 1, inst := 4, phase := .running, run := .drain { judged := true, rowsSent := 0 } }
  let s := summed 0 k
  let d := desc [(0, 0, 0x801), (18, 0, 2), (96, 0, 0x4000), (104, 0, n), (120, 0, 1)]
  let c := { freshTk State.reset d 0 .h 0 0 with phase := .running, inst := 3 }
  let s := channelUp .member { s with tickets := [(0, some c), (1, some k)] }
  modChan s 0 fun r => { r with op := some { freshColl s c with opened := true } }

theorem witness_drainCollective :
    (∀ n ∈ [8, 9],
      let s := handingOver n
      ((getTk s 1).any fun k => k.ticket == 1 && k.phase == .running && isDrain 2 false k.desc && drChannel k.desc == 0
          && (match k.run with | .drain r => r.judged | _ => false) && !unitIsolated s (tkUnit s k) && !unitWrong s k (entriesRead k)
          && !k.isReplay && drCols k.desc == 1 && drOrigin k.desc + ((accSet s 0 0).rows - 1) * drRowLen k.desc < 2 ^ 40
          && (opOf s).any fun o => takesDrain o k && decide (coCount o.k.desc = (accSet s 0 0).rows * 1) == decide (n = 8)) = true)
    ∧ (let k := drainTk 1 2 0
       Begins (summed 0 k) 0 k ∧ isDrain 2 false k.desc = true ∧ engRetired (summed 0 k) (servedEng (summed 0 k) (dUnit k.desc)) = false
         ∧ tokenHere (accSet (summed 0 k) 0 0) (dAccSeq k.desc) = false
         ∧ (let k := drainTk 0 2 0
            Begins (summed 1 k) 0 k ∧ tokenHere (accSet (summed 1 k) 0 0) (dAccSeq k.desc) = true ∧ setMine (summed 1 k) k = false))
    ∧ (let s := handingOver 8
       let u := { s with tickets := s.tickets.map fun p => (p.1, p.2.map fun k => { k with isReplay := true }) }
       ((getTk u 1).any fun k => k.isReplay && (replayedColl u k).isSome) = true)
    ∧ (opOf (modChan (handingOver 8) 0 fun r => { r with op := none })).isNone = true := by
  unfold Begins NextOnUnit StartsLegal NotArming
  decide +kernel

/-- An Arrival REDUCE_SCATTER of which this module holds shard 0; a deterministic one whose members have backups. -/
def arriving : State := playing .member 1 false (fun o => { o with arrival := true, opened := true, contrib := some (List.replicate 256 0) }) State.reset

def lapsing (contrib : Option (List (BitVec 32))) (taken : Sparse (Option Bool)) : State :=
  let s := channelUp .member State.reset
  let d := desc [(0, 0, 0x801), (16, 0, 2), (18, 0, 2), (88, 0, 0x2000), (96, 0, 0x4000), (104, 0, 256), (112, 0, 5), (116, 0, 7)]
  let k := { freshTk State.reset d 0 .h 0 0 with phase := .running, inst := 3 }
  let x : Blk := { src := 1, result := false, block := 0, nonfinite := false, arg := 0, payload := List.replicate 256 0 }
  let s := { withTk k s with members := [(0, 0x80020000), (1, 0x80020001)] }
  modChan s 0 fun c => { c with role := .member, members := 2, own := 0,
                                op := some { freshColl s k with opened := true, contrib := contrib, taken := taken, blocks := [x] } }

theorem witness_addsAndTimers :
    (let s := arriving
     unitIsolated s .collective = false ∧ ((opOf s).any fun o => o.arrival && !o.played && o.opened && o.contrib.isSome && !isNormColl o.k.desc && collFn o.k.desc == 1
        && !unitWrong s o.k (entriesRead o.k)
        && homeMember s 0 o.k.desc o.member == o.member && decide (0 < burstsOf s 0 o.k.desc o.member) && !o.ownAdds.contains 0
        && !heldBurst s (globalLocal (coDst o.k.desc) / 256)) = true ∧ ∀ f ∈ (s.chans[(0 : ChanId)]).held, f.typ ≠ 6)
    ∧ (let s := lapsing none []
       unitIsolated s .collective = false ∧ ((opOf s).any fun o => (shardsOf s 0 o.k.desc).contains 0 && firstPending s 0 o 0 == some 1) = true)
    ∧ (let s := lapsing (some (List.replicate 256 0)) []
       ((opOf s).any fun o => (shardsOf s 0 o.k.desc).contains 1 && (firstPending s 0 o 1).isNone && nextPending s 0 o 1 == some 1) = true)
    ∧ (let s := lapsing none [(0, some false)]
       ((opOf s).any fun o => (shardsOf s 0 o.k.desc).contains 1 && (firstPending s 0 o 1).isNone && (nextPending s 0 o 1).isNone) = true)
    ∧ (opOf (lapsing none [])).any (fun o => coTimeout o.k.desc != 0 && !o.timedOut && !o.played) = true
    ∧ (let s := { arriving with fabReqs := [(1, some (.burstAdd 0 3))] }
       ((getTk s 0).any fun k => k.ticket == 0 && dFamily k.desc == some .collective && k.phase == .running && !k.causes.contains .timeout
          && timedAbroad s k.inst && (opOf s).any fun o => o.k.ticket == 0 && o.k.inst == k.inst) = true) := by decide +kernel

/-- A CALL of a routine that runs in context 0 of die 0, its block of zeros at 2000h, with a ring X of n slots. -/
def callTk (n step : Nat) : Tk :=
  { issuedTk (desc [(0, 0, 0xB00), (80, 0, n)]) with phase := .running, dataStep := BitVec.ofNat 32 step }

def calling (k : Tk) (x : Ctx) : State :=
  let s := modRings (withTk k State.reset) 0 0 fun r => { r with x := { base := 0x9000, size := 4, head := 0, tail := 0 } }
  putCtx s 0 0 (some x)

def picks (n : Nat) : Nat → Bool := if n = 0x80 then fun m => decide (0x80 ≤ m) else (· == n)

/-- The command of routine n finds its context. -/
def enters (s : State) (n : Nat) (x : Ctx) (k : Tk) : Bool := (enterRoutine s 0 (picks n)).2 == some (0, 0, x, k)

theorem witness_routines :
    (enterRoutine (calling (callTk 1 0) (contextAt 0)) 0 (picks 1)).1 = calling (callTk 1 0) (contextAt 0)
    ∧ ∀ f ∈ [1, 2, 0x80, 3, 4, 5], ∀ phase ∈ [0, 1, 2], ∀ step ∈ [0, 1],
      let k := callTk f step
      let x := contextAt phase
      let s := calling k x
      let args := (argBlock s x).2.1
      enters s f x k = true ∧ x.todo = [] ∧ s.memWf = true
        ∧ (s.cvus.toList.all fun c => !c.armed) = true ∧ (argBlock s x).2.2 = false ∧ (planPart (argBlock s x).1 0 0 args).isSome = true
        ∧ fieldNat args 0 4 = (s.dies[(0 : Die)]).bankA.version.toNat ∧ (fieldNat args (32 + 64 * (step % 2)) 4 = step ↔ step = 0)
        ∧ (ringsOf s 0 0).x.tail.toNat < (ringsOf s 0 0).x.size.toNat ∧ (s.slots[(0 : Slot)]).mirrorDue = none := by decide +kernel

/-- A context with descriptors left to write, a block in a poisoned burst, one of another version, a copy that is due. -/
theorem witness_routineEnds :
    (let y : Ctx := { contextAt 0 with todo := [0] }
     enters (calling (callTk 1 0) y) 1 y (callTk 1 0) = true)
    ∧ (let s : State := { calling (callTk 1 0) (contextAt 0) with poison := [(0x20, true)] }
       enters s 1 (contextAt 0) (callTk 1 0) = true ∧ (argBlock s (contextAt 0)).2.2 = true)
    ∧ (let s : State := { calling (callTk 1 0) (contextAt 0) with mem := [(0x2000, 1)] }
       enters s 1 (contextAt 0) (callTk 1 0) = true
         ∧ fieldNat (argBlock s (contextAt 0)).2.1 0 4 ≠ (s.dies[(0 : Die)]).bankA.version.toNat)
    ∧ (let s := modSlot (calling (callTk 5 0) (contextAt 0)) 0 fun r => { r with mirrorDue := some 0 }
       enters s 5 (contextAt 0) (callTk 5 0) = true ∧ (s.slots[(0 : Slot)]).mirrorDue = some 0) := by decide +kernel

/-- Routine 80h in bank A: its entry point, and an instruction at 204h that reads the cycle counter. -/
def withCode (n : Nat) : State :=
  modDie (calling (callTk 0x80 0) (contextAt 0)) 0 fun r =>
    { r with bankA := { r.bankA with code := List.replicate 512 0 ++ leBytes 4 n ++ leBytes 4 0xC0002073 } }

theorem witness_entryPoints :
    (entryPoint (withCode 0x10000) 0 (contextAt 0) (callTk 0x80 0)).1 = 0x10000
    ∧ (∀ n ∈ [0, 516], let e := entryPoint (withCode n) 0 (contextAt 0) (callTk 0x80 0)
        e.1 < 0x10000 ∧ readsCounter e.2 = decide (n = 516)) := by decide +kernel

theorem witness_contextRegisters :
    (∀ p ∈ [true, false],
      let k := callTk 0x80 0
      let x := { contextAt 3 with published := p }
      let s := calling k x
      ctxOf s 0 0 = some x ∧ getTk s x.ticket = some k ∧ (s.cvus.toList.all fun c => !c.armed) = true ∧ actingCtx s 0 0 = some (x, k)
        ∧ k.isReplay = false ∧ x.todo = [] ∧ s.memWf = true
        ∧ rxTailOk s k 3 = true ∧ rxTailOk s k 4 = false ∧ publicationFree s k = true ∧ flagHolds s k 0 0 = true ∧ flagHolds s k 0 1 = false
        ∧ controlWrong s (.ringmaster 0) [] = false ∧ controlWrong s (.ringmaster 0) [(.flag 0, 0)] = false
        ∧ controlWrong { s with upsets := [.control (.ringmaster 0)] } (.ringmaster 0) [] = true
        ∧ controlWrong { s with upsets := [.tableEntry (.flag 0) 0] } (.ringmaster 0) [(.flag 0, 0)] = true
        ∧ actingCtx { s with upsets := [.control (.ringmaster 0)] } 0 0 = some (x, k))
    ∧ (let k := { callTk 0x80 0 with isReplay := true }
       let x := { contextAt 3 with todo := [0] }
       actingCtx (calling k x) 0 0 = some (x, k) ∧ controlWrong (calling k x) (.ringmaster 0) [] = false)
    ∧ (let k := callTk 0x80 0
       let x := { contextAt 3 with published := false }
       let before := { callTk 0x80 0 with ticket := 1 }
       let s : State := { calling { k with inst := 9 } x with tickets := [(0, some { k with inst := 9 }), (1, some before)] }
       actingCtx s 0 0 = some (x, { k with inst := 9 }) ∧ publicationFree s { k with inst := 9 } = false)
    ∧ (let k := callTk 0x80 0
       let x := { contextAt 3 with published := false, held := true, todo := [0] }
       ctxOf (calling k x) 0 0 = some x ∧ publicationFree (calling k x) k = true ∧ x.wait = none)
    ∧ (∀ goal ∈ [0, 1], ∀ met ∈ [true, false],
       let k := callTk 0x80 0
       let x := { contextAt 3 with wait := some (0, BitVec.ofNat 16 goal), waitMet := met }
       let s := calling k x
       ctxOf s 0 0 = some x ∧ s.power = .running ∧ unitIsolated s (.ringmaster 0) = false
         ∧ flagHolds s k 0 (BitVec.ofNat 16 goal) = decide (goal = 0)) := by
  refine ⟨?_, ?_, ?_, ?_, ?_⟩ <;> decide +kernel

theorem witness_reservations :
    (∀ replay ∈ [true, false], ∀ r ∈ [none, some 0x20, some (privBurst 0 (privBase + 8))], ∀ a ∈ [0x2008, privBase + 8],
      let k := { callTk 0x80 0 with isReplay := replay }
      let x := { contextAt 3 with reservation := r }
      let s := calling k x
      actingCtx s 0 0 = some (x, k) ∧ ctxOf s 0 0 = some x ∧ k.ticket = x.ticket ∧ s.memWf = true ∧ sparseWf 0 (s.dies[(0 : Die)]).priv = true
        ∧ controlWrong s (.ringmaster 0) [] = false ∧ (ctxLoad s 0 0 x k a 8).isSome = true
        ∧ storable s 0 0 k a 8 = some (if a = 0x2008 then 0x20 else privBurst 0 a) ∧ heldBurst s 0x20 = false ∧ heldBurst s (privBurst 0 a) = false
        ∧ a % 8 = 0 ∧ (a + 1) % 8 ≠ 0 ∧ (inPriv a 8 = true ↔ a ≠ 0x2008) ∧ privBroken s 0 a = false
        ∧ ¬ bankWindow ≤ 0x2008 ∧ ¬ controlBase ≤ 0x2008 ∧ ctxReaches s 0 0 0x2008 8 = true ∧ spanBad s 0x2008 8 = false)
    ∧ (let k := callTk 0x80 0
       let x := contextAt 3
       let s := calling k x
       ctxLoad s 0 0 x k (4 * stackSpan) 8 = none ∧ storable s 0 0 k (4 * stackSpan) 8 = none ∧ ctxReaches s 0 0 bankWindow 8 = false
         ∧ bankWindow % 8 = 0 ∧ privBroken { s with upsets := [.privWord 0 1 true] } 0 (privBase + 8) = true
         ∧ rxTaken (modRings s 0 0 fun r => { r with x := { r.x with tail := 3 } }) k 0x9000 = true) := by decide +kernel

/-- A flit of a type for module 0 from module 1. -/
def flitOf (typ arg : Nat) (n : Nat) : Flit :=
  sealFlit { typ := BitVec.ofNat 8 typ, vc := 1, ttl := 31, dest := 0, src := 1, arg := BitVec.ofNat 64 arg, payload := List.replicate n 7 }

/-- A flit as it leaves a link passes the receiver's check. -/
theorem intact_seal (f : Flit) : intact (sealFlit f) = true := by
  simp only [intact, sealFlit, lcrcOf, flitHeader, Bool.not_false, Bool.true_and, beq_self_eq_true]

theorem arrives_flitOf (s : State) (p : PortId) (typ arg n t : Nat) : arrives s p (flitOf typ arg n) t
    = (s.power == .running && (s.ownFlits.contains (flitOf typ arg n) || portUsable s.ports[p]) && (BitVec.ofNat 8 typ).toNat == t
        && (0 : BitVec 13).toNat == ownModule s) := by
  unfold arrives flitOf
  rw [intact_seal, Bool.and_true]
  rfl

/-- Port 0 carries traffic and leads to module 1. -/
def linked (s : State) : State :=
  { modPort s 0 fun r => { r with state := 2, peer := 1, credits := Vector.replicate 8 16 } with routes := [(1, BitVec.ofNat 64 (2 ^ 63 + 1))] }

def flagOfOthers : State := { linked State.reset with flags := [(5, 0xC000)] }

theorem witness_requests :
    (let f := flitOf 1 0x2000 256
     let s := linked State.reset
     flitSized f = true ∧ f ∉ s.ownFlits ∧ s.memWf = true ∧ arrives s 0 f 1 = true ∧ peerMay s f 0x2000 256 = true ∧ heldBurst s 0x20 = false
       ∧ burstTripped s 0x20 = false ∧ Reaches s 1 ∧ peerMay s { f with arg := 0x2001 } 0x2001 256 = false
       ∧ (let w := modHome s 0 fun r => { r with level := 6 }
          arrives w 0 f 1 = true ∧ peerMay w f 0x2000 256 = true ∧ heldBurst w 0x20 = false ∧ burstTripped w 0x20 = true))
    ∧ (let f := flitOf 2 (0x2000 + 2 ^ 43) 0
       flitSized f = true ∧ arrives (linked State.reset) 0 f 2 = true ∧ bitsOf f.arg 50 43 + 1 = 2 ∧ bitsOf f.arg 42 0 = 0x2000
         ∧ peerMay (linked State.reset) f 0x2000 512 = true ∧ peerMay (linked State.reset) f 0x2001 512 = false)
    ∧ (let f := flitOf 5 (5 * 2 ^ 36 + 1) 0
       flitSized f = true ∧ arrives flagOfOthers 0 f 5 = true ∧ (f.arg.setWidth 8 : BitVec 8) = 1 ∧ bitsOf f.arg 47 36 = 5 ∧ bitsOf f.arg 35 34 = 0
         ∧ feEnable (flagEntry flagOfOthers 0 5) = true ∧ feRemote (flagEntry flagOfOthers 0 5) = true
         ∧ controlWrong flagOfOthers (.dispatch 0) [(.flag 0, 5)] = false
         ∧ (∀ x ∈ [Upset.tableEntry (.flag 0) 5, .control (.dispatch 0)], let s := { flagOfOthers with upsets := [x] }
             arrives s 0 f 5 = true ∧ controlWrong s (.dispatch 0) [(.flag 0, 5)] = true)
         ∧ feEnable (flagEntry (linked State.reset) 0 5) = false) := by
  unfold Reaches
  simp only [arrives_flitOf]
  refine ⟨?_, ?_, ?_⟩ <;> decide +kernel

/-- A GET or STREAM whose request of n bursts stands under tag 1. -/
def asking (stream : Bool) (n : Nat) : State :=
  let k := if stream then streamingTk 0 0 .reading else { xferTk 1 512 1 0 with phase := .running, run := .xfer { entries := [], landed := [] } }
  { linked (withTk k State.reset) with fabReqs := [(1, some (if stream then .stream k.inst 0 0x20 n [] else .get k.inst 0 0 n []))] }

theorem witness_answers :
    (∀ b ∈ [true, false], ∀ n ∈ [1, 2],
      let s := asking b n
      let f := flitOf 3 (2 ^ 51) 256
      flitSized f = true ∧ sparseWf none s.fabReqs = true ∧ s.waitReqs = [] ∧ arrives s 0 f 3 = true ∧ flitTag f = 1 ∧ bitsOf f.arg 50 43 < n
        ∧ ((sparseGet none s.fabReqs 1).any fun r => match r with
            | .get inst t _ m seen => !b && m == n && seen.isEmpty && (instTk s t inst).any fun k => k.ticket == t && k.inst == inst
                && isXfer 1 k.desc && k.phase == .running && (match k.run with | .xfer _ => true | _ => false) && dOutW k.desc 0 == .none && !k.isReplay
            | .stream inst t _ m seen => b && m == n && seen.isEmpty && (getTk s t).any fun k => k.inst == inst && (streamOf k).isSome
            | _ => false) = true
        ∧ bitOf f.arg 0 = false ∧ bitOf f.arg 1 = false ∧ (s.cvus.toList.all fun c => !c.armed) = true
        ∧ sparseGet none (linked State.reset).fabReqs 1 = none
        ∧ (let g := flitOf 3 (2 ^ 51 + 3) 256
           arrives s 0 g 3 = true ∧ flitTag g = 1 ∧ bitOf g.arg 0 = true ∧ bitOf g.arg 1 = true)
        ∧ (let g := flitOf 4 (2 ^ 51 + Status.invalid.code.toNat) 0
           flitSized g = true ∧ arrives s 0 g 4 = true ∧ flitTag g = 1 ∧ (g.arg.setWidth 8 : BitVec 8) = Status.invalid.code))
    ∧ (∀ x ∈ [Status.invalid, .eccUncorr, .hot, .ok],
      let k := { xferTk 0 256 0 1 with phase := .ended }
      let s := { linked (withTk k State.reset) with fabReqs := [(1, some (.put k.inst 0))] }
      let f := flitOf 4 (2 ^ 51 + x.code.toNat) 0
      flitSized f = true ∧ sparseWf none s.fabReqs = true ∧ arrives s 0 f 4 = true ∧ getTk s 0 = some k ∧ k.ticket = 0
        ∧ (f.arg.setWidth 8 : BitVec 8) = x.code) := by
  simp only [arrives_flitOf]
  refine ⟨?_, ?_⟩ <;> decide +kernel

/-- Slot 0 with a READ of its restore out under tag 1: that of the header, or of n payload bursts. -/
def restoreReads (header : Bool) (n : Nat) : State :=
  let s := linked (atSlot 0 fun r => if header then { r with restoreStep := 3, restoreSource := 1, slotState := .restoring, headerAsked := some (9, .restoreFailed) }
    else { r with slotState := .restoring, restore := some { exampleRun 0 with run := 9 } })
  { s with fabReqs := [(1, some (if header then .restoreHeader 0 9 localSize else .restore 0 9 localSize 0 n []))] }

/-- DATA of a header for data step 3 with the given stream step. -/
def headerData (stream : Nat) : Flit := sealFlit { flitOf 3 (2 ^ 51) 256 with payload := exampleHeader stream }

theorem arrives_headerData (n : Nat) : arrives (restoreReads true 1) 0 (headerData n) 3 = true := by
  unfold arrives headerData
  rw [intact_seal, Bool.and_true]
  have h : portUsable (restoreReads true 1).ports[(0 : PortId)] = true := by decide +kernel
  rw [h, Bool.or_true]
  rfl

set_option maxRecDepth 20000 in
theorem witness_restoreReads :
    (∀ n ∈ [3, 4], (headerData n).payload = exampleHeader n ∧ bitsOf (headerData n).arg 50 43 = 0 ∧ flitTag (headerData n) = 1
      ∧ headerOk (restoreReads true 1) 0 (exampleHeader n) = true ∧ headerGoes (restoreReads true 1) 0 (exampleHeader n) = decide (n = 3))
    ∧ headerGoes (restoreReads true 1) 0 [] = false
    ∧ (restoreReads true 1).slots[0].headerAsked = some (9, .restoreFailed)
    ∧ (∀ n ∈ [1, 2], let s := restoreReads false n
        let f := flitOf 3 (2 ^ 51) 256
        arrives s 0 f 3 = true ∧ flitTag f = 1 ∧ bitsOf f.arg 50 43 = 0 ∧ sparseWf none s.fabReqs = true ∧ s.waitReqs = []
          ∧ ((sparseGet none s.fabReqs 1).any fun r => match r with | .restore 0 9 _ 0 m [] => m == n | _ => false) = true
          ∧ (s.slots[0].restore.any fun q => q.run == 9 && sparseWf none q.got) = true) := by
  simp only [arrives_flitOf]
  decide +kernel

/-- A restore from module 1 sends the READ of its header on virtual channel 7. -/
theorem test_restoreAsks :
    let s := linked (atSlot 0 fun r => { r with restoreStep := 3, restoreSource := 1 })
    ((askHeader s 0).sent.any fun m => match m with
      | .flit 0 f => f.typ == 2 && f.vc == 7 && f.dest == 1 && bitsOf f.arg 50 43 == 0
      | _ => false) = true := by decide +kernel

/-- A collective under way on channel 0, and a flit of its CSEQ or of another. -/
def channelFlit (typ cseq rest n : Nat) : Flit := flitOf typ (cseq * 2 ^ 26 + rest) n

theorem witness_channelFlits :
    (∀ typ ∈ [0x10, 0x11], ∀ b ∈ [3, 4], ∀ held ∈ [true, false],
      let x : Blk := { src := 1, result := typ == 0x11, block := b, nonfinite := false, arg := 0, payload := [] }
      let s := linked (playing .member (if typ = 0x11 then 2 else 1) false (fun o => { o with blocks := if held then [x] else [] }) State.reset)
      let f := channelFlit typ 0 (8 * b) 256
      flitSized f = true ∧ arrives s 0 f typ = true ∧ argChannel f = 0 ∧ currentFlit s 0 f = true ∧ bitsOf f.arg 25 3 = b
        ∧ ((opOf s).any fun o => !o.played && !isNormColl o.k.desc && decide (64 * b < coCount o.k.desc) == decide (b = 3)
            && (o.blocks.any fun y => y.src == 1 && y.block == b && y.result == (typ == 0x11)) == held && isGather o.k.desc == (typ == 0x11)) = true
        ∧ currentFlit s 0 (channelFlit typ 7 0 256) = false)
    ∧ (let s := linked (playing .member 0 true id State.reset)
       let f := channelFlit 0x13 0 0 256
       flitSized f = true ∧ arrives s 0 f 0x13 = true ∧ currentFlit s 0 f = true
         ∧ ((opOf s).any fun o => !o.played && isNormColl o.k.desc && o.blocks.isEmpty) = true
         ∧ (let g := channelFlit 0x10 0 0 256 -- a CHAIN for a norm collective lies past COUNT 0
            arrives s 0 g 0x10 = true ∧ currentFlit s 0 g = true ∧ ((opOf s).any fun o => decide (coCount o.k.desc ≤ 0)) = true))
    ∧ (let s := linked (playing .member 1 false (fun o => { o with played := true }) State.reset)
       let f := channelFlit 0x10 0 0 256
       arrives s 0 f 0x10 = true ∧ currentFlit s 0 f = true ∧ ((opOf s).any (·.played)) = true)
    ∧ (let s := modChan (linked State.reset) 0 fun r => { r with last := some (7, 0, 0, 3), nextCseq := 8 }
       let f := channelFlit 0x15 7 2 0
       flitSized f = true ∧ arrives s 0 f 0x15 = true ∧ bitsOf f.arg 7 0 = 2 ∧ currentFlit s 0 f = false ∧ futureFlit s 0 f = false
         ∧ bitsOf f.arg 57 26 = 7 ∧ unitIsolated s .collective = false ∧ opOf s = none)
    ∧ (∀ x ∈ [(0x12, 0), (0x14, 256), (0x15, 0)], ∀ n ∈ [1, 2, 3],
      let s := linked (playing .member 1 false id State.reset)
      let f := channelFlit x.1 0 n x.2
      flitSized f = true ∧ arrives s 0 f x.1 = true ∧ currentFlit s 0 f = true ∧ bitsOf f.arg 7 0 = n
        ∧ unitIsolated s .collective = false ∧ unitIsolated { s with isolated := [.collective] } .collective = true
        ∧ ((opOf s).any fun o => !o.played && bitsOf f.arg 25 22 != collFn o.k.desc && !unitWrong s o.k []
            && unitWrong { s with upsets := [.control .collective] } o.k []) = true
        ∧ currentFlit s 0 (channelFlit x.1 5 n x.2) = false ∧ futureFlit s 0 (channelFlit x.1 5 n x.2) = true
        ∧ currentFlit s 0 (channelFlit x.1 0xFFFFFFFF n x.2) = false ∧ futureFlit s 0 (channelFlit x.1 0xFFFFFFFF n x.2) = false)
    ∧ (let f := flitOf 6 0 256
       flitSized f = true ∧ arrives (linked State.reset) 0 f 6 = true ∧ opOf (linked State.reset) = none
         ∧ (opOf (linked (playing .member 1 false id State.reset))).isSome = true) := by
  unfold channelFlit
  simp only [arrives_flitOf]
  refine ⟨?_, ?_, ?_, ?_, ?_, ?_⟩ <;> decide +kernel

/-- A flit on its way from module 1 to module 2, which port 1 leads to. -/
def passing (typ : Nat) : Flit :=
  sealFlit { typ := BitVec.ofNat 8 typ, vc := 1, ttl := 31, dest := 2, src := 1, arg := 0, payload := List.replicate (if typ = 1 then 256 else 0) 7 }

theorem intact_passing (typ : Nat) : intact (passing typ) = true := intact_seal _
theorem intact_flitOf (typ arg n : Nat) : intact (flitOf typ arg n) = true := intact_seal _

def between : State :=
  { modPort (linked State.reset) 1 fun r => { r with state := 2, credits := Vector.replicate 8 1 } with
    routes := [(1, BitVec.ofNat 64 (2 ^ 63 + 1)), (2, BitVec.ofNat 64 (2 ^ 63 + 2))] }

theorem witness_links :
    (∀ typ ∈ [1, 4], let f := passing typ
      portUsable between.ports[(0 : PortId)] = true ∧ flitSized f = true ∧ intact f = true ∧ f.typ ≠ 0 ∧ knownType f.typ = true ∧ f.dest.toNat ≠ ownModule between
        ∧ f.ttl ≠ 0 ∧ (1 : PortId) ∈ routePorts between 2 ∧ (0 : PortId) ∉ routePorts between 2 ∧ (between.ports[(1 : PortId)]).credits[vcIx f] ≠ 0
        ∧ routePorts between 3 = [] ∧ controlWrong between (.linkDie (linkDieOf 0)) [(.routing (linkDieOf 0), 2)] = false
        ∧ controlWrong { between with upsets := [.tableEntry (.routing 0) 2] } (.linkDie (linkDieOf 0)) [(.routing (linkDieOf 0), 2)] = true)
    ∧ (knownType (flitOf 0x30 0 0).typ = false ∧ intact (flitOf 0x30 0 0) = true)
    ∧ (flitSized (flitOf 1 0 256) = true ∧ between.ownFlits = [] ∧ intact { flitOf 1 0 256 with garbled := true } = false)
    ∧ (∀ nak ∈ [0, 1], let f := flitOf 0 (nak * 2 ^ 51) 0
        flitSized f = true ∧ intact f = true ∧ f.typ = 0 ∧ between.outQueue = [] ∧ bitOf f.arg 51 = decide (nak = 1))
    ∧ flitSized (flitOf 1 0 255) = false := by
  simp only [intact_passing, intact_flitOf]
  refine ⟨?_, ?_, ?_, ?_, ?_⟩ <;> decide +kernel

/-- Port 0 in a state, with its spare lane free or not. -/
def portAt (state : Nat) (bad : Bool) (moving : Option (Fin 8)) (lost : Option Bool) : State :=
  modPort State.reset 0 fun r => { r with state := Fin.ofNat 5 state, spareBad := bad, moving := moving, lostHalf := lost }

theorem witness_lanes :
    (∀ bad ∈ [true, false], let s := portAt 2 bad none none
      portUsable s.ports[(0 : PortId)] = true ∧ spareFree s 0 = !bad ∧ (s.ports[(0 : PortId)]).repaired = none ∧ (s.ports[(0 : PortId)]).moving = none
        ∧ (s.ports[(0 : PortId)]).spareBad = bad ∧ (s.ports[(0 : PortId)]).state = 2)
    ∧ (let s := portAt 4 true none (some true)
       portUsable s.ports[(0 : PortId)] = true ∧ laneHalf 3 ≠ (s.ports[(0 : PortId)]).lostHalf.getD true
         ∧ laneHalf 7 = (s.ports[(0 : PortId)]).lostHalf.getD true ∧ s.outQueue = [])
    ∧ (∀ state ∈ [2, 4], let s := portAt state false (some 5) none
       (s.ports[(0 : PortId)]).moving = some 5 ∧ (s.ports[(0 : PortId)]).repaired = none ∧ portUsable s.ports[(0 : PortId)] = true
         ∧ ((s.ports[(0 : PortId)]).state.val = state))
    ∧ (let s := modPort State.reset 0 fun r => { r with state := 3, repaired := some 5 }
       portUsable s.ports[(0 : PortId)] = true ∧ (s.ports[(0 : PortId)]).spareBad = false ∧ (s.ports[(0 : PortId)]).repaired = some 5)
    ∧ (∀ lost ∈ [none, some false], let s := portAt 1 false none lost
        (s.ports[(0 : PortId)]).state = 1 ∧ s.isolated.contains (.linkDie (linkDieOf 0)) = false ∧ s.outQueue = [] ∧ (s.ports[(0 : PortId)]).lostHalf = lost)
    ∧ (let s := { portAt 0 false none none with fabric := { State.reset.fabric with portEnable := 1 } }
       (s.ports[(0 : PortId)]).state = 0 ∧ (s.ports[(0 : PortId)]).downed = false ∧ bitOf s.fabric.portEnable 0 = true) := by decide +kernel

/-- Slot 0 with eight scale entries in tier 1, its commit flag enabled. -/
def committing (strict : Bool) : State :=
  { atSlot 0 fun r => { r with scaleCount := 1, scaleBase := 0x2000, imageBase := 0x100000, commitFlag := 1,
                               inForce := { r.inForce with integrity := if strict then .strict else r.inForce.integrity } } with
    flags := [(1, 0x58000)] }

/-- A scale entry of 32 bytes: frozen or not, its history empty or 5 and 3. -/
def scaleEntry (frozen : Bool) (hist : List Nat) : List Byte :=
  fitBytes 32 (leBytes 1 0 ++ leBytes 1 (if frozen then 64 else 0) ++ leBytes 6 0 ++ (hist ++ List.replicate (16 - hist.length) 0x80).flatMap (leBytes 1))

theorem witness_commits :
    (∀ frozen ∈ [true, false], ∀ hist ∈ [[], [5, 3]],
      let e := scaleEntry frozen hist
      e.length = 32 ∧ (fieldNat e 1 1 / 64 % 2 = 1 ↔ frozen = true)
        ∧ ((List.range 16).filter fun i => fieldNat e (8 + i) 1 != 0x80 && fieldNat e (8 + i) 1 != 0x7F).length = hist.length)
    ∧ (∀ strict ∈ [true, false],
      let s := committing strict
      let r := s.slots[(0 : Slot)]
      s.memWf = true ∧ commitReady s 0 = true ∧ (r.inForce.integrity = .strict ↔ strict = true) ∧ r.scaleBase.toNat % 256 = 0 ∧ burstBad s 0x20 = false
        ∧ r.scaleBase.toNat + scalePart r ≤ imageAddr r 1 ∧ imageAddr r 1 % 256 = 0 ∧ unitIsolated s .mirror = false
        ∧ controlWrong s .mirror (commitEntries s 0) = false
        ∧ (let w := { s with upsets := [.tableEntry (.flag 3) 0] }
           unitIsolated w .mirror = false ∧ commitReady w 0 = true ∧ controlWrong w .mirror (commitEntries w 0) = true)
        ∧ unitIsolated { s with isolated := [.mirror] } .mirror = true)
    ∧ commitReady State.reset 0 = false := by decide +kernel

/-- Slot 0 with a CALL of the step before to replay, which its log holds. -/
def replayDue (strict : Bool) : State :=
  atSlot 0 fun r => { r with replayPrev := [(7, 0)], suspectPrev := true,
                             callLogPrev := [{ call := (7, 0), desc := desc [(0, 0, 0xB00), (2, 0, 7)], bankB := false, flags := [], due := none }],
                             inForce := { r.inForce with integrity := if strict then .strict else r.inForce.integrity } }

/-- A replay of it with one descriptor, of which m have their tickets; n signature entries. -/
def replayAt (m n : Nat) : State :=
  atSlot 0 fun r => { r with replayPrev := [(7, 0)], suspectPrev := true, sigEntries := BitVec.ofNat 32 n, sigBase := 0x2000,
                             replaying := some { calls := [((7, 0), 0)], descs := [((7, 0), desc [(0, 0, 0x900)])], taken := m, flags := [] } }

theorem witness_swapsAndReplays :
    (∀ b ∈ [true, false], let s := { State.reset with integrity := { State.reset.integrity with swapDue := Vector.replicate 2 (some b) } }
      s.integrity.swapDue[(0 : Fin 2)] = some b ∧ pairIdle s 0 = true ∧ pairIdle (withTk (issuedTk 0) s) 0 = false)
    ∧ State.reset.integrity.swapDue[(0 : Fin 2)] = none
    ∧ (∀ busy ∈ [true, false],
      let s := { (if busy then withTk (issuedTk 0) State.reset else State.reset) with repeats := [issuedTk 0] }
      (s.repeats.find? fun k => dSlot k.desc == 0 && k.ticket == 0) = some (issuedTk 0) ∧ ((getTk s 0).isSome = busy))
    ∧ (let k := { issuedTk 0 with popped := [(0x10, entryOf 8)] }
       let s := { State.reset with repeats := [k] }
       s.repeats.find? (fun k => dSlot k.desc == 0 && k.ticket == 0) = some k ∧ getTk s 0 = none ∧ sparseWf [] s.queues = true)
    ∧ (∀ strict ∈ [true, false],
      let s := replayDue strict
      let r := s.slots[(0 : Slot)]
      s.repeats = [] ∧ r.replaying = none ∧ (r.replayPrev.find? fun c => c.1 == 7) = some (7, 0) ∧ (r.inForce.integrity = .strict ↔ strict = true)
        ∧ (r.callLogPrev.filter fun l => (joinedCalls r.chainsPrev r.chainsPrev.length [(7, 0)]).contains l.call).length = 1
        ∧ replayPoint s (dieXor (tkDie 7)) 0 = true ∧ getTk s 7 = none
        ∧ 1 ≤ ((List.finRange 8).filter fun x => (ctxOf s (servedDie s (dieXor (tkDie 7))) x).isNone).length) := by decide +kernel

theorem witness_replayRuns :
    (∀ busy ∈ [true, false],
      let s := { replayAt 0 0 with tickets := if busy then [(0, some (issuedTk 0))] else [] }
      let r := s.slots[(0 : Slot)]
      s.power = .running ∧ s.repeats = [] ∧ (r.replaying.any fun run => (run.descs[run.taken]?.any fun p => dTicket p.2 == 0)) = true
        ∧ (getTk s 0).isSome = busy)
    ∧ (∀ n ∈ [0, 1],
      let s := replayAt 1 n
      let r := s.slots[(0 : Slot)]
      (r.replaying.any fun run => decide (run.descs.length ≤ run.taken) && run.calls == [((7, 0), 0)]) = true
        ∧ (slotTks s 0).any (·.isReplay) = false ∧ (signatureOf s 0 (7, 0) (r.dataStep - 1) = some 0 ↔ n = 1) ∧ r.resolutionFailed = false)
    ∧ (∀ causes ∈ [[], [Status.residue]],
      let k := { issuedTk (desc [(0, 0, 0x900)]) with phase := .ended, isRepeat := true, causes := causes }
      let s := { withTk k State.reset with repeats := [k] }
      getTk s 0 = some k ∧ dispatches s k = true ∧ unitIsolated s (tkUnit s k) = false ∧ settledTk s k = true
        ∧ k.causes.any suspectStatus = decide (causes ≠ [])) := by decide +kernel

/-! ## Well-formedness: an ill-formed term for each check -/

def zeros (n : Nat) : List Byte := List.replicate n 0

theorem test_segment_too_long :
    (Instr.writeMore canA 0x5100 0 0 (zeros 2049)).wellFormed = false ∧ (Instr.writeLast canA 0x5100 0 0 (zeros 2049)).wellFormed = false
    ∧ (Instr.objectWrite canA 0x5100 0 (zeros 2049)).wellFormed = false ∧ (Instr.fieldRelay 0 (zeros 2049)).wellFormed = false
    ∧ (Instr.response { carrier := { bus := .fbA } } 0 0 (zeros 2049)).wellFormed = false ∧ (Instr.objectWrite canA 0x5100 0 (zeros 2048)).wellFormed = true := by
  decide +kernel

theorem test_bursts_missized :
    (Instr.mainbandWrite 0 0 []).wellFormed = false ∧ (Instr.mainbandWrite 0 0 (zeros 255)).wellFormed = false
    ∧ burstsSized (zeros (65536 + 256)) = false ∧ (Instr.mainbandWriteMasked 0 0 (zeros 257) []).wellFormed = false
    ∧ (Instr.mainbandWriteMasked 0 0 (zeros 256) [true]).wellFormed = false ∧ (Instr.mainbandWrite 0 0 (zeros 256)).wellFormed = true
    ∧ (Instr.mainbandWriteMasked 0 0 (zeros 256) (List.replicate 256 true)).wellFormed = true := by decide +kernel

theorem test_flit_missized :
    (∀ n ∈ [0x01, 0x03, 0x06, 0x10, 0x11, 0x13, 0x14], flitSized (flitOf n 0 255) = false ∧ flitSized (flitOf n 0 256) = true)
    ∧ (∀ n ∈ [0x00, 0x02, 0x04, 0x05, 0x12, 0x15], flitSized (flitOf n 0 1) = false ∧ flitSized (flitOf n 0 0) = true)
    ∧ (Instr.writeFlit 0 (flitOf 1 0 0)).wellFormed = false ∧ (Instr.flitForward 0 1 (flitOf 1 0 0)).wellFormed = false
    ∧ (Instr.linkFlit 0 (flitOf 0 0 1)).wellFormed = false := by decide +kernel

/-- The opcode table gives no bits. -/
theorem test_no_table_word : decodeTableWord 32 0 = none ∧ State.reset.withFetchWord 32 0 = State.reset := ⟨rfl, rfl⟩

/-! ## Values that the manual works out -/

/-- The draw example of "Number formats": the mixer, and its first two element words. -/
theorem test_mixer : mix 0 = 0x91906BBE167333DB ∧ mix 0x91906BBE167333DB = 0x7C22D28F65E54972 ∧ mix 0x91906BBE167333DA = 0x27220A8D5BE0217E := by
  decide +kernel

/-- 300.6 in scaled units is drained to L8f 79h, and 0.021 under X = −8 becomes L4w 0111b. -/
theorem test_rounding : l8fCode (.fin false 3006 0 |> fun v => divVal v (.fin false 10 0)) = 0x79
    ∧ l4wCode (-8) (divVal (.fin false 21 0) (.fin false 1000 0)) = 0b0111 := by decide +kernel

/-- Queue end 010h of the first tile of a forward projection: both rings X, slot 2, engine 0, first strip 0, 1,024 strips. -/
theorem test_queue_end : let e : BitVec 64 := 0xA900000800000000
    qeEnable e = true ∧ qeProd e = 1 ∧ qeCons e = 1 ∧ qeSlot e = 2 ∧ qeEngine e = 0 ∧ qeFirst e = 0 ∧ qeStrips e = 1024 := by decide +kernel

/-- Flag 040h of the same tile: enabled, slot 2, producer 02Ch, VALUE 0. -/
theorem test_flag_entry : let e : BitVec 32 := 0x0000882C
    feEnable e = true ∧ feRemote e = false ∧ feSlot e = 2 ∧ feProducer e = 0x02C ∧ feValue e = 0 := by decide +kernel

/-- Its first MATMUL and its DRAIN, from the words of the example. -/
theorem test_first_tile :
    (let d := desc [(2, 0, 0x014), (5, 0, 0x42), (6, 0, 7), (24, 0, 0x8010), (80, 0, 0x000040007FC00000), (88, 0, 0x310), (92, 0, 0x311), (96, 0, 0x1000)]
     dFamily d = some .matmul ∧ dTicket d = 0x014 ∧ dNorec d = true ∧ dSlot d = 2 ∧ dEpoch d = 7 ∧ dInQ d 0 = some 0x010 ∧ dAccSeq d = 0
       ∧ dAccMode d = .start ∧ dAccSet d = 0 ∧ dBase8 d = 0 ∧ dRows8 d = 511 ∧ dTidStat d = 0x310 ∧ dTidStream d = 0x311)
    ∧ (let d := desc [(0, 0, 0x300), (64, 0, 0x9040000000000001), (80, 0, 0x0018000000000000)]
       dFamily d = some .drain ∧ dAccSeq d = 24 ∧ dTarget d = 0 ∧ dForce d = false
         ∧ (dSet d 0).map (fun w => (w.scope, w.flag.toNat, w.inc.toNat)) = some (1, 0x040, 1))
    ∧ (let d := desc [(48, 0, 0x90400001)]
       (dWait d 0).map (fun w => (w.flag.toNat, w.target.toNat)) = some (0x040, 1)) := by decide +kernel

/-- Step 4,711 of "one member finds a NaN": skipped, λ 16 to 15, GOOD_STEPS 1,203 to 0, SKIPS 4 to 5, LIVE kept. -/
theorem test_skipped_step :
    let old : List Byte := fitBytes 64 (leBytes 4 4711 ++ leBytes 1 16 ++ leBytes 1 0 ++ leBytes 1 24 ++ leBytes 1 1 ++ leBytes 4 1203 ++ leBytes 4 2000
      ++ leBytes 4 0x3F800000 ++ leBytes 8 0 ++ leBytes 4 4)
    let cl := clipOf old 0x7FC00000 true
    cl.skipped = true ∧ cl.lambda = 15 ∧ fieldNat cl.record 0 4 = 4712 ∧ fieldNat cl.record 7 1 = 3 ∧ fieldNat cl.record 8 4 = 0
      ∧ fieldNat cl.record 20 4 = 0x7FC00000 ∧ fieldNat cl.record 28 4 = 5 := by decide +kernel

/-- A gradient history whose largest entry is −9 gets σ = −9 − 15 + 0. -/
theorem test_sigma :
    let e : List Byte := fitBytes 32 (leBytes 1 1 ++ leBytes 7 0 ++ leBytes 1 0x80 ++ leBytes 1 247 ++ List.replicate 14 0x80)
    fieldNat (commitEntry 0 (overlay e 6 [0x80, 0x80])) 4 1 = 256 - 24 := by decide +kernel

/-- CRC-32C of 32 bytes of 0, as RFC 3720 lists it. -/
theorem test_crc : crc32c (zeros 32) = 0x8A9136AA := by decide +kernel
end Sys2Proof.Tests
end

section
/-! PROOFS. The rounds that a Carousel reads: what a read may change, what its code finds, and what each input takes of it (R43, R45,
R60 to R64, R66, R68, R71, R73). -/

namespace Sys2Proof.Machine

/-! ## Small facts of the shared operations -/

/-- A change of an engine is seen there. -/
theorem modEng_engine_same (s : State) (e : Eng) (f : EngineR → EngineR) : (modEng s e f).engines[e] = f s.engines[e] := by
  simp [modEng, vmod]

theorem mem_addOnce {α : Type} [DecidableEq α] {l : List α} {x y : α} : y ∈ addOnce l x ↔ y ∈ l ∨ y = x := by
  unfold addOnce
  split
  case isTrue h => exact ⟨.inl, fun | .inl hy => hy | .inr hy => hy ▸ h⟩
  case isFalse => simp

theorem listMod_getElem? {α : Type} (f : α → α) : ∀ (l : List α) (i j : Nat),
    (listMod l i f)[j]? = l[j]?.map fun x => if i = j then f x else x
  | [], _, _ => rfl
  | x :: l, 0, 0 => rfl
  | x :: l, 0, j + 1 => by simp [listMod]
  | x :: l, i + 1, 0 => by simp [listMod]
  | x :: l, i + 1, j + 1 => by simp [listMod, listMod_getElem? f l i j]

/-- A change of every ticket is seen at each. -/
theorem sparseGet_map (f : Tk → Tk) : ∀ (l : Sparse (Option Tk)) (n : Nat),
    sparseGet none (l.map fun p => (p.1, p.2.map f)) n = (sparseGet none l n).map f
  | [], _ => rfl
  | (j, v) :: l, n => by
    simp only [List.map_cons, sparseGet, sparseGet_map f l n]
    split <;> rfl

/-! ## A descriptor that ends with INVALID -/

/-- The descriptor has ended, and INVALID is among its causes. -/
def EndedInvalid (k : Tk) : Prop := k.phase = .ended ∧ .invalid ∈ k.causes

theorem failTk_endedInvalid (k : Tk) : EndedInvalid (failTk .invalid k) := ⟨rfl, mem_addOnce.mpr (.inr rfl)⟩

theorem closeSet_tickets (s : State) (e : Eng) (m : Fin 16) (st : SetState) (marker : Bool) :
    (closeSet s e m st marker).tickets = s.tickets := by
  unfold closeSet
  extract_lets a v
  show v.tickets = s.tickets
  unfold v
  split <;> rfl

/-- A set that becomes INVALID ends what names it with INVALID, and no descriptor otherwise. -/
theorem invalidateSet_keeps_ended {s : State} {e : Eng} {m : Fin 16} {t : TicketId} {k : Tk} (h : getTk s t = some k)
    (hk : EndedInvalid k) : ∃ x, getTk (invalidateSet s e m) t = some x ∧ EndedInvalid x := by
  have hc : sparseGet none (closeSet s e m .invalid true).tickets t.val = some k := by rw [closeSet_tickets]; exact h
  unfold invalidateSet getTk
  simp only [sparseGet_map, hc, Option.map_some]
  refine ⟨_, rfl, ?_⟩
  split
  · exact failTk_endedInvalid k
  · exact hk

theorem refuseSet_keeps_ended {s : State} {c k : Tk} {t : TicketId} (h : getTk s t = some k) (hk : EndedInvalid k) :
    ∃ x, getTk (refuseSet s c) t = some x ∧ EndedInvalid x := by
  have same {v : State} (hv : v.tickets = s.tickets) : ∃ x, getTk v t = some x ∧ EndedInvalid x :=
    ⟨k, by unfold getTk at *; rw [hv]; exact h, hk⟩
  unfold refuseSet
  split
  · extract_lets e m a
    split
    · split <;> exact same rfl
    · split
      · exact same rfl
      · exact invalidateSet_keeps_ended h hk
  · exact same rfl

/-- A refused descriptor has ended with INVALID. -/
theorem refuse_ended {s : State} {t : TicketId} {k : Tk} (h : getTk s t = some k) (ht : k.ticket = t) :
    ∃ x, getTk (refuse s t) t = some x ∧ EndedInvalid x := by
  have hn : ∃ q, getTk (noteProgress s k) t = some q := by
    subst ht
    exact ⟨_, by rw [noteProgress, getTk_modTk_same, h]; rfl⟩
  obtain ⟨q, hq⟩ := hn
  have hf : getTk (modTk (noteProgress s k) t (failTk .invalid)) t = some { failTk .invalid q with ticket := t } := by
    rw [getTk_modTk_same, hq]; rfl
  simp only [refuse, h]
  exact refuseSet_keeps_ended hf (failTk_endedInvalid q)

/-! ## What a Carousel's read may change (R43, R45, R60) -/

/-- Only wrong bits of words, tickets, and of engine e the count of corrected errors and the write-backs due differ. -/
def RoundFrame (e : Eng) (s t : State) : Prop :=
  t = { s with upsets := t.upsets, tickets := t.tickets, engines := t.engines }
  ∧ t.engines[e] = { s.engines[e] with corrected := t.engines[e].corrected, writebacks := t.engines[e].writebacks }

section
variable {e : Eng} {s t u : State}

theorem RoundFrame.refl (e : Eng) (s : State) : RoundFrame e s s := ⟨rfl, rfl⟩

theorem RoundFrame.trans (h : RoundFrame e s t) (k : RoundFrame e t u) : RoundFrame e s u := by
  obtain ⟨hs, he⟩ := h
  obtain ⟨ks, ke⟩ := k
  refine ⟨?_, ?_⟩
  · rw [ks, hs]
  · rw [ke, he]

theorem RoundFrame.queues (h : RoundFrame e s t) : t.queues = s.queues := by rw [h.1]
theorem RoundFrame.mem (h : RoundFrame e s t) : t.mem = s.mem := by rw [h.1]
theorem RoundFrame.accs (h : RoundFrame e s t) : t.accs = s.accs := by rw [h.1]
theorem RoundFrame.flags (h : RoundFrame e s t) : t.flags = s.flags := by rw [h.1]
theorem RoundFrame.run (h : RoundFrame e s t) : t.engines[e].run = s.engines[e].run := by rw [h.2]
theorem RoundFrame.load (h : RoundFrame e s t) : t.engines[e].load = s.engines[e].load := by rw [h.2]
theorem RoundFrame.active (h : RoundFrame e s t) : t.engines[e].active = s.engines[e].active := by rw [h.2]
theorem RoundFrame.shadow (h : RoundFrame e s t) : t.engines[e].shadow = s.engines[e].shadow := by rw [h.2]

end

theorem upsetQueue_tickets (s : State) (e : Eng) (w : Nat) (code : Ecc) : (upsetQueue s e w code).tickets = s.tickets := by
  cases code <;> rfl

theorem upsetQueue_engines (s : State) (e : Eng) (w : Nat) (code : Ecc) : (upsetQueue s e w code).engines = s.engines := by
  cases code <;> rfl

theorem upsetQueue_roundFrame (s : State) (e : Eng) (w : Nat) (code : Ecc) : RoundFrame e s (upsetQueue s e w code) := by
  cases code <;> exact ⟨rfl, rfl⟩

theorem modTk_roundFrame (s : State) (e : Eng) (t : TicketId) (f : Tk → Tk) : RoundFrame e s (modTk s t f) := by
  unfold modTk
  split <;> exact ⟨rfl, rfl⟩

/-- A word with one wrong bit, met by a read: the error is counted and the write-back due (R60). -/
def correctedWord (e : Eng) (s : State) (w : Nat) : State :=
  dueWriteback (modEng s e fun r => { r with corrected := countUp r.corrected }) e w

theorem correctedWord_engine (e : Eng) (s : State) (w : Nat) : (correctedWord e s w).engines[e] =
    { s.engines[e] with corrected := countUp s.engines[e].corrected,
                        writebacks := addOnce s.engines[e].writebacks (Fin.ofNat 8388608 w) } := by
  simp only [correctedWord, dueWriteback, modEng_engine_same]

/-- The write-back of a corrected word is due, and those that were due before still are. -/
theorem mem_correctedWord_writebacks {e : Eng} {s : State} {w : Nat} {x : Fin 8388608} :
    x ∈ (correctedWord e s w).engines[e].writebacks ↔ x ∈ s.engines[e].writebacks ∨ x = Fin.ofNat 8388608 w := by
  rw [correctedWord_engine]
  exact mem_addOnce

theorem correctedWord_roundFrame (e : Eng) (s : State) (w : Nat) : RoundFrame e s (correctedWord e s w) :=
  ⟨rfl, by rw [correctedWord_engine]⟩

theorem correctedWords_roundFrame (e : Eng) : ∀ (l : List Nat) (s : State), RoundFrame e s (l.foldl (correctedWord e) s)
  | [], s => RoundFrame.refl e s
  | w :: l, s => (correctedWord_roundFrame e s w).trans (correctedWords_roundFrame e l _)

theorem correctedWords_tickets (e : Eng) : ∀ (l : List Nat) (s : State), (l.foldl (correctedWord e) s).tickets = s.tickets
  | [], _ => rfl
  | w :: l, s => correctedWords_tickets e l (correctedWord e s w)

/-- The write-backs due once words have been corrected: those that were due and those of the words. -/
theorem mem_correctedWords_writebacks (e : Eng) (x : Fin 8388608) : ∀ (l : List Nat) (s : State),
    x ∈ (l.foldl (correctedWord e) s).engines[e].writebacks ↔ x ∈ s.engines[e].writebacks ∨ ∃ w ∈ l, x = Fin.ofNat 8388608 w
  | [], s => by simp
  | w :: l, s => by
    rw [List.foldl_cons, mem_correctedWords_writebacks e x l, mem_correctedWord_writebacks]
    simp [or_assoc]

/-- The corrected words first, then the ticket's cause (R45, R60, R202). -/
theorem roundFinding_eq (s : State) (e : Eng) (t : TicketId) (m : Met) (bad : Bool) : roundFinding s e t m bad =
    if !m.doubles.isEmpty then modTk (m.singles.foldl (correctedWord e) s) t fun k => { addCause .eccUncorr k with noUnit := false }
    else if bad then modTk (m.singles.foldl (correctedWord e) s) t fun k =>
      { addCause .eccUncorr k with noUnit := k.noUnit || !k.causes.contains .eccUncorr }
    else m.singles.foldl (correctedWord e) s := rfl

theorem roundFinding_roundFrame (s : State) (e : Eng) (t : TicketId) (m : Met) (bad : Bool) :
    RoundFrame e s (roundFinding s e t m bad) := by
  have h := correctedWords_roundFrame e m.singles s
  rw [roundFinding_eq]
  split
  · exact h.trans (modTk_roundFrame _ _ _ _)
  · split
    · exact h.trans (modTk_roundFrame _ _ _ _)
    · exact h

theorem roundFinding_engines (s : State) (e : Eng) (t : TicketId) (m : Met) (bad : Bool) :
    (roundFinding s e t m bad).engines = (m.singles.foldl (correctedWord e) s).engines := by
  rw [roundFinding_eq]
  split
  · exact modTk_engines _ _ _
  · split
    · exact modTk_engines _ _ _
    · rfl

theorem roundFinding_writebacks {s : State} {e : Eng} {t : TicketId} {m : Met} {bad : Bool} {w : Nat} (h : w ∈ m.singles) :
    Fin.ofNat 8388608 w ∈ (roundFinding s e t m bad).engines[e].writebacks := by
  rw [roundFinding_engines, mem_correctedWords_writebacks]
  exact .inr ⟨w, h, rfl⟩

/-- A double-bit error is a cause of the ticket. -/
theorem roundFinding_eccUncorr {s : State} {e : Eng} {t : TicketId} {k : Tk} {m : Met} {bad : Bool} (hk : getTk s t = some k)
    (h : m.doubles ≠ []) : ∃ y, getTk (roundFinding s e t m bad) t = some y ∧ .eccUncorr ∈ y.causes := by
  have hd : (!m.doubles.isEmpty) = true := by simpa using h
  have hc : getTk (m.singles.foldl (correctedWord e) s) t = some k := by
    unfold getTk; rw [correctedWords_tickets]; exact hk
  rw [roundFinding_eq, if_pos hd, getTk_modTk_same, hc]
  exact ⟨_, rfl, mem_addOnce.mpr (.inr rfl)⟩

theorem roundFinding_clean (s : State) (e : Eng) (t : TicketId) {m : Met} (hd : m.doubles = []) (hs : m.singles = []) :
    roundFinding s e t m false = s := by
  simp [roundFinding_eq, hd, hs]

/-! ## The operand rows that a double-bit error poisons (R45, R60) -/

theorem markRows_noDoubles {m : Met} (h : m.doubles = []) (col : Bool) (round : Nat) (l : List OpRow) : markRows m col round l = l := by
  cases col <;> simp [markRows, h]

theorem markRows_colWise {m : Met} (h : m.doubles ≠ []) (round : Nat) (l : List OpRow) :
    ∀ o ∈ markRows m true round l, o.poison = true := by
  simp [markRows, h]

/-- Read row-wise, an operand row is poisoned besides where its own stored row holds a double-bit error. -/
theorem markRows_rowWise (m : Met) (round : Nat) (l : List OpRow) (j : Nat) : (markRows m false round l)[j]? =
    l[j]?.map fun o => { o with poison := o.poison || m.doubles.any fun p => p.1 - 8 * round == j } := by
  suffices h : ∀ (ds : List (Nat × Nat)) (l : List OpRow),
      (ds.foldl (fun l p => listMod l (p.1 - 8 * round) fun o => { o with poison := true }) l)[j]? =
        l[j]?.map fun o => { o with poison := o.poison || ds.any fun p => p.1 - 8 * round == j } from h m.doubles l
  intro ds
  induction ds with
  | nil => intro l; simp
  | cons p ds ih =>
    intro l
    rw [List.foldl_cons, ih, listMod_getElem?, Option.map_map]
    congr 1
    funext o
    by_cases hp : p.1 - 8 * round = j
    · simp [hp]
    · have hb : (p.1 - 8 * round == j) = false := by simpa using hp
      simp [hp, hb]

theorem markRows_rowWise_poison {m : Met} {round : Nat} {l : List OpRow} {p : Nat × Nat} {o : OpRow} (hp : p ∈ m.doubles)
    (ho : (markRows m false round l)[p.1 - 8 * round]? = some o) : o.poison = true := by
  rw [markRows_rowWise, Option.map_eq_some_iff] at ho
  obtain ⟨r, -, rfl⟩ := ho
  have : (m.doubles.any fun q => q.1 - 8 * round == p.1 - 8 * round) = true := List.any_eq_true.mpr ⟨p, hp, by simp⟩
  simp [this]

/-! ## A round as the Carousel reads it -/

theorem carouselRead_roundFrame (s : State) (e : Eng) (t : TicketId) (en : Entry) (fmt : Nat) (col : Bool) (n round word : Nat)
    (code : Ecc) : RoundFrame e s (carouselRead s e t en fmt col n round word code).1 :=
  (upsetQueue_roundFrame _ _ _ _).trans (roundFinding_roundFrame _ _ _ _ _)

/-- A read that meets no error and no poisoned row leaves the wrong bits that arose, and nothing else. -/
theorem carouselRead_clean {s : State} {e : Eng} {t : TicketId} {en : Entry} {fmt : Nat} {col : Bool} {n round word : Nat} {code : Ecc}
    (hd : (meetWords (upsetQueue s e (roundWord en col n round word) code) e en (roundReads en col n round)).doubles = [])
    (hs : (meetWords (upsetQueue s e (roundWord en col n round word) code) e en (roundReads en col n round)).singles = [])
    (hp : ∀ o ∈ (carouselRead s e t en fmt col n round word code).2, o.poison = false) :
    (carouselRead s e t en fmt col n round word code).1 = upsetQueue s e (roundWord en col n round word) code := by
  have hb : (carouselRead s e t en fmt col n round word code).2.any (·.poison) = false := by simpa using hp
  show roundFinding _ e t _ ((carouselRead s e t en fmt col n round word code).2.any (·.poison)) = _
  rw [hb, roundFinding_clean _ _ _ hd hs]

/-! ## The rounds of an input -/

section
variable {d : Desc} {i : Nat} {en : Entry} {ir : InRun} {rows : List OpRow}

/-- With the last round of a block column its operand rows are in hand (R62). -/
theorem roundTaken_whole (h : ir.round % colRounds (colWise d i) en.rows + 1 = colRounds (colWise d i) en.rows) :
    (roundTaken d i en ir rows).half = [] ∧ (roundTaken d i en ir rows).buf =
      ir.buf ++ ((joinHalves ir.half rows).take (operandRows en (dFmtIn d 0) (colWise d i)
        - ir.round / colRounds (colWise d i) en.rows * roundRows (dFmtIn d 0) (colWise d i))).map (spreadRow d i) := by
  simp only [roundTaken, if_pos h, and_self]

/-- A round before it leaves the first part of each operand row aside (R62). -/
theorem roundTaken_part (h : ir.round % colRounds (colWise d i) en.rows + 1 ≠ colRounds (colWise d i) en.rows) :
    (roundTaken d i en ir rows).half = joinHalves ir.half rows ∧ (roundTaken d i en ir rows).buf = ir.buf := by
  simp only [roundTaken, if_neg h, and_self]

/-- Behind the last round of an entry the input reads the next one from its start. -/
theorem roundTaken_last (h : lastRound en (dFmtIn d 0) (colWise d i) ir.round = true) :
    (roundTaken d i en ir rows).round = 0 ∧ (roundTaken d i en ir rows).entries = ir.entries + 1 := by
  simp only [roundTaken, h, if_true]
  split <;> exact ⟨rfl, rfl⟩

theorem roundTaken_more (h : ¬ lastRound en (dFmtIn d 0) (colWise d i) ir.round = true) :
    (roundTaken d i en ir rows).round = ir.round + 1 := by
  simp only [roundTaken, h]
  split <;> rfl

end

/-- The MATMUL under way on engine e may read a round of its input i: the shape uses the input, rows are left to read, the buffer has
room, the entry stands there, and for its first round the turn at the queue end has come (R63 to R65, R149). -/
structure StreamTurn (s : State) (e : Eng) (i : Fin 4) (a : ArrayRun) (k : Tk) (q : Nat) (en : Entry) : Prop where
  run : s.engines[e].run = some a
  ticket : getTk s a.ticket = some k
  used : i.val < shapeInputs (dShape k.desc)
  left : a.t - (a.done + a.ins[i].buf.length) ≠ 0
  room : a.ins[i].buf.length ≤ roundRows (dFmtIn k.desc 0) (colWise k.desc i.val)
  entry : inputEntry s k i.val a.ins[i] = some (q, en)
  turn : a.ins[i].round = 0 → popTurn s k q = true

/-- The round's entry is freed behind its last round unless KEEP is set (R68). -/
def entryLeft (s : State) (k : Tk) (i q : Nat) (en : Entry) (round : Nat) : State :=
  if lastRound en (dFmtIn k.desc 0) (colWise k.desc i) round && !keeps k.desc i then freeEntry s k.shelf q en.id else s

theorem entryLeft_eq (s : State) (k : Tk) (i q : Nat) (en : Entry) (round : Nat) :
    entryLeft s k i q en round = { s with queues := (entryLeft s k i q en round).queues } := by
  unfold entryLeft
  split <;> rfl

theorem entryLeft_kept {s : State} {k : Tk} {i q : Nat} {en : Entry} {round : Nat}
    (h : ¬ lastRound en (dFmtIn k.desc 0) (colWise k.desc i) round = true ∨ keeps k.desc i = true) : entryLeft s k i q en round = s := by
  unfold entryLeft
  rw [if_neg]
  cases h with
  | inl h => simp [h]
  | inr h => simp [h]

theorem entriesOf_freeEntry {s : State} {d : Shelf} {q id : Nat} (h : sparseWf [] s.queues = true) :
    entriesOf (freeEntry s d q id) d q
      = dropFreed ((entriesOf s d q).map fun y => if y.id = id then { y with freed := true } else y) :=
  sparseGet_set_same [] _ _ h

theorem entriesOf_entryLeft {s : State} {k : Tk} {i q : Nat} {en : Entry} {round : Nat} (hw : sparseWf [] s.queues = true)
    (hl : lastRound en (dFmtIn k.desc 0) (colWise k.desc i) round = true) (hk : keeps k.desc i = false) :
    entriesOf (entryLeft s k i q en round) k.shelf q
      = dropFreed ((entriesOf s k.shelf q).map fun y => if y.id = en.id then { y with freed := true } else y) := by
  simp only [entryLeft, hl, hk, Bool.not_false, Bool.and_self, if_true]
  exact entriesOf_freeEntry hw

/-- The round has been read and stands with its input, and the entry has been left behind its last round (R62, R63, R68). -/
def streamTaken (s : State) (e : Eng) (i : Fin 4) (a : ArrayRun) (k : Tk) (q : Nat) (en : Entry) (word : Nat) (code : Ecc) : State :=
  let x := carouselRead s e a.ticket en (dFmtIn k.desc 0) (colWise k.desc i.val) en.rows a.ins[i].round word code
  modEng (entryLeft x.1 k i.val q en a.ins[i].round) e fun r =>
    { r with run := r.run.map fun b => { b with ins := b.ins.set i (roundTaken k.desc i.val en a.ins[i] x.2) } }

section
variable {s : State} {e : Eng} {i : Fin 4} {a : ArrayRun} {k : Tk} {q : Nat} {en : Entry}

/-- A round of the MATMUL under way, at its entry: the MATMUL is refused, waits for the round's rows, or has the round (R66, R73). -/
theorem streamRound_turn (h : StreamTurn s e i a k q en) (word : Nat) (code : Ecc) : streamRound s e i word code =
    if a.ins[i].round = 0 ∧ streamEntryOk k.desc i.val en (a.t - (a.done + a.ins[i].buf.length)) = false then
      some (refuseRun s e a.ticket)
    else if roundReady en (colWise k.desc i.val) a.ins[i].round = true then some (streamTaken s e i a k q en word code)
    else none := by
  obtain ⟨hrun, htk, hused, hleft, hroom, hen, hturn⟩ := h
  have hgo : ¬ (decide (shapeInputs (dShape k.desc) ≤ i.val) || decide (a.t ≤ a.done + a.ins[i].buf.length)
      || decide (roundRows (dFmtIn k.desc 0) (colWise k.desc i.val) < a.ins[i].buf.length)) = true := by
    simp only [Bool.or_eq_true, decide_eq_true_eq]; omega
  have hpop : ¬ (decide (a.ins[i].round = 0) && !popTurn s k q) = true := by
    simp only [Bool.and_eq_true, decide_eq_true_eq, Bool.not_eq_true']
    exact fun hn => Bool.noConfusion ((hturn hn.1).symm.trans hn.2)
  simp only [streamRound, hrun, htk]
  rw [if_neg hgo]
  simp only [hen]
  rw [if_neg hpop]
  simp only [Bool.and_eq_true, decide_eq_true_eq, Bool.not_eq_true', streamTaken, entryLeft, ← Bool.not_eq_true, ite_not]

theorem streamTaken_run (h : StreamTurn s e i a k q en) (word : Nat) (code : Ecc) :
    (streamTaken s e i a k q en word code).engines[e].run = some { a with ins := a.ins.set i (roundTaken k.desc i.val en a.ins[i]
      (carouselRead s e a.ticket en (dFmtIn k.desc 0) (colWise k.desc i.val) en.rows a.ins[i].round word code).2) } := by
  have hx := (carouselRead_roundFrame s e a.ticket en (dFmtIn k.desc 0) (colWise k.desc i.val) en.rows a.ins[i].round word code).run
  simp only [streamTaken, modEng_engine_same]
  rw [entryLeft_eq, hx, h.run]
  rfl

/-- A read round changes of the other state what its read does and the queue of the entry. -/
theorem streamTaken_frame (word : Nat) (code : Ecc) :
    let x := carouselRead s e a.ticket en (dFmtIn k.desc 0) (colWise k.desc i.val) en.rows a.ins[i].round word code
    let v := streamTaken s e i a k q en word code
    v.queues = (entryLeft x.1 k i.val q en a.ins[i].round).queues
      ∧ v.mem = s.mem ∧ v.accs = s.accs ∧ v.flags = s.flags ∧ v.upsets = x.1.upsets := by
  have hx := carouselRead_roundFrame s e a.ticket en (dFmtIn k.desc 0) (colWise k.desc i.val) en.rows a.ins[i].round word code
  simp only [streamTaken, modEng_queues, modEng_mem, modEng_accs, modEng_flags, modEng_upsets, true_and]
  rw [entryLeft_eq]
  exact ⟨hx.mem, hx.accs, hx.flags, rfl⟩

end

/-- A round of the next MATMUL's first entry, read ahead: it stands with its input, and the entry stays (R63). -/
theorem aheadRound_reads {s : State} {e : Eng} {i : Fin 4} {k : Tk} {q : Nat} {en : Entry} (word : Nat) (code : Ecc)
    (hnext : nextMatmul s e = some k) (hused : i.val < shapeInputs (dShape k.desc)) (husable : inputUsable s k i.val = true)
    (hfirst : (aheadOf s.engines[e] k)[i].entries = 0) (hleft : (aheadOf s.engines[e] k)[i].buf.length < dT k.desc)
    (hroom : (s.engines[e].run.elim 0 fun a => a.ins[i].buf.length) + (aheadOf s.engines[e] k)[i].buf.length
      ≤ roundRows (dFmtIn k.desc 0) (colWise k.desc i.val))
    (hen : inputEntry s k i.val (aheadOf s.engines[e] k)[i] = some (q, en)) (hturn : popTurn s k q = true)
    (hok : streamEntryOk k.desc i.val en (dT k.desc) = true)
    (hready : roundReady en (colWise k.desc i.val) (aheadOf s.engines[e] k)[i].round = true) :
    aheadRound s e i word code =
      let ins := aheadOf s.engines[e] k
      let x := carouselRead s e k.ticket en (dFmtIn k.desc 0) (colWise k.desc i.val) en.rows ins[i].round word code
      some (modEng x.1 e fun r => { r with ahead := some (k.inst, ins.set i (roundTaken k.desc i.val en ins[i] x.2)) }) := by
  have hheld : ((s.engines[e].run.map fun a => a.ins[i].buf.length).getD 0) = s.engines[e].run.elim 0 fun a => a.ins[i].buf.length := by
    cases s.engines[e].run <;> rfl
  have hgo : ¬ (decide (shapeInputs (dShape k.desc) ≤ i.val) || !inputUsable s k i.val || (aheadOf s.engines[e] k)[i].entries != 0
      || decide (dT k.desc ≤ (aheadOf s.engines[e] k)[i].buf.length)
      || decide (roundRows (dFmtIn k.desc 0) (colWise k.desc i.val) <
          (s.engines[e].run.elim 0 fun a => a.ins[i].buf.length) + (aheadOf s.engines[e] k)[i].buf.length)) = true := by
    simp only [husable, hfirst, Bool.not_true, bne_self_eq_false, Bool.or_false, Bool.or_eq_true, decide_eq_true_eq]
    omega
  simp only [aheadRound, hnext, hheld]
  rw [if_neg hgo]
  simp only [hen, hturn, hok, hready, Bool.not_true, Bool.or_self, Bool.false_eq_true, if_false]

/-- A load with the operand rows of its next round in its buffer. -/
def loadTaken (rows : List OpRow) (l : LoadRun) : LoadRun :=
  { l with inp := { l.inp with round := l.inp.round + 1, buf := l.inp.buf ++ rows } }

/-- A round of the stationary load goes to the load's buffer (R62, R71). -/
theorem loadRound_reads {s : State} {e : Eng} {l : LoadRun} {k : Tk} {q : Nat} {en : Entry} (word : Nat) (code : Ecc)
    (hload : s.engines[e].load = some l) (htk : getTk s l.ticket = some k) (hq : dInQ k.desc 0 = some q)
    (hen : headEntry s k.shelf q = some en) (hleft : l.step + l.inp.buf.length < l.total) :
    let l4w : Bool := dShape k.desc = 6 ∨ dShape k.desc = 7
    let seen := l.step + l.inp.buf.length
    let col := colWise k.desc 0 && !(l4w && 512 ≤ seen)
    let per := roundRows (dFmtIn k.desc 0) col
    let x := carouselRead s e l.ticket en (dFmtIn k.desc 0) col (if l4w && col then 512 else en.rows) (seen / per) word code
    l.inp.buf.length ≤ per → roundReady en col (seen / per) = true →
    loadRound s e word code = some (modEng x.1 e fun r => { r with load := r.load.map (loadTaken x.2) }) := by
  intro l4w seen col per x hroom hready
  have hgo : ¬ (decide (l.total ≤ seen) || decide (per < l.inp.buf.length)) = true := by
    simp only [Bool.or_eq_true, decide_eq_true_eq]; omega
  simp only [loadRound, hload, htk, hq, Option.bind_some, hen]
  rw [if_neg hgo, if_neg (show ¬ (!roundReady en col (seen / per)) = true by simp [hready])]
  rfl

/-! ## CAROUSEL_ROUND -/

section
variable {s v : State} {e : Eng} {word : Fin 1024} {code : Ecc}

theorem exec_carouselRound_stream {i : Fin 4} (h : engRuns s e = true) (hr : streamRound s e i word.val code = some v) :
    exec (.carouselRound e (Fin.castSucc i) word code) s = .next (settle s v) := by
  show execCarouselRound e (Fin.castSucc i) word code s = _
  simp only [execCarouselRound, h, Fin.val_castSucc, i.isLt, Fin.eta, hr, dif_pos, Bool.not_true, Bool.false_eq_true, if_false]

theorem exec_carouselRound_ahead {i : Fin 4} (h : engRuns s e = true) (hs : streamRound s e i word.val code = none)
    (hr : aheadRound s e i word.val code = some v) : exec (.carouselRound e (Fin.castSucc i) word code) s = .next (settle s v) := by
  show execCarouselRound e (Fin.castSucc i) word code s = _
  simp only [execCarouselRound, h, Fin.val_castSucc, i.isLt, Fin.eta, hs, hr, dif_pos, Bool.not_true, Bool.false_eq_true, if_false]

theorem exec_carouselRound_load (h : engRuns s e = true) (hr : loadRound s e word.val code = some v) :
    exec (.carouselRound e 4 word code) s = .next (settle s v) := by
  show execCarouselRound e 4 word code s = _
  have h4 : ¬ (4 : Fin 5).val < 4 := by decide
  simp only [execCarouselRound, h, dif_neg h4, hr, Bool.not_true, Bool.false_eq_true, if_false]

end

/-- An entry that does not keep R66 ends the MATMUL under way with INVALID (R66, R154). -/
theorem exec_carouselRound_refuses {s : State} {e : Eng} {i : Fin 4} {a : ArrayRun} {k : Tk} {q : Nat} {en : Entry} {word : Fin 1024}
    {code : Ecc} (h : StreamTurn s e i a k q en) (hruns : engRuns s e = true) (hk : k.ticket = a.ticket) (h0 : a.ins[i].round = 0)
    (hbad : streamEntryOk k.desc i.val en (a.t - (a.done + a.ins[i].buf.length)) = false) :
    ∃ u x, exec (.carouselRound e (Fin.castSucc i) word code) s = .next u ∧ getTk u a.ticket = some x ∧ x.phase = .ended
      ∧ .invalid ∈ x.causes ∧ u.engines[e].run = none := by
  obtain ⟨x, hx, hphase, hcause⟩ := refuse_ended h.ticket hk
  have hr := streamRound_turn h word.val code
  rw [if_pos ⟨h0, hbad⟩] at hr
  refine ⟨_, x, exec_carouselRound_stream hruns hr, ?_, hphase, hcause, ?_⟩
  · unfold getTk at hx ⊢
    rw [settle_tickets]
    exact hx
  · rw [settle_engines, refuseRun, modEng_engine_same]

/-- Settles O36: a round that is read goes to its input's buffer or to the load's, and what it leaves follows from what one Carousel
read may change. -/
theorem carouselRoundReads : Obligations.CarouselRoundReads := by
  unfold Obligations.CarouselRoundReads
  refine ⟨?stream, ?ahead, ?load, ?code⟩
  case stream =>
    intro s e i word code a k q en ir fmt col per left last parts x whole c hwf hruns hrun htk hkt hused hleft hroom hen hturn
    have h : StreamTurn s e i a k q en := ⟨hrun, htk, hused, hleft, hroom, hen, hturn⟩
    refine ⟨fun h0 hbad => exec_carouselRound_refuses h hruns hkt h0 hbad, fun hok hready => ?_⟩
    have hr := streamRound_turn h word.val code
    rw [if_neg fun hn => Bool.noConfusion ((hok hn.1).symm.trans hn.2), if_pos (show _ = true from hready)] at hr
    have hx := carouselRead_roundFrame s e a.ticket en fmt col en.rows ir.round word.val code
    obtain ⟨hq, hmem, haccs, hflags, hups⟩ :=
      streamTaken_frame (s := s) (e := e) (i := i) (a := a) (k := k) (q := q) (en := en) word.val code
    let b : ArrayRun := { a with ins := a.ins.set i (roundTaken k.desc i.val en ir x.2) }
    have hins : b.ins[i] = roundTaken k.desc i.val en ir x.2 := Vector.getElem_set_self _
    refine ⟨_, b, exec_carouselRound_stream hruns hr, (congrArg (·[e].run) (settle_engines _ _)).trans (streamTaken_run h _ _),
      fun hp => ?_, fun hp => ?_, fun hl => ?_, fun hl => ?_, fun n hn => ?_, rfl, rfl, fun hk => ?_, fun hl hk => ?_,
      (settle_mem _ _).trans hmem, (settle_accs _ _).trans haccs, (settle_flags _ _).trans hflags, (settle_upsets _ _).trans hups⟩
    · rw [hins]; exact roundTaken_whole hp
    · rw [hins]; exact roundTaken_part hp
    · rw [hins]; exact roundTaken_last hl
    · rw [hins]; exact roundTaken_more hl
    · exact Vector.getElem_set_ne i.isLt n.isLt fun he => hn (Fin.ext he.symm)
    · rw [settle_queues, hq, entryLeft_kept hk]; exact hx.queues
    · have hw : sparseWf [] x.1.queues = true := by rw [hx.queues]; exact hwf
      have he := entriesOf_entryLeft (k := k) (i := i.val) (q := q) hw hl hk
      unfold entriesOf at he ⊢
      rw [settle_queues, hq, he, hx.queues]
  case ahead =>
    intro s e i word code k q en ins ir fmt col x hruns hstream hnext hused husable hfirst hleft hroom hen hturn hok hready
    have hr := aheadRound_reads word.val code hnext hused husable hfirst hleft hroom hen hturn hok hready
    have hx := carouselRead_roundFrame s e k.ticket en fmt col en.rows ir.round word.val code
    refine ⟨_, exec_carouselRound_ahead hruns hstream hr, ?_⟩
    simp only [settle_engines, settle_queues, settle_mem, settle_accs, modEng_engine_same, modEng_queues, modEng_mem, modEng_accs]
    exact ⟨rfl, hx.run, hx.active, hx.queues, hx.mem, hx.accs⟩
  case load =>
    intro s e word code l k q en fmt l4w seen col per x hruns hload htk hleft hroom hq hen hready
    have hr := loadRound_reads word.val code hload htk hq hen hleft hroom hready
    have hx := carouselRead_roundFrame s e l.ticket en fmt col (if l4w && col then 512 else en.rows) (seen / per) word.val code
    have hl := hx.load.trans hload
    refine ⟨_, loadTaken x.2 l, exec_carouselRound_load hruns hr, ?_, ?_⟩
    · rw [settle_engines, modEng_engine_same, hl]; rfl
    · simp only [settle_engines, settle_queues, settle_mem, modEng_engine_same, modEng_queues, modEng_mem]
      exact ⟨rfl, rfl, hx.active, hx.shadow, hx.queues, hx.mem⟩
  case code =>
    intro s e t k en fmt n round word col code x m htk _
    have htk' : getTk (upsetQueue s e (roundWord en col n round word) code) t = some k := by
      unfold getTk; rw [upsetQueue_tickets]; exact htk
    refine ⟨fun hd => markRows_noDoubles hd _ _ _, fun w hw => roundFinding_writebacks hw,
      fun hd => ⟨roundFinding_eccUncorr htk' hd, fun hc => ?_⟩, fun hc p hp o ho => ?_, fun hd hs hp => ?_⟩
    · subst hc
      exact markRows_colWise hd round _
    · subst hc
      exact markRows_rowWise_poison hp ho
    · rw [carouselRead_clean hd hs hp]
      exact ⟨upsetQueue_engines _ _ _ _, upsetQueue_tickets _ _ _ _⟩

end Sys2Proof.Machine
end
